-- ==== Sys2Proof/Syntax.lean ====
section
/-! DEFINITION. The commands of the block: one constructor per row of spec/opcode_table.json.
Each docstring gives the row's mnemonic, its rule and its operands. Operands are what the
command's sender chooses, or what the outside world supplies with the event (a reading, a time,
a received flit): `q` a packet queue (context ring x at x, admin ring of function f at 64 + f,
relay queues at 128 + x and 192 + f); `fn` a PCIe function (0 the PF, f VF f); `port` a trace
port, 24 the loopback; `v` the value written; `id` a command, request or entry number. -/
namespace Sys2Proof

inductive Instr where
  /-- NOP (R422): A command that completes with OK. -/
  | nop (q : Nat)
  /-- FENCE (R424): Waits at issue until every earlier command of the ring has completed, then completes. -/
  | fence (q : Nat)
  /-- WAIT_STRIDE (R424): Waits at issue until the stride counter reaches an absolute or relative stride, then completes. -/
  | waitStride (q : Nat)
  /-- SIGNAL (R425): After all earlier commands of the ring complete, writes or adds a 64-bit value locally, in host memory or on a remote device. -/
  | signal (q : Nat)
  /-- WAIT_VALUE (R426): Waits at issue until an 8-byte value in device memory reaches or equals a threshold, then completes. -/
  | waitValue (q : Nat)
  /-- HANDLE_BIND (R427): Binds a pad handle on a core to the command's context and generation. -/
  | handleBind (q : Nat)
  /-- HANDLE_RELEASE (R427): Waits until the handles in a mask can be released, then unbinds them all in one cycle. -/
  | handleRelease (q : Nat)
  /-- LOAD (R236): Moves DMA descriptor extents from memory into a claimed pad handle. -/
  | load (q : Nat)
  /-- STORE (R236): Moves an acquired pad handle's rows out to memory. -/
  | store (q : Nat)
  /-- OFFLOAD (R236): Copies a descriptor extent to a contiguous slow-tier or host region through the update die's tags. -/
  | offload (q : Nat)
  /-- PREFETCH (R236): Loads a descriptor extent into the slow-tier read cache. -/
  | prefetch (q : Nat)
  /-- GATHER (R242): Delivers table rows selected by an index stream into pad rows, zero for out-of-range indices. -/
  | gather (q : Nat)
  /-- SCATTER (R243): Writes or adds pad rows into table rows selected by an index stream. -/
  | scatter (q : Nat)
  /-- ROUTE_TOKENS (R245): Sends pad rows to expert slots on other devices, or returns them, by a stream of routing words. -/
  | routeTokens (q : Nat)
  /-- MATMUL (R429): Computes Y = X times W in memory form from a weight version, or in handle form on one core. -/
  | matmul (q : Nat)
  /-- BLOCK_FWD (R153): Runs a group of layers forward, keeping and offloading layer inputs for a later BLOCK_BWD when STASH is set. -/
  | blockFwd (q : Nat)
  /-- BLOCK_TRAIN (R153): Runs a group of layers forward and then backward, writing the block-input gradient and weight gradients. -/
  | blockTrain (q : Nat)
  /-- BLOCK_BWD (R201): Runs a group of layers backward from a stash left by an earlier BLOCK_FWD. -/
  | blockBwd (q : Nat)
  /-- ATTN (R431): Computes the attention forward over sequences of rows on the command's clusters. -/
  | attn (q : Nat)
  /-- VEC (R435): Runs one vector-unit operation on pad handles of one core. -/
  | vec (q : Nat)
  /-- REDUCE (R312): Sums one tensor from each member of a job in ALIGNED32 at the root, or at every member with ALL. -/
  | reduce (q : Nat)
  /-- REDUCE_LR (R317): Thins a weight gradient to low-rank factors P and Q and sums the factors at every member, keeping a residual. -/
  | reduceLr (q : Nat)
  /-- BROADCAST (R314): Copies bytes from the root to every member of a tree. -/
  | broadcast (q : Nat)
  /-- ALLGATHER (R314): Concatenates one block from each member in rank order at every member. -/
  | allgather (q : Nat)
  /-- UPDATE (R334): Applies the context's rule to each owned layer of a list, installs and multicasts new versions, and registers replica entries. -/
  | update (q : Nat)
  /-- PRECOND (R355): Computes preconditioner factor roots for a list of layers at once. -/
  | precond (q : Nat)
  /-- VERSION_RELEASE (R222): Releases one or every stash of the context: blocks, offload records and version references. -/
  | versionRelease (q : Nat)
  /-- RULE_LOAD (R350): Replaces the context's rule image after checking it. -/
  | ruleLoad (q : Nat)
  /-- CTX_CREATE (R457): Creates a context in a paddock, with page table, regions, job binding and initial tables. -/
  | ctxCreate (q : Nat)
  /-- CTX_TEARDOWN (R473): Tears a context down: aborts its work, raises its generation, drains the fabric, scrubs and optionally zeroes its HBM. -/
  | ctxTeardown (q : Nat)
  /-- PADDOCK_SET (R454): Sets a paddock to exactly the listed clusters, groups, ways, channels and cache ways, scrubbing what is removed. -/
  | paddockSet (q : Nat)
  /-- GAIT_LOAD (R462): Loads a paddock's gait table of slots, or returns it to open mode. -/
  | gaitLoad (q : Nat)
  /-- SCALE_SET (R66): Writes control fields, clears rings or clears overflow words of a range of scale slots. -/
  | scaleSet (q : Nat)
  /-- SCALE_READ (R601): Writes the 128-byte image of each slot of a range to device or host memory. -/
  | scaleRead (q : Nat)
  /-- SEED_SET (R69): Sets the context's 64-bit stochastic-rounding seed. -/
  | seedSet (q : Nat)
  /-- PACKET_FETCH (R413): The device CP fetches a packet from a submission ring and checks its header in order. -/
  | packetFetch (q : Nat)
  /-- RELAY_SEND (R386): A lead sends a fetched packet for a seat of its hitch as RELAY_CMD once it holds a relay credit. -/
  | relaySend (q : Nat)
  /-- COMMAND_COMPLETE (R416): A command ends its work and its completion is formed. -/
  | commandComplete (id : Nat)
  /-- COMPLETION_WRITE (R408): A completion entry is written once the completion ring has room, then the ring's MSI-X vector is sent. -/
  | completionWrite (q : Nat)
  /-- SQ_TAIL (R407): A doorbell write of a submission tail makes slots available, or raises a ring error. -/
  | sqTail (fn : Nat) (n : Nat) (v : Nat)
  /-- CQ_HEAD (R408): A doorbell write of a completion head frees entries, or raises a ring error. -/
  | cqHead (fn : Nat) (n : Nat) (v : Nat)
  /-- RING_ENABLE (R405): A write of 1 to ENABLE checks the ring's base, size and windows and starts it, or is refused. -/
  | ringEnable (fn : Nat) (n : Nat) (v : Nat)
  /-- RING_DISABLE (R410): A write of 0 to ENABLE stops fetching and drains fetched commands. -/
  | ringDisable (fn : Nat) (n : Nat) (v : Nat)
  /-- TLB_INVALIDATE (R260): A write to the TLB invalidation register starts dropping the named translations and sets BUSY. -/
  | tlbInvalidate (fn : Nat) (v : W64)
  /-- TLB_INV_DONE (R260): Every MMU has dropped the entries and every request through them has finished, so BUSY clears. -/
  | tlbInvDone (fn : Nat)
  /-- WINDOW_WRITE (R441): A write to a host DMA window entry applies to later requests and sets the function's PCI_WIN_BUSY bit. -/
  | windowWrite (fn : Nat) (f : Nat) (n : Nat) (v : W128)
  /-- WIN_BUSY_CLEAR (R441): Host requests made before a window write have completed, so the function's busy bit clears. -/
  | winBusyClear (f : Nat)
  /-- ATS_INVALIDATION (R442): An ATS invalidation from the host completes after every request using the translation has completed. -/
  | atsInvalidation (fn : Nat) (page : Nat) (pages : Nat)
  /-- DOE_DISCOVERY (R401): A DOE discovery request on the PF mailbox is answered. -/
  | doeDiscovery (idx : Nat)
  /-- BAR4_READ (R404): A read through the debug window reaches HBM directly, poisoned if uncorrectable. -/
  | bar4Read (off : Nat) (len : Nat)
  /-- BAR4_WRITE (R404): A write through the debug window takes effect only with WRITE_EN and the PF holding the rein. -/
  | bar4Write (off : Nat) (data : List Byte)
  /-- REG_READ_LOW_HALF (R15): A 32-bit read of the low part of a wide register captures the rest into a per-function shadow. -/
  | regReadLowHalf (fn : Nat) (addr : Nat) (bytes : Nat)
  /-- REG_WRITE_LOW_HALF (R16): A partial write of a wide register is held in a per-function write shadow until its highest part is written. -/
  | regWriteLowHalf (fn : Nat) (addr : Nat) (bytes : Nat) (v : W64)
  /-- REG_WRITE (R11): A write to a register with no row of its own, dropped if OW and the master lacks the rein. -/
  | regWrite (fn : Nat) (addr : Nat) (bytes : Nat) (v : W64)
  /-- ERR_LATCH_WRITE (R602): A W1C write to an error latch register clears latches and rearms its error address register when all named latches are 0. -/
  | errLatchWrite (fn : Nat) (addr : Nat) (v : W64)
  /-- CAP_WRITE (R32): A write to PC_CAP or BANK_CAP sets a tag cap, logging CONFIG when it is above its maximum. -/
  | capWrite (fn : Nat) (addr : Nat) (v : W64)
  /-- INJ_ARM (R109): A write of INJ_ARM in CORE_CTL injects one sequencer fault into the next pass or VU operation at a site. -/
  | injArm (fn : Nat) (core : Nat) (v : W64)
  /-- RED_INJ_ARM (R321): A write of INJ_ARM flips bit 0 of lane 0 in the next group a reduction unit sends. -/
  | redInjArm (fn : Nat) (unit : Nat) (v : W64)
  /-- INJ_HOLD (R321): A write of INJ_HOLD flips bit 0 of lane 0 in every group a reduction unit sends until cleared. -/
  | injHold (fn : Nat) (unit : Nat) (v : W64)
  /-- FENCE_BIT_WRITE (R547): A write to a health fence bit fences or unfences a unit and is logged. -/
  | fenceBitWrite (fn : Nat) (addr : Nat) (v : W64)
  /-- CHECK (R378): A write of CHECK starts the local check and neighbour exchange of the pending routing table. -/
  | check (fn : Nat) (v : W64)
  /-- TRC_COMMIT_STRIDE (R380): A write names the stride at whose boundary a passed pending routing table commits. -/
  | trcCommitStride (fn : Nat) (v : W64)
  /-- RELAY_RESET (R386): A write of GO resets a seat's relay: epoch raised, outstanding packets aborted, RELAY_PURGE sent. -/
  | relayReset (fn : Nat) (v : W64)
  /-- RETRAIN (R365): A write of RETRAIN starts retraining a trace port. -/
  | retrain (fn : Nat) (port : Nat) (v : W64)
  /-- LINK_ENABLE (R400): A write of ENABLE enables or disables a trace port. -/
  | linkEnable (fn : Nat) (port : Nat) (v : W64)
  /-- TIM_COMMIT_STRIDE (R449): A write names the boundary at which pending stride values become active. -/
  | timCommitStride (fn : Nat) (v : W64)
  /-- LOAD_NOW (R449): A write of LOAD_NOW makes pending stride values active at the next boundary. -/
  | loadNow (fn : Nat) (v : W64)
  /-- ACC_CLEAR (R478): A write of 1 to bits of ACC_CLEAR_CTX or ACC_CLEAR_PDK marks counters for clearing at the next snapshot. -/
  | accClear (fn : Nat) (addr : Nat) (v : W64)
  /-- RECOVERY_CHUNK_WRITE (R507): A write of CHUNK with WRITE stores one 64 KiB recovery chunk of a new image. -/
  | recoveryChunkWrite (fn : Nat) (v : W64)
  /-- RECOVERY_FINISH (R507): A write of FINISH makes the boot ROM check and boot the recovered image. -/
  | recoveryFinish (fn : Nat) (v : W64)
  /-- FLIT_RECEIVE (R363): A received flit is accepted or discarded, and its ACK, NAK, credits, link messages and stream bytes are taken. -/
  | flitReceive (port : Nat) (flit : List Byte) (fec : Nat)
  /-- REPLAY_TIMEOUT (R363): 4 µs pass with flits unacknowledged, so the transmitter replays or retrains after 64 replays. -/
  | replayTimeout (port : Nat)
  /-- SIGNAL_DETECT (R365): Signal is detected or lost on a port's receive lanes. -/
  | signalDetect (port : Nat) (on : Bool)
  /-- FEC_ALIGN_LOSS (R365): A port loses FEC alignment and retrains. -/
  | fecAlignLoss (port : Nat)
  /-- TRAINING_COMPLETE (R365): A port finishes training and hello, chooses its level and resumes or flushes by session comparison. -/
  | trainingComplete (port : Nat) (hello : List Byte)
  /-- TRAINING_TIMEOUT (R365): A training not UP 5 s after start counts as failed, restarting or entering FAILED after 3. -/
  | trainingTimeout (port : Nat)
  /-- PACKET_EGRESS (R370): A port's egress starts the next packet that holds credits, VC3 first, then oldest. -/
  | packetEgress (port : Nat)
  /-- REMOTE_WRITE (R248): A remote write is applied at the destination in the context its JOB maps to, or refused with NACK. -/
  | remoteWrite (port : Nat)
  /-- REMOTE_READ (R248): A remote read is served at the destination and answered with READ_DATA or NACK. -/
  | remoteRead (port : Nat)
  /-- RESERVE (R337): A replica reserves or refuses its version record for a new version and answers with GRANT. -/
  | reserve (port : Nat)
  /-- RELAY_CMD (R385): A seat receives a relayed Ifeano packet into its relay queue and executes it as its own. -/
  | relayCmd (port : Nat)
  /-- HOST_REQ (R387): A lead checks a seat's host request against the function's windows and makes or refuses it. -/
  | hostReq (port : Nat)
  /-- RELAY_PURGE (R386): A seat discards its queued relay packets of every context and answers PURGE_ACK. -/
  | relayPurge (port : Nat)
  /-- ORDER_MARK (R372): A destination consumes a route-change mark and answers ORDER_ACK. -/
  | orderMark (port : Nat)
  /-- DRAIN (R383): A receiver answers DRAIN_RETURN with stale drop counts once both link dies hold the new generation. -/
  | drain (port : Nat)
  /-- WRITE_ACK (R245): A remote write is acknowledged at its requester, freeing its tag. -/
  | writeAck (port : Nat)
  /-- READ_DATA (R247): Data of a remote read lands at its requester. `port` is the port plus 32 × the alias hazard
  that the landing reports (R138, assumption log 9). -/
  | readData (port : Nat)
  /-- NACK (R248): A refused remote request aborts its source command with the carried status. -/
  | nack (port : Nat)
  /-- GRANT (R337): An owner receives a replica's grant or refusal of a reservation. -/
  | grant (port : Nat)
  /-- RELAY_CPL (R386): A lead writes a relayed completion entry to its ring and regains a relay credit, or drops it for an old epoch. -/
  | relayCpl (port : Nat)
  /-- HOST_RESP (R387): A seat receives the result of its host request. `port` is the port plus 32 × the alias hazard
  that the landing reports (R138, assumption log 9). -/
  | hostResp (port : Nat)
  /-- CHUNK_ACK (R296): An acknowledgement frees a chunk's place in the sender's retain buffer. -/
  | chunkAck (port : Nat)
  /-- CHUNK_AGAIN (R296): A sender retransmits a chunk from its retain buffer. -/
  | chunkAgain (port : Nat)
  /-- REFUSED (R300): A sender keeps a chunk refused before its reduction was issued at the receiver. -/
  | refused (port : Nat)
  /-- ISSUED (R300): A sender sends again the chunks that were refused before the reduction's issue. -/
  | issued (port : Nat)
  /-- DRAIN_RETURN (R383): A teardown receives a drain return and adds its stale drops. -/
  | drainReturn (port : Nat)
  /-- COPY_STATUS (R319): An owner receives a replica's result of a weight multicast. -/
  | copyStatus (port : Nat)
  /-- PURGE_ACK (R386): A lead restores all relay credits of a seat. -/
  | purgeAck (port : Nat)
  /-- CHUNK (R294): A reduction unit receives a chunk, checks its residues, and adds, forwards, delivers, or asks for it again. -/
  | chunk (port : Nat)
  /-- TAIL (R301): A reduction header tail is combined at an adder or, at the root, fixes the status of the sum. -/
  | tail (port : Nat)
  /-- RESULT (R305): A member receives the result header, writes it and completes its collective with its status. -/
  | result (port : Nat)
  /-- NOTICE (R336): A replica completes its update entry with the owner's status and forwards the notice. -/
  | notice (port : Nat)
  /-- MGMT (R373): A management message from a fabric manager is queued for the Groom or dropped when the queue is full. -/
  | mgmt (port : Nat)
  /-- DIRECTED (R374): A management message routed by a port list is forwarded by its index or consumed at the list's end. -/
  | directed (port : Nat)
  /-- SYNC (R390): A time exchange packet is timestamped and used to correct fabric time. -/
  | sync (port : Nat) (ps : Nat)
  /-- ANNOUNCE (R389): A time master candidate announcement updates the best known candidate. -/
  | announce (port : Nat)
  /-- ABORT (R531): A device holds the context bound to the job and ends its commands. -/
  | abort (port : Nat)
  /-- TABLE_XCHG (R378): A neighbour's pending and active tables arrive and are checked by the up-down rule. -/
  | tableXchg (port : Nat)
  /-- GEN_NOTICE (R383): A receiver raises the generation record of a source context on both link dies. -/
  | genNotice (port : Nat)
  /-- RESTART (R382): The source's generation records are invalidated and a lead resets the seat's relay. -/
  | restart (port : Nat)
  /-- ORDER_ACK (R372): Held packets for a destination are sent on the new port and the new route takes effect. -/
  | orderAck (port : Nat)
  /-- ORDER_ACK_TIMEOUT (R372): No ORDER_ACK arrives within the response timeout, so the new route takes effect. -/
  | orderAckTimeout (dest : Nat) (vc : Nat)
  /-- ROUTE_CHECK_TIMEOUT (R378): A neighbour has not reported within 10 ms and counts as FAIL. -/
  | routeCheckTimeout (port : Nat)
  /-- RESP_TIMEOUT (R396): A remote or host request's response timer expires and its command aborts with TIMEOUT. -/
  | respTimeout (tag : Nat)
  /-- SYNC_TIMER (R390): Every 125 µs a device starts a SYNC exchange with its time parent. -/
  | syncTimer (ps : Nat)
  /-- ANNOUNCE_TIMER (R389): Every 10 ms a device sends ANNOUNCE on every UP port. -/
  | announceTimer
  /-- CANDIDATE_TIMEOUT (R389): A candidate not announced for 30 ms is forgotten. -/
  | candidateTimeout (dev : Nat)
  /-- HOLDOVER_TIMEOUT (R392): No SYNC from the parent for 1 ms, so the device enters HOLDOVER. -/
  | holdoverTimeout
  /-- SYNC_LOST_TIMEOUT (R392): After 1,000 ms of HOLDOVER the device latches SYNC_LOST. -/
  | syncLostTimeout
  /-- PASS_ISSUE (R87): The scoreboard issues a pass on an engine site once all its operands, stages, banks and drain space are ready. -/
  | passIssue (core : Nat) (site : Nat)
  /-- PASS_RETIRE (R85): A pass's last partial sum lands in the accumulator and the pass retires. -/
  | passRetire (core : Nat) (site : Nat)
  /-- DRAIN_DONE (R86): An accumulator bank has been drained, narrowed and written to the output buffer. -/
  | drainDone (core : Nat) (n : Nat) (hz : Nat)
  /-- PRODUCT_TAKE (R93): A freed engine site takes the oldest product it may run whose first pass can issue. -/
  | productTake (core : Nat) (site : Nat)
  /-- CORE_FAULT (R103): A fault is latched in a core, stopping and aborting the affected commands and marking outputs DIRTY. -/
  | coreFault (core : Nat) (site : Nat) (kind : Nat) (info : W64)
  /-- BATCH_WINDOW_EXPIRY (R100): A batching window expires and the held batch is dispatched. -/
  | batchWindowExpiry (n : Nat)
  /-- HANDLE_CLAIM (R132): A writer's waiting claim succeeds and the handle becomes FILLING. -/
  | handleClaim (core : Nat) (h : Nat)
  /-- PAD_PATROL_READ (R143): The pad patrol scrub reads and corrects one row line. `findings`: what the
  check of the cell of bank `bank` + i found, at base-4 digit i (0 nothing, 1 one symbol, 2 uncorrectable). -/
  | padPatrolRead (core : Nat) (word : Nat) (bank : Nat) (findings : Nat)
  /-- PAD_SCRUB_DONE (R142): A pad scrub after a context leaves a core finishes and its handles are unbound. -/
  | padScrubDone (core : Nat)
  /-- BANK_GROUP_GATE_REQUEST (R144): An idle bank group with no bound handle requests a gate and blocks new writes. -/
  | bankGroupGateRequest (core : Nat) (group : Nat)
  /-- BANK_GROUP_GATED (R145): The in-flight write counter reaches zero and the bank group is gated. -/
  | bankGroupGated (core : Nat) (group : Nat)
  /-- GATE_ABANDON (R145): A gate request not drained in 100 µs is abandoned and PWR_GATE_ABORT increases. -/
  | gateAbandon (kind : Nat) (unit : Nat)
  /-- BANK_GROUP_WAKE_DONE (R146): A woken bank group is ready with zeroed cells after 5 µs. -/
  | bankGroupWakeDone (core : Nat) (group : Nat)
  /-- STASH_RESERVE (R175): At a KEEP or OFFLOAD layer's first core operation, blocks are reserved on every die, or the layer is demoted. -/
  | stashReserve (id : Nat) (layer : Nat)
  /-- STASH_COPY_LANDED (R175): A layer input's copy to saddlebag blocks has landed and its handle may be released. -/
  | stashCopyLanded (id : Nat) (layer : Nat)
  /-- OFFLOAD_DRAIN_DONE (R183): The last write of an offload drain is acknowledged and the staging blocks are freed. -/
  | offloadDrainDone (id : Nat) (layer : Nat)
  /-- OFFLOAD_FETCH_START (R185): At the backward pass of a later layer, the fetch of an offloaded input begins into reserved blocks. -/
  | offloadFetchStart (id : Nat) (layer : Nat)
  /-- OFFLOAD_FETCH_DONE (R185): An offloaded input has been fetched back and is held. -/
  | offloadFetchDone (id : Nat) (layer : Nat)
  /-- REBUILD_RUN (R188): A missing layer input is rebuilt by running layers forward from the nearest checkpoint, storing what fits. -/
  | rebuildRun (id : Nat) (layer : Nat)
  /-- PARK_TRANSFER (R207): Held tensors are parked to or restored from the core's park area over the X port. -/
  | parkTransfer (core : Nat)
  /-- STH_PATROL_READ (R193): The saddlebag patrol scrub reads and corrects one word. -/
  | sthPatrolRead (die : Nat) (word : Nat) (finding : Nat)
  /-- SADDLEBAG_SCRUB_DONE (R179): Zeroing of a context's saddlebag blocks finishes. -/
  | saddlebagScrubDone (die : Nat)
  /-- REQUEST_ADMIT (R228): A waiting memory request is translated and admitted at its target when under the cap and a tag is free. -/
  | requestAdmit (id : Nat)
  /-- REQUEST_LAND (R227): A request's read data land or its write is acknowledged, freeing its tag and decrementing its target's count. -/
  | requestLand (id : Nat) (finding : Nat) (hz : Nat)
  /-- GATHER_DESCRIPTOR_ASSIGN (R241): A gather descriptor is given to the lowest free gather engine of the die when one frees. -/
  | gatherDescriptorAssign (die : Nat)
  /-- ROUTE_COUNT_WRITE (R246): After every write to a destination and slot is acknowledged, the count word is written there. -/
  | routeCountWrite (job : Nat) (dest : Nat) (slot : Nat)
  /-- HBM_REFRESH (R262): The controller issues refresh or refresh management to a pseudo-channel. -/
  | hbmRefresh (pc : Nat) (n : Nat)
  /-- RECALIBRATION (R279): Every 32 ms a target's interface is recalibrated, failures setting CAL_FAIL. -/
  | recalibration (unit : Nat) (ok : Bool)
  /-- SELF_REFRESH_REQUEST (R277): A stack or channel requests self-refresh on gait, idle time or reset, and holds new admissions. -/
  | selfRefreshRequest (unit : Nat)
  /-- SELF_REFRESH_ENTERED (R277): Admitted requests have drained and the devices enter self-refresh. -/
  | selfRefreshEntered (unit : Nat)
  /-- SELF_REFRESH_ABANDON (R277): Self-refresh entry not drained in 100 µs is abandoned and PWR_GATE_ABORT increases. -/
  | selfRefreshAbandon (unit : Nat)
  /-- SELF_REFRESH_EXIT_READY (R278): A stack or channel leaving self-refresh becomes ready after 2 ms or 50 µs. -/
  | selfRefreshExitReady (unit : Nat)
  /-- MEM_PATROL_READ (R276): The HBM or DDR5 patrol scrub reads and corrects a word. -/
  | memPatrolRead (unit : Nat) (word : Nat) (finding : Nat)
  /-- RESERVATION_GRANT (R220): A waiting reservation on a version record is granted once the record is free, dropping the previous version. -/
  | reservationGrant (vrec : Nat)
  /-- MULTICAST_LANDED (R319): Every chunk of a weight multicast has landed and passed at a replica, which commits or abandons. -/
  | multicastLanded (id : Nat)
  /-- UPDATE_SEAL_READY (R332): The step entry of an UPDATE becomes SEALED and owner entries are taken. -/
  | updateSealReady (id : Nat)
  /-- UPD_TASK_SWITCH (R351): At a unit boundary the update engine takes the oldest ready task. -/
  | updTaskSwitch
  /-- UPD_STREAM_UE (R352): An uncorrectable word or parity error ends a task and abandons the layer's install.
  `kind`: 0 a stream word or a WLD, 1 the working store, 2 the datapath, 3 a corrected word of the working store. -/
  | updStreamUe (kind : Nat) (addr : W64)
  /-- STRIDE_BOUNDARY (R450): The stride counter advances at a stride boundary. -/
  | strideBoundary
  /-- ACCOUNTING_SNAPSHOT (R478): Every SNAP_STRIDES strides, all counters are copied in one cycle and pending clears applied. -/
  | accountingSnapshot
  /-- HOOFBEAT_CHECK (R519): Every CHECK_STRIDES strides the health engine records counters and pending bits and judges hangs. -/
  | hoofbeatCheck
  /-- GAIT_COMMIT (R554): A committed change of gait begins at its boundary. -/
  | gaitCommit
  /-- STRIDE_VALUES_COMMIT (R449): Pending stride period and base become active at their commit boundary. -/
  | strideValuesCommit
  /-- ROUTE_TABLE_COMMIT (R380): A passed pending routing table becomes active at its commit stride. -/
  | routeTableCommit
  /-- GAIT_TABLE_EFFECT (R462): A loaded gait table, or open mode, takes effect at its boundary. -/
  | gaitTableEffect (p : Nat)
  /-- SLOT_BEGIN (R463): A gait table slot begins, resolving its name to a context, and a run begins or the slot is idle. -/
  | slotBegin (p : Nat)
  /-- RUN_END (R467): A context's run ends, and running commands begin to overrun. -/
  | runEnd (p : Nat)
  /-- SWITCH_START (R469): At a run's start plus debit, a switch saves the outgoing context and restores the incoming one. -/
  | switchStart (p : Nat)
  /-- SWITCH_DONE (R470): The last die finishes the switch and the incoming context may issue. -/
  | switchDone (p : Nat)
  /-- OVERRUN_LIMIT (R468): LIMIT strides after a run ends, its still-running commands are treated as hung. -/
  | overrunLimit (x : Nat)
  /-- TELEMETRY_SAMPLE (R507): Every TELEM_STRIDES strides a telemetry record is written to the ring. -/
  | telemetrySample
  /-- REIN_LEASE_EXPIRY (R501): The stride counter reaches the rein expiry and the rein opens. -/
  | reinLeaseExpiry
  /-- NONCE_EXPIRY (R498): A rein nonce ceases to be valid 1,000 strides after it was given. -/
  | nonceExpiry (k : Nat)
  /-- FENCE_WINDOW_EXPIRY (R544): FENCE_WINDOW strides after its first event, a fence counter returns to 0. -/
  | fenceWindowExpiry (unit : Nat)
  /-- PADDOCK_SET_APPLY (R454): At the next boundary a paddock change takes effect and removed resources are scrubbed. -/
  | paddockSetApply (p : Nat)
  /-- PADDOCK_ZEROING_DONE (R454): Zeroing of removed resources finishes, the owner registers change and PADDOCK_SET completes. -/
  | paddockZeroingDone (p : Nat)
  /-- TEARDOWN_DRAIN_TIMEOUT (R473): 2 strides after a generation raise, teardown proceeds without the missing drain returns. -/
  | teardownDrainTimeout (x : Nat)
  /-- TEARDOWN_DONE (R474): Scrubbing and zeroing of a torn-down context finish and the teardown completes. -/
  | teardownDone (x : Nat)
  /-- WAIT_VALUE_TIMEOUT (R426): TIMEOUT_US pass after fetch and WAIT_VALUE completes with TIMEOUT. -/
  | waitValueTimeout (q : Nat)
  /-- WAIT_VALUE_RECHECK (R426): On a landing in its line, or every 10 µs, the awaited value is read again. -/
  | waitValueRecheck (q : Nat)
  /-- QUIESCE_END (R525): Running passes and requests of a hung domain have ended, or 100 µs passed, and its commands complete. -/
  | quiesceEnd (n : Nat)
  /-- DUMP_START (R533): The dump engine starts writing a dump to the first usable destination, or skips it. -/
  | dumpStart
  /-- DUMP_READ_TIMEOUT (R536): A unit monitor does not answer a dump read in 50 µs, ending its region as
  UNREACHABLE. `cpath` is the control path plus 2^16 × the type of the record whose read was not answered (assumption
  log 9). -/
  | dumpReadTimeout (cpath : Nat)
  /-- DUMP_DONE (R537): The dump header is written last and the destination's ready bit is set. -/
  | dumpDone
  /-- DOMAIN_RESET (R539): A hung domain is reset and its SRAM zeroed. -/
  | domainReset (n : Nat)
  /-- DOMAIN_RETURN (R539): A reset domain returns to service with fences applied. -/
  | domainReturn (n : Nat)
  /-- DOMAIN_RETURN_TIMEOUT (R528): A domain that has not returned in time escalates to the next larger domain. -/
  | domainReturnTimeout (n : Nat)
  /-- MGMT_READ_TIMEOUT (R23): A management read not answered in 50 µs completes without data and the target is UNREACHABLE. -/
  | mgmtReadTimeout
  /-- MGMT_DEQUEUE (R488): The Groom dequeues the next management message and loads its master tag. -/
  | mgmtDequeue (path : Nat)
  /-- MCTP_MESSAGE (R487): An MCTP management message is queued, or dropped when the queue is full. -/
  | mctpMessage (msg : List Byte)
  /-- IDENTIFY (R495): Returns the first eight identification registers, or 16 bytes for a Dazal request. -/
  | identify
  /-- READ (R496): Returns registers of a target's block. -/
  | read
  /-- WRITE (R496): Writes registers of a target's block after checking OW registers against the rein. -/
  | write
  /-- READ_DIAG (R493): Returns stored storage selected by a Dazal path, check bytes included. -/
  | readDiag
  /-- TELEMETRY_READ (R494): Returns a telemetry record. -/
  | telemetryRead
  /-- ACCOUNT_READ (R494): Returns a context or paddock counter set as of the last snapshot. -/
  | accountRead
  /-- REIN_NONCE (R498): Returns a fresh 32-byte nonce for the master's path. -/
  | reinNonce (nonce : List Byte)
  /-- REIN_CLAIM (R499): A signed claim is verified in hardware and grants, renews or is refused the rein. -/
  | reinClaim (cycle : Nat)
  /-- REIN_RENEW (R501): The rein holder renews its lease. -/
  | reinRenew
  /-- PASS_REIN (R502): The rein passes in one cycle to a named master with a fresh lease. -/
  | passRein
  /-- REIN_STATUS (R494): Returns the rein state and expiry. -/
  | reinStatus
  /-- SET_ID (R375): Sets the device ID once after package reset, with seat rules by PCIe link state. -/
  | setId
  /-- OWNER_KEYS_SET (R500): Replaces one owner key entry and retakes measurement 4. -/
  | ownerKeysSet
  /-- FW_STAGE (R494): Copies image bytes into the staging memory. -/
  | fwStage
  /-- FW_ACTIVATE (R512): Checks the staged image and writes it to flash, optionally raising the SVN floor and restarting. -/
  | fwActivate
  /-- FW_FLASH_WRITE_DONE (R512): The flash write of an activated image finishes and the command completes. -/
  | fwFlashWriteDone
  /-- GROOM_RESTART (R513): Replies and restarts the Groom while the data path keeps running. -/
  | groomRestart
  /-- GROOM_RESTART_DONE (R513): The restarted firmware is RUNNING, queued messages are served and the feature level is updated. -/
  | groomRestartDone (ok : Bool)
  /-- FM_FORWARD (R497): Forwards an enclosed message as MGMT or DIRECTED and returns the target's reply. -/
  | fmForward
  /-- HEALTH_LOG_READ (R546): Returns health or flash log entries from a sequence number. -/
  | healthLogRead
  /-- HEALTH_STATUS (R546): Returns the health status, last hang, held contexts and dump status. -/
  | healthStatus
  /-- DUMP_NOW (R546): Takes a dump of a domain with no abort and no reset. -/
  | dumpNow
  /-- RESET_DOMAIN (R546): Runs recovery of a domain from the abort step, or releases a held domain. -/
  | resetDomain
  /-- FENCE_SET (R544): Sets or clears the fence of a unit. -/
  | fenceSet
  /-- JOB_ABORT (R530): Originates an abort of a job to every device in the active table. -/
  | jobAbort
  /-- LOG_CLEAR (R546): Erases the flash log. -/
  | logClear
  /-- GAIT_SET (R553): Makes a change to a target gait pending for a commit stride. -/
  | gaitSet
  /-- POWER_STATUS (R572): Returns gait, cap, power, stretch, thermal limit and maximum temperatures. -/
  | powerStatus
  /-- RAIL_READ (R572): Returns the rail registers and fused rail windows. -/
  | railRead
  /-- GET_VERSION (R510): An SPDM GET_VERSION request is answered. -/
  | getVersion (path : Nat) (req : List Byte)
  /-- GET_CAPABILITIES (R510): An SPDM GET_CAPABILITIES request is answered. -/
  | getCapabilities (path : Nat) (req : List Byte)
  /-- NEGOTIATE_ALGORITHMS (R510): An SPDM NEGOTIATE_ALGORITHMS request selects ECDSA P-384 and SHA-384. -/
  | negotiateAlgorithms (path : Nat) (req : List Byte)
  /-- GET_DIGESTS (R510): An SPDM GET_DIGESTS request is answered for slot 0. -/
  | getDigests (path : Nat) (req : List Byte)
  /-- GET_CERTIFICATE (R509): An SPDM GET_CERTIFICATE request returns the slot 0 chain. -/
  | getCertificate (path : Nat) (req : List Byte)
  /-- CHALLENGE (R510): An SPDM CHALLENGE is answered signed with the alias key. -/
  | challenge (path : Nat) (req : List Byte)
  /-- GET_MEASUREMENTS (R509): An SPDM GET_MEASUREMENTS request returns signed measurements. -/
  | getMeasurements (path : Nat) (req : List Byte)
  /-- GET_TID (R511): A PLDM GetTID request is answered. -/
  | getTid (path : Nat) (req : List Byte)
  /-- GET_PLDM_VERSION (R511): A PLDM GetPLDMVersion request is answered. -/
  | getPldmVersion (path : Nat) (req : List Byte)
  /-- GET_PLDM_TYPES (R511): A PLDM GetPLDMTypes request is answered. -/
  | getPldmTypes (path : Nat) (req : List Byte)
  /-- GET_PLDM_COMMANDS (R511): A PLDM GetPLDMCommands request is answered. -/
  | getPldmCommands (path : Nat) (req : List Byte)
  /-- GET_PDR_REPOSITORY_INFO (R511): A PLDM type 2 GetPDRRepositoryInfo request is answered. -/
  | getPdrRepositoryInfo (path : Nat) (req : List Byte)
  /-- GET_PDR (R511): A PLDM type 2 GetPDR request is answered. -/
  | getPdr (path : Nat) (req : List Byte)
  /-- GET_SENSOR_READING (R511): A PLDM type 2 GetSensorReading returns a value from the latest telemetry record. -/
  | getSensorReading (path : Nat) (req : List Byte)
  /-- GET_SENSOR_THRESHOLDS (R511): A PLDM type 2 GetSensorThresholds request is answered. -/
  | getSensorThresholds (path : Nat) (req : List Byte)
  /-- REQUEST_UPDATE (R511): A PLDM type 5 RequestUpdate starts the update flow, refused without the rein. -/
  | requestUpdate (path : Nat) (req : List Byte)
  /-- ACTIVATE_FIRMWARE (R511): A PLDM ActivateFirmware performs a Groom restart. -/
  | activateFirmware (path : Nat) (req : List Byte)
  /-- AVS_ACK (R559): An AVSBus status with VDone arrives, letting a gait change continue. -/
  | avsAck (rail : Nat) (mv : Nat)
  /-- AVS_TIMEOUT (R559): No AVSBus acknowledge in 500 µs, so the change is abandoned, proceeds or is retried. -/
  | avsTimeout (rail : Nat)
  /-- WALK_GATE (R555): At the first boundary with no running command, compute and update die clocks are gated for Walk. -/
  | walkGate
  /-- HALT_ENTRY_DONE (R556): Halt entry completes once all retention acknowledges arrive. -/
  | haltEntryDone
  /-- HALT_EXIT_BEGIN (R557): At the first boundary after a wake event, exit from Halt begins. -/
  | haltExitBegin
  /-- HALT_EXIT_DONE (R557): Every die is ready and the device runs at RESUME_GAIT. -/
  | haltExitDone
  /-- WAKE_PIN_EVENT (R570): A stable change to the active level on a wake pin sets its status bit and may wake the device. -/
  | wakePinEvent (n : Nat) (high : Bool)
  /-- POWER_ESTIMATE (R561): Every 0.25 µs the limiter estimates package power and runs its fast loop. `rails`:
  twelve voltages and currents of the rails, then pairs of an energy source and its µJ (assumption log 9). -/
  | powerEstimate (rails : List Nat) (stackW : Nat)
  /-- SLOW_LOOP_TICK (R561): Every ms the slow loop adjusts its stretch against SUSTAINED_W. -/
  | slowLoopTick
  /-- GAIT_CAP_STEP_DOWN (R563): After a stride at full stretch, CAP is lowered one gait and STEP_DOWN latched. -/
  | gaitCapStepDown
  /-- THERMAL_SENSOR_READ (R565): A thermal sensor is read and compared with the warn, throttle and trip thresholds. -/
  | thermalSensorRead (sensor : Nat) (celsius : Nat)
  /-- THERMAL_LIMIT_TICK (R566): Every ms the thermal limit falls or rises by 25 W. -/
  | thermalLimitTick
  /-- THERM_THROTTLE_ASSERT (R566): The carrier asserts THERM_THROTTLE_N and the thermal limit falls to half of SUSTAINED_W. -/
  | thermThrottleAssert
  /-- THERM_THROTTLE_RELEASE (R566): The carrier releases THERM_THROTTLE_N and the limit recovers. -/
  | thermThrottleRelease
  /-- CLUSTER_GATE (R568): An idle cluster's logic is gated after IDLE_US. -/
  | clusterGate (g : Nat)
  /-- WAY_GATE (R568): An idle saddlebag way with no held block is gated after IDLE_US. -/
  | wayGate (die : Nat) (way : Nat)
  /-- DOMAIN_WAKE_DONE (R568): A gated cluster or way finishes waking and the waiting access proceeds. -/
  | domainWakeDone (unit : Nat)
  /-- POWER_ON_RELEASE (R585): The power-on detectors release, beginning a package reset and sampling the straps. -/
  | powerOnRelease (straps : Nat)
  /-- RAIL_CHECK_TIMEOUT (R585): An AVSBus rail still outside its window after 100 ms sets RAIL_FAULT and start-up stops. -/
  | railCheckTimeout (mv : List Nat)
  /-- PERST_ASSERT (R593): PCIE_PERST_N is asserted, ending any start-up and holding the package in reset. -/
  | perstAssert
  /-- PERST_DEASSERT (R590): PCIE_PERST_N is deasserted, straps and fuses are read and start-up begins. -/
  | perstDeassert (straps : Nat)
  /-- PCIE_LINK_UP (R590): The PCIe link trains and the device becomes configuration-ready. -/
  | pcieLinkUp (gen6 : Bool)
  /-- IMAGE_VERIFIED (R506): The boot ROM finishes checking the image and either sets IMAGE_OK or enters recovery. -/
  | imageVerified (readOk : Bool)
  /-- FIRMWARE_START (R506): The Groom firmware starts and STATE becomes RUNNING. -/
  | firmwareStart
  /-- MEM_TRAINING_DONE (R590): Stack and channel training ends and GRM_POPULATION is written. -/
  | memTrainingDone (stackMask : Nat) (dimms : List Nat) (failed : Nat)
  /-- SELF_TEST_DONE (R592): Self-test and SRAM zeroing finish, fencing failed units. -/
  | selfTestDone (failed : List Nat) (dcpOk : Bool)
  /-- DEVICE_READY (R590): The device CP starts fetching rings and DEVICE_READY is set, or START_FAIL is set. -/
  | deviceReady
  /-- EXTEST (R599): Boundary-scan EXTEST drives pins only while PCIE_PERST_N is asserted. -/
  | extest (pins : BitVec 1774) (data : BitVec 1774)
  /-- IDCODE (R598): Boundary-scan IDCODE selects the identification register. -/
  | idcode
  /-- SAMPLE_PRELOAD (R598): Boundary-scan SAMPLE/PRELOAD samples or preloads the boundary register. -/
  | samplePreload (pins : BitVec 1774) (data : BitVec 1774)
  /-- CLAMP (R599): Boundary-scan CLAMP, effective only while PCIE_PERST_N is asserted. -/
  | clamp
  /-- HIGHZ (R599): Boundary-scan HIGHZ, effective only while PCIE_PERST_N is asserted. -/
  | highz
  /-- EXTEST_PULSE (R599): IEEE 1149.6 EXTEST_PULSE on SerDes pairs while PCIE_PERST_N is asserted. -/
  | extestPulse (pins : BitVec 1774) (data : BitVec 1774)
  /-- EXTEST_TRAIN (R599): IEEE 1149.6 EXTEST_TRAIN on SerDes pairs while PCIE_PERST_N is asserted. -/
  | extestTrain (pins : BitVec 1774) (data : BitVec 1774)
  /-- BYPASS (R598): Boundary-scan BYPASS, also taken by every other code. -/
  | bypass (code : Nat)
  /-- ADD (R603): Vector-unit addition, correctly rounded. -/
  | add (core : Nat) (hz : Nat)
  /-- SUB (R603): Vector-unit subtraction selected by ALT. -/
  | sub (core : Nat) (hz : Nat)
  /-- MUL (R603): Vector-unit multiplication. -/
  | mul (core : Nat) (hz : Nat)
  /-- FMA (R603): Vector-unit fused multiply-add with single rounding. -/
  | fma (core : Nat) (hz : Nat)
  /-- MAX (R603): Vector-unit maximum. -/
  | max (core : Nat) (hz : Nat)
  /-- MIN (R603): Vector-unit minimum selected by ALT. -/
  | min (core : Nat) (hz : Nat)
  /-- SCALE_BIAS (R603): Vector-unit x times a plus b with per-column operands. -/
  | scaleBias (core : Nat) (hz : Nat)
  /-- EXP2 (R603): Vector-unit base-2 exponential. -/
  | exp2 (core : Nat) (hz : Nat)
  /-- LOG2 (R603): Vector-unit base-2 logarithm. -/
  | log2 (core : Nat) (hz : Nat)
  /-- RCP (R603): Vector-unit reciprocal. -/
  | rcp (core : Nat) (hz : Nat)
  /-- RSQRT (R603): Vector-unit inverse square root. -/
  | rsqrt (core : Nat) (hz : Nat)
  /-- GELU (R603): Vector-unit GELU in tanh form. -/
  | gelu (core : Nat) (hz : Nat)
  /-- SILU (R603): Vector-unit SiLU. -/
  | silu (core : Nat) (hz : Nat)
  /-- SIGMOID (R603): Vector-unit sigmoid. -/
  | sigmoid (core : Nat) (hz : Nat)
  /-- TANH (R603): Vector-unit hyperbolic tangent. -/
  | tanh (core : Nat) (hz : Nat)
  /-- ROW_SUM (R107): Vector-unit sum of each row. -/
  | rowSum (core : Nat) (hz : Nat)
  /-- ROW_MAX (R603): Vector-unit maximum of each row, selected by ALT. -/
  | rowMax (core : Nat) (hz : Nat)
  /-- SOFTMAX_ROW (R603): Vector-unit soft-maximum of each row in three sweeps. -/
  | softmaxRow (core : Nat) (hz : Nat)
  /-- NORM_ROW (R604): Vector-unit row normalisation, or root-mean-square form with ALT. -/
  | normRow (core : Nat) (hz : Nat)
  /-- CAST (R70): Vector-unit conversion to another format by narrowing. -/
  | cast (core : Nat) (hz : Nat)
  /-- VADD (R348): Update engine d = a + b. -/
  | vadd
  /-- VSUB (R348): Update engine d = a − b. -/
  | vsub
  /-- VMUL (R348): Update engine d = a × b. -/
  | vmul
  /-- VFMA (R348): Update engine fused multiply-add. -/
  | vfma
  /-- VMAX (R348): Update engine maximum. -/
  | vmax
  /-- VMIN (R348): Update engine minimum. -/
  | vmin
  /-- VABS (R348): Update engine absolute value. -/
  | vabs
  /-- VNEG (R348): Update engine negation. -/
  | vneg
  /-- VCMPLT (R348): Update engine less-than comparison giving 1.0 or 0.0. -/
  | vcmplt
  /-- VSEL (R348): Update engine select by a non-zero condition. -/
  | vsel
  /-- VRCP (R348): Update engine reciprocal. -/
  | vrcp
  /-- VRSQRT (R348): Update engine inverse square root. -/
  | vrsqrt
  /-- VSQRT (R348): Update engine correctly rounded square root. -/
  | vsqrt
  /-- VEXP2 (R348): Update engine base-2 exponential. -/
  | vexp2
  /-- VLOG2 (R348): Update engine base-2 logarithm. -/
  | vlog2
  /-- VACC (R348): Update engine accumulates a sum of active lanes into a scalar register. -/
  | vacc
  /-- VLD (R349): Update engine loads the current tile of a stream, waiting until it arrives. -/
  | vld
  /-- VST (R342): Update engine narrows and stores a register to a stream, waiting for write-buffer room. -/
  | vst
  /-- VLDC (R348): Update engine loads a column of a working-store slot across lanes. -/
  | vldc
  /-- VLDR (R348): Update engine loads a row of a working-store slot into each row. -/
  | vldr
  /-- VLDW (R348): Update engine loads four rows of a working-store slot. -/
  | vldw
  /-- VSTW (R348): Update engine stores four rows into a working-store slot. -/
  | vstw
  /-- WLD (R349): Update engine moves a statistics block into a working-store slot. -/
  | wld
  /-- WST (R349): Update engine moves a working-store slot to its statistics block. -/
  | wst
  /-- SOP (R348): Update engine scalar sub-operation on scalar registers. -/
  | sop
  /-- LOOP (R348): Update engine begins a counted loop. -/
  | loop
  /-- ENDL (R348): Update engine ends the innermost loop. -/
  | endl
  /-- BODY (R348): Update engine ends the prologue. -/
  | body
  /-- PASS (R348): Update engine ends pass 1 of an element-mode body. -/
  | pass
  /-- TAIL_INSTRUCTION (R348): Update engine ends the body. -/
  | tailInstruction
  /-- END (R348): Update engine ends the rule. -/
  | endInstr
  /-- BATCH_BUDGET_DEADLINE (R100): The time left in the context's slot falls to a held batch's stride budget, and the batch is dispatched. -/
  | batchBudgetDeadline (n : Nat)
  /-- CLAIM_VERIFIED (R499): The hardware verify engine finishes checking a rein claim, and the arbiter grants or refuses it in arrival order. -/
  | claimVerified (n : Nat)
  /-- RECOVERY_CHUNK_DONE (R507): The boot ROM finishes storing a recovery chunk, and BUSY in GRM_RECOVERY_STATUS returns to 0. -/
  | recoveryChunkDone
  /-- TYPE_5_FLOW_IMAGE (R511): The image of a PLDM type 5 update flow has been transferred, and it is checked and written as FW_ACTIVATE does. -/
  | type5FlowImage (image : List Byte)
  /-- SUPPLY_FAIL (R585): VDD_AON or VDD_IO_1V8 leaves its window, or the supply fails, and the power-on detectors hold the package in reset. -/
  | supplyFail
  /-- VF_ENABLE (R403): The host enables or disables a virtual function, which starts or stops fetching on that function's contexts and their access to ring registers and doorbells. -/
  | vfEnable (f : Nat) (on : Bool)
  deriving DecidableEq, Repr

end Sys2Proof
end

