-- ==== Sys2Proof/Machine/Bits.lean ====
section
/-! DEFINITION. Plain helpers: bit fields, little-endian bytes (R8), and sparse tables kept in
one canonical form (keys strictly rising, no entry equal to the default). -/
namespace Sys2Proof

/-- Bits [lo + w − 1 : lo] of a natural number. -/
def bits (n lo w : Nat) : Nat := (n / 2 ^ lo) % 2 ^ w

def bit (n i : Nat) : Bool := n / 2 ^ i % 2 == 1

/-- Set or clear bit `i`. -/
def setBit (n i : Nat) (b : Bool) : Nat :=
  if bit n i then (if b then n else n - 2 ^ i) else (if b then n + 2 ^ i else n)

def b2n (b : Bool) : Nat := if b then 1 else 0

/-- Place `v` in bits [lo + w − 1 : lo] of `n`. -/
def putBits (n lo w v : Nat) : Nat := n - bits n lo w * 2 ^ lo + (v % 2 ^ w) * 2 ^ lo

def orNat (a b : Nat) : Nat := Nat.lor a b
def andNat (a b : Nat) : Nat := Nat.land a b

/-- The indices of the set bits of `n` below `w`, rising. -/
def bitsOf (n w : Nat) : List Nat := (List.range w).filter (bit n ·)

def popcount (n w : Nat) : Nat := (bitsOf n w).length

def ceilDiv (a b : Nat) : Nat := (a + b - 1) / b

/-- ⌈log2 n⌉ for n ≥ 1. -/
def clog2 (n : Nat) : Nat := if n ≤ 1 then 0 else Nat.log2 (n - 1) + 1

/-- Add, stopping at 2^w − 1. -/
def satAdd (w a b : Nat) : Nat := min (2 ^ w - 1) (a + b)

/-! Little-endian bytes (R8). -/

def leNat : List Byte → Nat
  | [] => 0
  | b :: t => b.toNat + 256 * leNat t

def toLE : (count value : Nat) → List Byte
  | 0, _ => []
  | k + 1, v => BitVec.ofNat 8 v :: toLE k (v / 256)

def slice {α : Type} (l : List α) (off len : Nat) : List α := (l.drop off).take len

/-- The little-endian field of `len` bytes at `off`. -/
def fieldLE (l : List Byte) (off len : Nat) : Nat := leNat (slice l off len)

def allZero (l : List Byte) : Bool := l.all (· == 0#8)

/-- `len` bytes, padded with zeros. -/
def padTo (l : List Byte) (len : Nat) : List Byte :=
  (l.take len) ++ List.replicate (len - l.length) 0#8

/-- Overwrite `l` with `d` from `off` (bytes past the end of `l` are dropped). -/
def patch (l : List Byte) (off : Nat) (d : List Byte) : List Byte :=
  ((l.take off) ++ d ++ l.drop (off + d.length)).take l.length

/-! Sparse tables. -/

abbrev Tbl (α : Type) := List (Nat × α)

namespace Tbl

def get {α : Type} (d : α) : Tbl α → Nat → α
  | [], _ => d
  | (a, v) :: t, k => if a = k then v else get d t k

def insert {α : Type} : Tbl α → Nat → α → Tbl α
  | [], k, v => [(k, v)]
  | (a, w) :: t, k, v =>
    if k < a then (k, v) :: (a, w) :: t
    else if a = k then (k, v) :: t
    else (a, w) :: insert t k v

def erase {α : Type} (t : Tbl α) (k : Nat) : Tbl α := t.filter (fun p => p.1 != k)

/-- Writing the default removes the entry, so equal tables are equal data. -/
def set {α : Type} [DecidableEq α] (d : α) (t : Tbl α) (k : Nat) (v : α) : Tbl α :=
  if v = d then erase t k else insert t k v

def upd {α : Type} [DecidableEq α] (d : α) (t : Tbl α) (k : Nat) (f : α → α) : Tbl α :=
  set d t k (f (get d t k))

def get? {α : Type} : Tbl α → Nat → Option α
  | [], _ => none
  | (a, v) :: t, k => if a = k then some v else get? t k

/-- Keys strictly rising from `lo`. -/
def sortedFrom {α : Type} : Nat → Tbl α → Bool
  | _, [] => true
  | lo, (a, _) :: t => decide (lo ≤ a) && sortedFrom (a + 1) t

/-- The canonical form. -/
def wf {α : Type} [DecidableEq α] (d : α) (t : Tbl α) : Bool :=
  sortedFrom 0 t && t.all (fun p => decide (p.2 ≠ d))

end Tbl

/-! Byte memories: an unlisted address reads 0 (DESIGN CHOICE, assumption log 1). -/

def memRead (m : Tbl Byte) (a : Nat) : Byte := Tbl.get 0#8 m a

def memReadN (m : Tbl Byte) (a : Nat) : Nat → List Byte
  | 0 => []
  | k + 1 => memRead m a :: memReadN m (a + 1) k

def memWrite (m : Tbl Byte) (a : Nat) (b : Byte) : Tbl Byte := Tbl.set 0#8 m a b

def memWriteN (m : Tbl Byte) (a : Nat) : List Byte → Tbl Byte
  | [] => m
  | b :: t => memWriteN (memWrite m a b) (a + 1) t

/-- Zero every byte of [lo, hi). -/
def memZero (m : Tbl Byte) (lo hi : Nat) : Tbl Byte := m.filter (fun p => p.1 < lo || hi ≤ p.1)

/-! Lists. -/

def listSet {α : Type} (l : List α) (i : Nat) (v : α) : List α := l.set i v

def sumNat (l : List Nat) : Nat := l.foldl (· + ·) 0

def dedupNat : List Nat → List Nat
  | [] => []
  | a :: t => if t.contains a then dedupNat t else a :: dedupNat t

def insertAsc (a : Nat) : List Nat → List Nat
  | [] => [a]
  | b :: t => if a < b then a :: b :: t else if a = b then b :: t else b :: insertAsc a t

end Sys2Proof
end

