-- ==== Sys2Proof/Machine/RegMap.lean ====
section
/-! DEFINITION. The register map: one row per register of the specification's register tables
(offset, step, count, width, access code of R9, writable fields with their ranges, reset
value), and the address of each block. Fuse and image values are those of assumption log 6. -/
namespace Sys2Proof.Machine

/-- Access codes of R9; HW and RO are both read-only to software. -/
inductive Acc where | ro | rw | w1c | w1s | wo | ow
  deriving DecidableEq, Repr

/-- A writable field; a value outside [min, max] leaves the field unchanged. -/
structure Fld where
  lo : Nat
  width : Nat
  min : Nat
  max : Nat
  deriving DecidableEq, Repr

structure RegRow where
  off : Nat
  step : Nat
  count : Nat
  width : Nat
  acc : Acc
  fields : List Fld
  reset : Nat
  deriving DecidableEq, Repr

def fnBlockRows : List RegRow := [
  ⟨0x0, 0, 1, 32, .ro, [], 0x4B401DF3⟩, -- GRM_IDENT (R3)
  ⟨0x4, 0, 1, 32, .ro, [], 0x4B400110⟩, -- GRM_PART (R3)
  ⟨0x8, 0, 1, 32, .ro, [], 0⟩, -- GRM_SERIAL_LO (R3)
  ⟨0xC, 0, 1, 32, .ro, [], 0⟩, -- GRM_SERIAL_HI (R3)
  ⟨0x10, 0, 1, 32, .ro, [], 0⟩, -- GRM_FEATURE_LEVEL (R3)
  ⟨0x14, 0, 1, 32, .ro, [], 0⟩, -- GRM_FW_VERSION (R3)
  ⟨0x18, 0, 1, 32, .ro, [], 0x00000000⟩, -- GRM_DEVICE_ID (R3)
  ⟨0x1C, 0, 1, 32, .ro, [], 0⟩, -- GRM_POPULATION (R3)
  ⟨0x20, 0, 1, 32, .ro, [], 0x00000000⟩, -- GRM_START_STATUS (R3)
  ⟨0x1000, 0, 1, 64, .rw, [⟨0, 64, 0, 18446744073709551615⟩], 0⟩, -- PCI_ADM_SQ_BASE (R443)
  ⟨0x1008, 0, 1, 64, .rw, [⟨0, 64, 0, 18446744073709551615⟩], 0⟩, -- PCI_ADM_CQ_BASE (R443)
  ⟨0x1010, 0, 1, 32, .rw, [⟨0, 1, 0, 1⟩, ⟨8, 5, 0, 31⟩, ⟨16, 5, 0, 31⟩, ⟨24, 8, 0, 255⟩], 0x00000000⟩, -- PCI_ADM_CTL (R443)
  ⟨0x1014, 0, 1, 32, .ro, [], 0x00000000⟩, -- PCI_ADM_STATUS (R443)
  ⟨0x1018, 0, 1, 32, .ro, [], 0⟩, -- PCI_ADM_SQ_HEAD (R443)
  ⟨0x101C, 0, 1, 32, .ro, [], 0⟩, -- PCI_ADM_CQ_TAIL (R443)
  ⟨0x1100, 0, 1, 64, .wo, [], 0⟩, -- PCI_TLB_INV (R443)
  ⟨0x1108, 0, 1, 32, .ro, [], 0x00000000⟩, -- PCI_TLB_INV_STATUS (R443)
  ⟨0x1110, 0, 1, 32, .ro, [], 0x00000000⟩, -- PCI_WIN_BUSY (R443)
  ⟨0x2000, 64, 64, 64, .rw, [⟨0, 64, 0, 18446744073709551615⟩], 0⟩, -- PCI_SQ_BASE_x (R443)
  ⟨0x2008, 64, 64, 64, .rw, [⟨0, 64, 0, 18446744073709551615⟩], 0⟩, -- PCI_CQ_BASE_x (R443)
  ⟨0x2010, 64, 64, 32, .rw, [⟨0, 1, 0, 1⟩, ⟨8, 5, 0, 31⟩, ⟨16, 5, 0, 31⟩, ⟨24, 8, 0, 255⟩], 0x00000000⟩, -- PCI_RING_CTL_x (R443)
  ⟨0x2014, 64, 64, 32, .ro, [], 0x00000000⟩, -- PCI_RING_STATUS_x (R443)
  ⟨0x2018, 64, 64, 32, .ro, [], 0⟩, -- PCI_SQ_HEAD_x (R443)
  ⟨0x201C, 64, 64, 32, .ro, [], 0⟩, -- PCI_CQ_TAIL_x (R443)
  ⟨0x5000, 0, 1, 32, .ow, [⟨0, 3, 0, 7⟩, ⟨3, 1, 0, 1⟩], 0x00000000⟩] -- PCI_DBG_CTL (R443)

def coreRows : List RegRow := [
  ⟨0x0, 0, 1, 32, .ow, [⟨0, 1, 0, 1⟩, ⟨1, 1, 0, 1⟩, ⟨2, 1, 0, 1⟩, ⟨3, 1, 0, 1⟩, ⟨8, 3, 0, 7⟩, ⟨11, 1, 0, 1⟩, ⟨12, 1, 0, 1⟩], 0x00000009⟩, -- CORE_CTL (R108)
  ⟨0x4, 0, 1, 32, .ro, [], 0x00000000⟩, -- CORE_STATUS (R108)
  ⟨0x8, 0, 1, 32, .w1c, [⟨0, 16, 0, 65535⟩], 0x00000000⟩, -- CORE_ERR_LATCH (R108)
  ⟨0x10, 0, 1, 64, .ro, [], 0⟩, -- CORE_ERR_INFO (R108)
  ⟨0x18, 0, 1, 64, .ro, [], 0⟩, -- CORE_HOOFBEAT (R108)
  ⟨0x20, 0, 1, 64, .ro, [], 0⟩, -- CORE_PASS_COUNT_FE (R108)
  ⟨0x28, 0, 1, 64, .ro, [], 0⟩, -- CORE_PASS_COUNT_BE (R108)
  ⟨0x30, 0, 1, 64, .ro, [], 0⟩, -- CORE_RECOMP_BE (R108)
  ⟨0x38, 0, 1, 64, .ro, [], 0⟩, -- CORE_WAIT_CYCLES (R108)
  ⟨0x40, 0, 1, 64, .ro, [], 0⟩, -- CORE_STRETCH_CYCLES (R108)
  ⟨0x48, 0, 1, 32, .ro, [], 0⟩, -- CORE_FAULT_COUNT (R108)
  ⟨0x400, 0, 1, 32, .ow, [⟨0, 1, 0, 1⟩, ⟨4, 4, 0, 15⟩, ⟨8, 1, 0, 1⟩, ⟨16, 8, 1, 255⟩, ⟨24, 8, 0, 255⟩], 0x10320141⟩, -- PAD_CTL (R147)
  ⟨0x404, 0, 1, 32, .ro, [], 0x000000FF⟩, -- PAD_STATUS (R147)
  ⟨0x408, 0, 1, 32, .w1c, [⟨0, 4, 0, 15⟩], 0x00000000⟩, -- PAD_ERR_LATCH (R147)
  ⟨0x40C, 0, 1, 32, .ro, [], 0x00000000⟩, -- PAD_ERR_ADDR (R147)
  ⟨0x410, 0, 1, 64, .ro, [], 0⟩, -- PAD_CE_COUNT (R147)
  ⟨0x418, 0, 1, 32, .ro, [], 0⟩, -- PAD_UE_COUNT (R147)
  ⟨0x41C, 0, 1, 32, .ro, [], 0x00000000⟩, -- PAD_ALIAS_HAZARD (R147)
  ⟨0x420, 0, 1, 64, .ro, [], 0⟩, -- PAD_LINES_F (R147)
  ⟨0x428, 0, 1, 64, .ro, [], 0⟩, -- PAD_LINES_B (R147)
  ⟨0x430, 0, 1, 64, .ro, [], 0⟩] -- PAD_LINES_X (R147)

def saddleRows : List RegRow := [
  ⟨0x0, 0, 1, 32, .ow, [⟨0, 1, 0, 1⟩, ⟨8, 8, 0, 255⟩], 0x00001001⟩, -- STH_CTL (R192)
  ⟨0x4, 0, 1, 32, .ro, [], 0x00000300⟩, -- STH_STATUS (R192)
  ⟨0x8, 0, 1, 32, .ro, [], 0x00000000⟩, -- STH_WAY_VALID (R192)
  ⟨0x10, 0, 1, 64, .ro, [], 0⟩, -- STH_WAY_MAP (R192)
  ⟨0x18, 0, 1, 32, .w1c, [⟨0, 2, 0, 3⟩], 0x00000000⟩, -- STH_ERR_LATCH (R192)
  ⟨0x1C, 0, 1, 32, .ro, [], 0x00000000⟩, -- STH_ERR_ADDR (R192)
  ⟨0x20, 0, 1, 64, .ro, [], 0⟩, -- STH_CE_COUNT (R192)
  ⟨0x28, 0, 1, 32, .ro, [], 0⟩, -- STH_UE_COUNT (R192)
  ⟨0x2C, 0, 1, 32, .ro, [], 0⟩, -- STH_DEMOTE_COUNT (R192)
  ⟨0x30, 0, 1, 64, .ro, [], 0⟩, -- STH_LINES (R192)
  ⟨0x40, 4, 16, 32, .ro, [], 0⟩] -- STH_HELD_p (R192)

def dmaRows : List RegRow := [
  ⟨0x0, 0, 1, 32, .ow, [⟨0, 8, 1, 255⟩], 0x00000060⟩, -- DMA_CAP (R252)
  ⟨0x4, 0, 1, 32, .ro, [], 0x00000000⟩, -- DMA_STATUS (R252)
  ⟨0x8, 0, 1, 64, .ro, [], 0⟩, -- DMA_RA_STOP (R252)
  ⟨0x10, 0, 1, 64, .ro, [], 0⟩, -- DMA_ADMIT_WAIT (R252)
  ⟨0x18, 0, 1, 64, .ro, [], 0⟩, -- GTH_OOR_COUNT (R252)
  ⟨0x20, 0, 1, 32, .ro, [], 0⟩, -- GTH_REMOTE_DROP (R252)
  ⟨0x100, 4, 64, 32, .ow, [⟨0, 13, 1, 4096⟩], 0x00000040⟩, -- DMA_Q_LIMIT_q (R252)
  ⟨0x200, 8, 64, 64, .ro, [], 0⟩, -- DMA_HOOFBEAT_q (R252)
  ⟨0x400, 4, 16, 32, .ow, [⟨0, 12, 1, 2048⟩], 0x00000080⟩, -- GTH_LIMIT_e (R252)
  ⟨0x440, 8, 16, 64, .ro, [], 0⟩] -- GTH_HOOFBEAT_e (R252)

def dmaUdRows : List RegRow := [
  ⟨0x0, 0, 1, 32, .ow, [⟨0, 6, 1, 63⟩], 0x00000010⟩, -- DMA_UD_CAP (R254)
  ⟨0x4, 0, 1, 32, .ro, [], 0x00000000⟩] -- DMA_UD_STATUS (R254)

def hbmRows : List RegRow := [
  ⟨0x0, 0, 1, 32, .ow, [⟨0, 1, 0, 1⟩, ⟨8, 8, 1, 255⟩, ⟨16, 8, 0, 255⟩, ⟨24, 8, 0, 255⟩], 0x00401801⟩, -- HBM_CTL (R281)
  ⟨0x4, 0, 1, 32, .ro, [], 0x00000003⟩, -- HBM_STATUS (R281)
  ⟨0x8, 0, 1, 32, .w1c, [⟨0, 1, 0, 1⟩, ⟨1, 1, 0, 1⟩, ⟨2, 1, 0, 1⟩, ⟨3, 1, 0, 1⟩], 0x00000000⟩, -- HBM_ERR_LATCH (R281)
  ⟨0x10, 0, 1, 64, .ro, [], 0⟩, -- HBM_ERR_ADDR (R281)
  ⟨0x18, 0, 1, 64, .ro, [], 0⟩, -- HBM_CE_COUNT (R281)
  ⟨0x20, 0, 1, 32, .ro, [], 0⟩, -- HBM_UE_COUNT (R281)
  ⟨0x24, 0, 1, 32, .ro, [], 0⟩, -- HBM_XLATE_COUNT (R281)
  ⟨0x28, 0, 1, 64, .ro, [], 0⟩, -- HBM_XLATE_INFO (R281)
  ⟨0x30, 0, 1, 64, .ro, [], 0⟩, -- HBM_TLB_MISS (R281)
  ⟨0x40, 8, 2, 64, .ro, [], 0⟩, -- HBM_HOOFBEAT_s (R281)
  ⟨0x100, 4, 16, 32, .ro, [], 0x00000000⟩] -- HBM_GROUP_OWNER_g (R281)

def ddrRows : List RegRow := [
  ⟨0x0, 0, 1, 32, .ow, [⟨0, 1, 0, 1⟩, ⟨1, 1, 0, 1⟩, ⟨8, 8, 0, 255⟩, ⟨16, 8, 0, 255⟩, ⟨24, 4, 0, 15⟩], 0x08401803⟩, -- DDR_CTL (R283)
  ⟨0x4, 0, 1, 32, .ro, [], 0x00000000⟩, -- DDR_STATUS (R283)
  ⟨0x8, 0, 1, 32, .w1c, [⟨0, 1, 0, 1⟩, ⟨1, 1, 0, 1⟩, ⟨2, 1, 0, 1⟩, ⟨3, 1, 0, 1⟩, ⟨4, 1, 0, 1⟩, ⟨5, 1, 0, 1⟩], 0x00000000⟩, -- DDR_ERR_LATCH (R283)
  ⟨0x10, 0, 1, 64, .ro, [], 0⟩, -- DDR_ERR_ADDR (R283)
  ⟨0x18, 0, 1, 64, .ro, [], 0⟩, -- DDR_CE_COUNT (R283)
  ⟨0x20, 0, 1, 32, .ro, [], 0⟩, -- DDR_UE_COUNT (R283)
  ⟨0x24, 0, 1, 32, .ro, [], 0⟩, -- DDR_CACHE_UE (R283)
  ⟨0x28, 0, 1, 64, .ro, [], 0⟩, -- DDR_CACHE_HIT (R283)
  ⟨0x30, 0, 1, 64, .ro, [], 0⟩, -- DDR_CACHE_MISS (R283)
  ⟨0x38, 0, 1, 64, .ro, [], 0⟩, -- DDR_RA_LINES (R283)
  ⟨0x40, 0, 1, 32, .ro, [], 0x00000000⟩, -- DDR_CACHE_WAY_VALID (R283)
  ⟨0x48, 0, 1, 64, .ro, [], 0⟩, -- DDR_CACHE_WAY_MAP (R283)
  ⟨0x50, 0, 1, 64, .ro, [], 0⟩, -- DDR_XLATE_INFO (R283)
  ⟨0x100, 8, 12, 64, .ro, [], 0⟩, -- DDR_HOOFBEAT_c (R283)
  ⟨0x200, 4, 12, 32, .ro, [], 0x00000000⟩] -- DDR_DIMM_c (R283)

def redRows : List RegRow := [
  ⟨0x0, 0, 1, 32, .ow, [⟨0, 1, 0, 1⟩, ⟨1, 1, 0, 1⟩], 0x00000000⟩, -- RED_CTL (R321)
  ⟨0x4, 0, 1, 32, .ro, [], 0x00000000⟩, -- RED_STATUS (R321)
  ⟨0x8, 0, 1, 32, .w1c, [⟨0, 4, 0, 15⟩], 0x00000000⟩, -- RED_ERR_LATCH (R321)
  ⟨0x10, 0, 1, 64, .ro, [], 0⟩, -- RED_ERR_INFO (R321)
  ⟨0x18, 0, 1, 64, .ro, [], 0⟩, -- RED_HOOFBEAT (R321)
  ⟨0x20, 0, 1, 64, .ro, [], 0⟩, -- RED_CHUNKS_IN (R321)
  ⟨0x28, 0, 1, 64, .ro, [], 0⟩, -- RED_CHUNKS_OUT (R321)
  ⟨0x30, 0, 1, 64, .ro, [], 0⟩, -- RED_RETX (R321)
  ⟨0x38, 0, 1, 64, .ro, [], 0⟩, -- RED_SAT_GROUPS (R321)
  ⟨0x40, 0, 1, 32, .ro, [], 0⟩, -- RED_FAIL_COUNT (R321)
  ⟨0x44, 0, 1, 32, .ro, [], 0⟩] -- RED_WAIT_COUNT (R321)

def updRows : List RegRow := [
  ⟨0x0, 0, 1, 32, .ow, [⟨0, 1, 0, 1⟩, ⟨8, 4, 1, 8⟩], 0x00000801⟩, -- UPD_CTL (R357)
  ⟨0x4, 0, 1, 32, .ro, [], 0x00000000⟩, -- UPD_STATUS (R357)
  ⟨0x8, 0, 1, 32, .w1c, [⟨0, 4, 0, 15⟩], 0x00000000⟩, -- UPD_ERR_LATCH (R357)
  ⟨0x10, 0, 1, 64, .ro, [], 0⟩, -- UPD_ERR_INFO (R357)
  ⟨0x18, 0, 1, 64, .ro, [], 0⟩, -- UPD_HOOFBEAT (R357)
  ⟨0x20, 0, 1, 64, .ro, [], 0⟩, -- UPD_TILES (R357)
  ⟨0x28, 0, 1, 64, .ro, [], 0⟩, -- UPD_INSTALLED (R357)
  ⟨0x30, 0, 1, 64, .ro, [], 0⟩, -- UPD_SKIPPED (R357)
  ⟨0x38, 0, 1, 64, .ro, [], 0⟩, -- UPD_HELD_US (R357)
  ⟨0x40, 0, 1, 64, .ro, [], 0⟩] -- UPD_WS_CE (R357)

def trcRows : List RegRow := [
  ⟨0x0, 0, 1, 32, .ow, [⟨8, 8, 1, 255⟩], 0x00004000⟩, -- TRC_ROUTE_CTL (R398)
  ⟨0x4, 0, 1, 32, .ro, [], 0x00000000⟩, -- TRC_ROUTE_STATUS (R398)
  ⟨0x8, 0, 1, 64, .ow, [⟨0, 64, 0, 18446744073709551615⟩], 0⟩, -- TRC_COMMIT_STRIDE (R398)
  ⟨0x10, 0, 1, 32, .ow, [⟨0, 16, 10, 65535⟩], 0x000003E8⟩, -- TRC_RESP_TIMEOUT (R398)
  ⟨0x14, 0, 1, 32, .ow, [⟨0, 6, 0, 63⟩], 0x00000000⟩, -- TRC_RELAY_RESET (R398)
  ⟨0x18, 0, 1, 64, .ro, [], 0⟩, -- TRC_HDR_DROP (R398)
  ⟨0x20, 0, 1, 64, .ro, [], 0⟩, -- TRC_STALE_DROP (R398)
  ⟨0x28, 0, 1, 32, .ro, [], 0⟩, -- TRC_LATE_RESP (R398)
  ⟨0x2C, 0, 1, 32, .ro, [], 0⟩, -- TRC_VC3_DROP (R398)
  ⟨0x30, 0, 1, 32, .ro, [], 0⟩, -- TRC_ORDER_TIMEOUT (R398)
  ⟨0x40, 0, 1, 32, .ow, [⟨0, 8, 0, 255⟩, ⟨8, 1, 0, 1⟩], 0x00000180⟩, -- TIM_SYNC_CTL (R398)
  ⟨0x44, 0, 1, 32, .ro, [], 0x000000F8⟩, -- TIM_SYNC_STATUS (R398)
  ⟨0x48, 0, 1, 64, .ro, [], 0⟩, -- TIM_FABRIC_NS (R398)
  ⟨0x50, 0, 1, 32, .ro, [], 0⟩, -- TIM_OFFSET (R398)
  ⟨0x4000, 4, 4096, 32, .ow, [⟨0, 5, 0, 31⟩, ⟨8, 24, 0, 16777215⟩], 0x0000001F⟩, -- TRC_ROUTE_PEND_d (R398)
  ⟨0x8000, 4, 4096, 32, .ro, [], 0x0000001F⟩] -- TRC_ROUTE_ACT_d (R398)

def linkRows : List RegRow := [
  ⟨0x0, 0, 1, 32, .ow, [⟨0, 1, 0, 1⟩], 0x00000001⟩, -- TRC_LINK_CTL_p (R400)
  ⟨0x4, 0, 1, 32, .ro, [], 0x00000000⟩, -- TRC_LINK_STATUS_p (R400)
  ⟨0x8, 0, 1, 64, .ro, [], 0⟩, -- TRC_PEER_p (R400)
  ⟨0x10, 0, 1, 64, .ro, [], 0⟩, -- TRC_PEER_SERIAL_p (R400)
  ⟨0x18, 0, 1, 32, .w1c, [⟨0, 1, 0, 1⟩, ⟨1, 1, 0, 1⟩, ⟨2, 1, 0, 1⟩, ⟨3, 1, 0, 1⟩, ⟨4, 1, 0, 1⟩, ⟨5, 1, 0, 1⟩, ⟨6, 1, 0, 1⟩], 0x00000000⟩, -- TRC_ERR_LATCH_p (R400)
  ⟨0x20, 0, 1, 64, .ro, [], 0⟩, -- TRC_FEC_CE_p (R400)
  ⟨0x28, 0, 1, 64, .ro, [], 0⟩, -- TRC_FEC_UE_p (R400)
  ⟨0x30, 0, 1, 64, .ro, [], 0⟩, -- TRC_CRC_ERR_p (R400)
  ⟨0x38, 0, 1, 64, .ro, [], 0⟩, -- TRC_REPLAYS_p (R400)
  ⟨0x40, 0, 1, 32, .ro, [], 0⟩, -- TRC_RETRAINS_p (R400)
  ⟨0x44, 0, 1, 32, .ro, [], 0⟩, -- TRC_RESET_DROP_p (R400)
  ⟨0x48, 0, 1, 64, .ro, [], 0⟩, -- TRC_HOOFBEAT_p (R400)
  ⟨0x50, 0, 1, 64, .ro, [], 0⟩, -- TRC_BYTES_OUT_p (R400)
  ⟨0x58, 0, 1, 64, .ro, [], 0⟩, -- TRC_BYTES_IN_p (R400)
  ⟨0x60, 0, 1, 32, .ow, [⟨0, 9, 1, 400⟩, ⟨9, 9, 1, 400⟩, ⟨18, 9, 1, 400⟩], 0x06432190⟩] -- TRC_RATE_p (R400)

def timSchRows : List RegRow := [
  ⟨0x0, 0, 1, 32, .ow, [⟨0, 14, 100, 10000⟩], 0x000003E8⟩, -- TIM_STRIDE_PERIOD (R479)
  ⟨0x8, 0, 1, 64, .ow, [⟨0, 64, 0, 18446744073709551615⟩], 0⟩, -- TIM_BASE_STRIDE (R479)
  ⟨0x10, 0, 1, 64, .ow, [⟨0, 64, 0, 18446744073709551615⟩], 0⟩, -- TIM_BASE_NS (R479)
  ⟨0x18, 0, 1, 64, .ow, [⟨0, 64, 0, 18446744073709551615⟩], 0⟩, -- TIM_COMMIT_STRIDE (R479)
  ⟨0x20, 0, 1, 32, .ow, [], 0x00000000⟩, -- TIM_TIME_CTL (R479)
  ⟨0x28, 0, 1, 64, .ro, [], 0⟩, -- TIM_STRIDE_COUNT (R479)
  ⟨0x30, 0, 1, 32, .ro, [], 0x000003E8⟩, -- TIM_ACTIVE_PERIOD (R479)
  ⟨0x38, 0, 1, 64, .ro, [], 0⟩, -- TIM_ACTIVE_BASE_STRIDE (R479)
  ⟨0x40, 0, 1, 64, .ro, [], 0⟩, -- TIM_ACTIVE_BASE_NS (R479)
  ⟨0x48, 0, 1, 64, .ro, [], 0⟩, -- TIM_LOCAL_US (R479)
  ⟨0x50, 0, 1, 32, .ow, [⟨0, 8, 1, 255⟩], 0x00000008⟩, -- SCH_OVERRUN_LIMIT (R479)
  ⟨0x100, 16, 16, 64, .ro, [], 0⟩, -- SCH_TABLE_p (R479)
  ⟨0x108, 16, 16, 64, .ro, [], 0⟩, -- SCH_ANCHOR_p (R479)
  ⟨0x200, 8, 64, 64, .ro, [], 0⟩] -- SCH_CTX_x (R479)

def dieSchedRows : List RegRow := [
  ⟨0x0, 0, 1, 32, .ow, [⟨0, 1, 0, 1⟩], 0x00000001⟩, -- SCH_DIE_CTL (R481)
  ⟨0x4, 0, 1, 32, .ro, [], 0x00000000⟩, -- SCH_DIE_STATUS (R481)
  ⟨0x8, 0, 1, 64, .ro, [], 0⟩, -- SCH_DIE_HOOFBEAT (R481)
  ⟨0x10, 0, 1, 64, .ro, [], 0⟩, -- SCH_SWITCHES (R481)
  ⟨0x18, 0, 1, 64, .ro, [], 0⟩, -- SCH_SWITCH_BYTES (R481)
  ⟨0x200, 4, 16, 32, .ow, [⟨0, 8, 1, 200⟩], 0x00000032⟩] -- SCH_BATCH_WINDOW_p (R481)

def accRows : List RegRow := [
  ⟨0x0, 0, 1, 32, .ow, [⟨0, 12, 1, 4095⟩], 0x00000001⟩, -- ACC_CTL (R482)
  ⟨0x8, 0, 1, 64, .ow, [⟨0, 64, 0, 18446744073709551615⟩], 0⟩, -- ACC_CLEAR_CTX (R482)
  ⟨0x10, 0, 1, 32, .ow, [⟨0, 16, 0, 65535⟩, ⟨16, 1, 0, 1⟩], 0x00000000⟩, -- ACC_CLEAR_PDK (R482)
  ⟨0x18, 0, 1, 64, .ro, [], 0⟩, -- ACC_SNAP_STRIDE (R482)
  ⟨0x20, 0, 1, 64, .ro, [], 0⟩, -- ACC_DEV_ENERGY_MJ (R482)
  ⟨0x28, 0, 1, 64, .ro, [], 0⟩] -- ACC_UNATTRIB_MJ (R482)

def groomRows : List RegRow := [
  ⟨0x0, 0, 1, 64, .ro, [], 0⟩, -- GRM_REIN_STATE (R515)
  ⟨0x8, 0, 1, 64, .ro, [], 0⟩, -- GRM_REIN_EXPIRY (R515)
  ⟨0x10, 0, 1, 32, .ow, [⟨0, 16, 1, 65535⟩], 0x000003E8⟩, -- GRM_REIN_LEASE (R515)
  ⟨0x14, 0, 1, 32, .ro, [], 0x00000000⟩, -- GRM_GROOM_STATUS (R515)
  ⟨0x18, 0, 1, 32, .ow, [⟨0, 12, 1, 4095⟩], 0x00000001⟩, -- GRM_TELEM_CTL (R515)
  ⟨0x1C, 0, 1, 32, .ro, [], 0⟩, -- GRM_RESTARTS (R515)
  ⟨0x20, 0, 1, 32, .ro, [], 0⟩, -- GRM_MGMT_DROP (R515)
  ⟨0x24, 0, 1, 32, .ro, [], 0⟩, -- GRM_CLAIMS (R515)
  ⟨0x28, 0, 1, 32, .ro, [], 0x00000000⟩, -- GRM_START_STATUS (R515)
  ⟨0x1000, 0, 1, 32, .wo, [], 0x00000000⟩, -- GRM_RECOVERY_CTL (R515)
  ⟨0x1004, 0, 1, 32, .ro, [], 0x00000000⟩] -- GRM_RECOVERY_STATUS (R515)

def healthRows : List RegRow := [
  ⟨0x0, 0, 1, 32, .ow, [⟨0, 13, 4, 4096⟩, ⟨13, 4, 0, 8⟩, ⟨17, 1, 0, 1⟩, ⟨18, 1, 0, 1⟩], 0x00070040⟩, -- HLT_CTL (R547)
  ⟨0x4, 0, 1, 32, .ro, [], 0x00000000⟩, -- HLT_STATUS (R547)
  ⟨0x8, 0, 1, 32, .ow, [⟨0, 4, 0, 15⟩, ⟨8, 24, 1, 16777215⟩], 0x01000003⟩, -- HLT_FENCE_CTL (R547)
  ⟨0x10, 0, 1, 64, .ow, [⟨12, 52, 0, 4503599627370495⟩], 0⟩, -- HLT_DUMP_HOST_ADDR (R547)
  ⟨0x18, 0, 1, 32, .ow, [⟨0, 24, 0, 16777215⟩], 0x00000000⟩, -- HLT_DUMP_HOST_LEN (R547)
  ⟨0x1C, 0, 1, 32, .w1c, [⟨0, 2, 0, 3⟩], 0x00000000⟩, -- HLT_DUMP_STATUS (R547)
  ⟨0x20, 0, 1, 64, .ow, [⟨12, 52, 0, 4503599627370495⟩], 0⟩, -- HLT_DUMP_DDR_ADDR (R547)
  ⟨0x28, 0, 1, 32, .ow, [⟨0, 24, 0, 16777215⟩], 0x00000000⟩, -- HLT_DUMP_DDR_LEN (R547)
  ⟨0x2C, 0, 1, 32, .ro, [], 0⟩, -- HLT_LOG_SEQ (R547)
  ⟨0x30, 0, 1, 64, .ro, [], 0⟩, -- HLT_LAST_HANG (R547)
  ⟨0x38, 0, 1, 32, .ro, [], 0⟩, -- HLT_HANG_COUNT (R547)
  ⟨0x3C, 0, 1, 32, .ro, [], 0⟩, -- HLT_ABORT_COUNT (R547)
  ⟨0x40, 0, 1, 64, .ro, [], 0⟩, -- HLT_CTX_HELD (R547)
  ⟨0x48, 0, 1, 64, .ro, [], 0⟩, -- HLT_DCP_HOOFBEAT (R547)
  ⟨0x50, 8, 4, 64, .ow, [⟨0, 64, 0, 18446744073709551615⟩], 0⟩, -- HLT_FENCE_CORE_i (R547)
  ⟨0x70, 0, 1, 64, .ow, [⟨0, 45, 0, 35184372088831⟩], 0⟩, -- HLT_FENCE_UNIT (R547)
  ⟨0x78, 0, 1, 64, .ow, [⟨0, 64, 0, 18446744073709551615⟩], 0⟩, -- HLT_FENCE_GTH (R547)
  ⟨0x80, 0, 1, 64, .ow, [⟨0, 64, 0, 18446744073709551615⟩], 0⟩, -- HLT_FENCE_WAY (R547)
  ⟨0x88, 0, 1, 32, .ow, [⟨0, 32, 0, 4294967295⟩], 0x00000000⟩] -- HLT_FENCE_CLUSTER (R547)

def powerRows : List RegRow := [
  ⟨0x0, 0, 1, 32, .ow, [⟨0, 3, 0, 2⟩, ⟨3, 1, 0, 1⟩], 0x00000000⟩, -- PWR_GAIT_CTL (R573)
  ⟨0x4, 0, 1, 32, .ro, [], 0x00000000⟩, -- PWR_GAIT_STATUS (R573)
  ⟨0x8, 0, 1, 64, .ro, [], 0⟩, -- PWR_GAIT_COMMIT (R573)
  ⟨0x10, 0, 1, 32, .ow, [⟨0, 3, 0, 2⟩], 0x00000000⟩, -- PWR_GAIT_CAP (R573)
  ⟨0x14, 0, 1, 32, .ow, [⟨0, 12, 0, 4095⟩, ⟨12, 12, 0, 4095⟩], 0x00898A28⟩, -- PWR_LIMIT_CTL (R573)
  ⟨0x18, 0, 1, 32, .ow, [⟨0, 16, 10, 10000⟩], 0x000003E8⟩, -- PWR_AVG_CTL (R573)
  ⟨0x1C, 0, 1, 32, .ro, [], (2600 + 120 * 2 ^ 12 + 105 * 2 ^ 20)⟩, -- PWR_FUSE (R573)
  ⟨0x20, 0, 1, 32, .ro, [], 0⟩, -- PWR_PKG_POWER (R573)
  ⟨0x24, 0, 1, 32, .ro, [], 0x00000000⟩, -- PWR_STRETCH (R573)
  ⟨0x28, 0, 1, 32, .ro, [], 0x00000A28⟩, -- PWR_THERMAL_W (R573)
  ⟨0x2C, 0, 1, 32, .w1c, [⟨0, 5, 0, 31⟩, ⟨6, 1, 0, 1⟩], 0x00000000⟩, -- PWR_ERR_LATCH (R573)
  ⟨0x30, 0, 1, 64, .ro, [], 0⟩, -- PWR_STRETCH_CYCLES (R573)
  ⟨0x38, 0, 1, 32, .ow, [⟨0, 8, 0, 119⟩, ⟨8, 8, 0, 119⟩, ⟨16, 8, 0, 104⟩], 0x005F695F⟩, -- PWR_THERM_CTL (R573)
  ⟨0x3C, 0, 1, 32, .ro, [], 0⟩, -- PWR_TEMP_MAX (R573)
  ⟨0x40, 0, 1, 32, .ow, [⟨0, 4, 0, 15⟩, ⟨4, 4, 0, 15⟩], 0x00000000⟩, -- PWR_WAKE_CTL (R573)
  ⟨0x44, 0, 1, 32, .w1c, [⟨0, 4, 0, 15⟩, ⟨4, 1, 0, 1⟩, ⟨5, 1, 0, 1⟩, ⟨6, 1, 0, 1⟩, ⟨7, 1, 0, 1⟩], 0x00000000⟩, -- PWR_WAKE_STATUS (R573)
  ⟨0x48, 0, 1, 32, .ro, [], 0⟩, -- PWR_AVS_TIMEOUTS (R573)
  ⟨0x4C, 0, 1, 32, .ro, [], 0⟩, -- PWR_AVS_CLAMPS (R573)
  ⟨0x100, 8, 6, 64, .ro, [], 0⟩, -- PWR_RAIL_r (R573)
  ⟨0x140, 4, 6, 32, .ro, [], (500 + 1000 * 2 ^ 16)⟩] -- PWR_RAIL_WIN_r (R573)

def diePowerRows : List RegRow := [
  ⟨0x0, 0, 1, 32, .ow, [⟨0, 1, 0, 1⟩, ⟨1, 1, 0, 1⟩, ⟨8, 8, 1, 255⟩], 0x00006403⟩, -- PWR_DIE_CTL (R575)
  ⟨0x4, 0, 1, 32, .ro, [], 0x00000000⟩, -- PWR_DIE_DOMAIN (R575)
  ⟨0x8, 0, 1, 32, .ro, [], 0⟩, -- PWR_GATE_ABORT (R575)
  ⟨0xC, 0, 1, 32, .ro, [], 0⟩, -- PWR_DIE_TEMP (R575)
  ⟨0x10, 0, 1, 64, .ro, [], 0⟩, -- PWR_DIE_ENERGY_MJ (R575)
  ⟨0x40, 4, 16, 32, .ro, [], 0⟩] -- PWR_SENSOR_i (R575)

/-- The rows of the block that holds BAR0 address `a` of the physical function, and the
offset in that block. Keys from 2^26 up hold the function blocks of the virtual functions:
function f at f × 2^26 (R443). -/
def regBlock (a : Nat) : List RegRow × Nat :=
  if a < 0x00010000 then (fnBlockRows, a)
  else if a < 0x01000000 then ([], 0)
  else if a < 0x01100000 then (coreRows, a % 0x1000)
  else if a < 0x01800000 then ([], 0)
  else if a < 0x01840000 then (saddleRows, a % 0x10000)
  else if a < 0x01900000 then ([], 0)
  else if a < 0x01940000 then (dieSchedRows, a % 0x10000)
  else if a < 0x01A00000 then ([], 0)
  else if a < 0x01A40000 then (dmaRows, a % 0x10000)
  else if a < 0x01B00000 then ([], 0)
  else if a < 0x01B10000 then (dmaUdRows, a % 0x10000)
  else if a < 0x01C00000 then ([], 0)
  else if a < 0x01C40000 then (hbmRows, a % 0x10000)
  else if a < 0x01D00000 then ([], 0)
  else if a < 0x01D10000 then (ddrRows, a % 0x10000)
  else if a < 0x01E00000 then ([], 0)
  else if a < 0x01E38000 then (redRows, a % 0x1000)
  else if a < 0x01F00000 then ([], 0)
  else if a < 0x01F10000 then (updRows, a % 0x10000)
  else if a < 0x02000000 then ([], 0)
  else if a < 0x02010000 then (trcRows, a % 0x10000)
  else if a < 0x02028000 then (linkRows, a % 0x1000)
  else if a < 0x02100000 then ([], 0)
  else if a < 0x02110000 then (timSchRows, a % 0x10000)
  else if a < 0x02200000 then ([], 0)
  else if a < 0x02210000 then (accRows, a % 0x10000)
  else if a < 0x02300000 then ([], 0)
  else if a < 0x02320000 then (groomRows, a % 0x20000)
  else if a < 0x02400000 then ([], 0)
  else if a < 0x02440000 then (healthRows, a % 0x40000)
  else if a < 0x02500000 then ([], 0)
  else if a < 0x02510000 then (powerRows, a % 0x10000)
  else if a < 0x02517000 then (diePowerRows, a % 0x1000)
  else if a < 0x04000000 then ([], 0)
  else (if a % 0x04000000 < 0x10000 then fnBlockRows else [], a % 0x04000000)

/-- The instance index of row `r` whose bytes hold offset `o`. -/
def RegRow.index? (r : RegRow) (o : Nat) : Option Nat :=
  if o < r.off then none
  else if r.step = 0 then (if o < r.off + r.width / 8 then some 0 else none)
  else
    let i := (o - r.off) / r.step
    if i < r.count && (o - r.off) % r.step < r.width / 8 then some i else none

def findRow : List RegRow → Nat → Option (RegRow × Nat)
  | [], _ => none
  | r :: t, o => match r.index? o with
    | some i => some (r, i)
    | none => findRow t o

/-- The row that holds address `a`, and the address of the register's first byte. -/
def regAt (a : Nat) : Option (RegRow × Nat) :=
  let (rows, o) := regBlock a
  match findRow rows o with
  | some (r, i) => some (r, a - o + r.off + r.step * i)
  | none => none

/-- What a register reads after reset. -/
def regReset (a : Nat) : BitVec 64 :=
  match regAt a with
  | some (r, start) => if a = start then BitVec.ofNat 64 r.reset else 0#64
  | none => 0#64

/-! Block addresses. -/
def coreBlk (c : Nat) : Nat := 0x01000000 + 0x1000 * c
def saddleBlk (k : Nat) : Nat := 0x01800000 + 0x10000 * k
def dieSchedBlk (k : Nat) : Nat := 0x01900000 + 0x10000 * k
def dmaBlk (k : Nat) : Nat := 0x01A00000 + 0x10000 * k
def dmaUdBlk : Nat := 0x01B00000
def hbmBlk (k : Nat) : Nat := 0x01C00000 + 0x10000 * k
def ddrBlk : Nat := 0x01D00000
def redClusterBlk (g : Nat) : Nat := 0x01E00000 + 0x1000 * g
def redPortBlk (p : Nat) : Nat := 0x01E20000 + 0x1000 * p
def updBlk : Nat := 0x01F00000
def trcBlk : Nat := 0x02000000
def linkBlk (p : Nat) : Nat := 0x02010000 + 0x1000 * p
def timBlk : Nat := 0x02100000
def accBlk : Nat := 0x02200000
def groomBlk : Nat := 0x02300000
def healthBlk : Nat := 0x02400000
def powerBlk : Nat := 0x02500000
def diePowerBlk (d : Nat) : Nat := 0x02510000 + 0x1000 * d
/-- Function blocks: 0 is the physical function. -/
def fnBlk (f : Nat) : Nat := 0x04000000 * f

end Sys2Proof.Machine
end

