-- ==== Sys2Proof/Config.lean ====
section
/-! DEFINITION. What one implementation fixes, and the values the specification leaves open.
An `opaque` constant has no body: no proof can see its value, so a statement about it holds
for every value (assumption log 5, 7, 8). -/
namespace Sys2Proof.Config

/-- The n-th value of 64 bits that the specification leaves open. State counts how many have
been taken; each step that needs one applies this to the count (assumption log 5). -/
opaque freeBits : Nat → BitVec 64

/-- A vector-unit or update-engine function whose accuracy, but not its value, is specified:
`freeFun f x` is the FP32 result for operation code `f` on input bits `x` (R603, R604, R348;
assumption log 7). -/
opaque freeFun : Nat → BitVec 32 → BitVec 32

/-- SHA-384 of FIPS 180-4 as an uninterpreted function of octets (R509; assumption log 8). -/
opaque sha384 : List Byte → BitVec 384

/-- ECDSA P-384 verification of FIPS 186-5: key, digest, signature (R499, R505; log 8). -/
opaque p384Verify : List Byte → BitVec 384 → List Byte → Bool

/-- ECDSA P-384 signature of a digest by a key the package holds: 0 device identity key,
1 alias key (R509, R510; log 8). -/
opaque p384Sign : Nat → BitVec 384 → List Byte

/-- The certificate chain of slot 0 as octets, from the certificate region of the flash and the
measurements, on which the alias key depends (R508, R509; log 8). -/
opaque certChain : List Byte → List (BitVec 384) → List Byte

/-- SHA-384 of the boot ROM, measurement 1 (R509; log 8). -/
opaque bootRomHash : BitVec 384

/-- Fused values of this part (R4, R26, R567, R573; assumption log 6). -/
def fusePart : BitVec 32 := 0x4B400110#32
def fuseSerial : BitVec 64 := 0#64
def fuseCeilingW : Nat := 2600
def fuseTripC : Nat := 120
def fuseStackTripC : Nat := 105

end Sys2Proof.Config
end

