-- ==== Sys2Proof/Machine/Numerics.lean ====
section
/-! DEFINITION. Numerics (chapter 2): formats (R38, R39), exact values, the FP32X accumulator
(R51, R52), narrowing (R70 to R73), the random generator (R75), ALIGNED32 (R44 to R46), scale
derivation (R62), and references for functions whose accuracy is stated in ulp (R105). -/
namespace Sys2Proof.Machine

/-- A real value with IEEE classes: a finite value is ±m × 2^e, zeros keep their sign. -/
inductive FVal where
  | nan
  | inf (neg : Bool)
  | fin (neg : Bool) (m : Nat) (e : Int)
  deriving DecidableEq, Repr

namespace FVal
def zero (neg : Bool) : FVal := .fin neg 0 0
def isFin : FVal → Bool | .fin .. => true | _ => false
def isZero : FVal → Bool | .fin _ m _ => m == 0 | _ => false
def ofNat (n : Nat) : FVal := .fin false n 0
def ofInt (n : Int) : FVal := .fin (decide (n < 0)) n.natAbs 0
def neg : FVal → FVal
  | .nan => .nan | .inf s => .inf (!s) | .fin s m e => .fin (!s) m e
def abs : FVal → FVal
  | .nan => .nan | .inf _ => .inf false | .fin _ m e => .fin false m e
end FVal

/-- ⌊log2 (m × 2^e)⌋ for m > 0. -/
def ilog (m : Nat) (e : Int) : Int := (Nat.log2 m : Int) + e

/-- The signed integer m × 2^(e − q), for q ≤ e. -/
def scaledInt (neg : Bool) (m : Nat) (e q : Int) : Int :=
  let v : Int := (m * 2 ^ (e - q).toNat : Nat)
  if neg then -v else v

/-- Exact addition; an exact zero sum is +0 unless both terms are −0 (R51, R82). -/
def fadd : FVal → FVal → FVal
  | .nan, _ => .nan
  | _, .nan => .nan
  | .inf a, .inf b => if a = b then .inf a else .nan
  | .inf a, _ => .inf a
  | _, .inf b => .inf b
  | .fin s1 m1 e1, .fin s2 m2 e2 =>
    let q := min e1 e2
    let v := scaledInt s1 m1 e1 q + scaledInt s2 m2 e2 q
    if v = 0 then .fin (s1 && s2 && m1 == 0 && m2 == 0) 0 0
    else .fin (decide (v < 0)) v.natAbs q

/-- Exact multiplication; an infinity times a zero is a NaN (R52). -/
def fmul : FVal → FVal → FVal
  | .nan, _ => .nan
  | _, .nan => .nan
  | .inf a, .inf b => .inf (a != b)
  | .inf a, .fin s m _ => if m = 0 then .nan else .inf (a != s)
  | .fin s m _, .inf b => if m = 0 then .nan else .inf (b != s)
  | .fin s1 m1 e1, .fin s2 m2 e2 => .fin (s1 != s2) (m1 * m2) (e1 + e2)

/-- Multiply by 2^k, exactly. -/
def fscale (x : FVal) (k : Int) : FVal :=
  match x with
  | .fin s m e => if m = 0 then .fin s 0 0 else .fin s m (e + k)
  | v => v

/-- x < y on non-NaN values (false when one is a NaN); zeros are equal. -/
def flt (x y : FVal) : Bool :=
  match x, y with
  | .nan, _ => false
  | _, .nan => false
  | .inf a, .inf b => a && !b
  | .inf a, _ => a
  | _, .inf b => !b
  | .fin s1 m1 e1, .fin s2 m2 e2 =>
    let q := min e1 e2
    decide (scaledInt s1 m1 e1 q < scaledInt s2 m2 e2 q)

def fle (x y : FVal) : Bool :=
  match x, y with
  | .nan, _ => false
  | _, .nan => false
  | x, y => !(flt y x)

/-- Drop `d` low bits of `m`, rounding to nearest even (R72). -/
def dropRne (m d : Nat) : Nat :=
  let k := m / 2 ^ d
  let r := m % 2 ^ d
  if 2 * r < 2 ^ d then k
  else if 2 ^ d < 2 * r then k + 1
  else if d = 0 then k
  else k + k % 2

/-- Drop `d` low bits of `m`, rounding stochastically with the 16-bit draw `r` (R73). -/
def dropSto (m d r : Nat) : Nat :=
  let k := m / 2 ^ d
  let rest := m % 2 ^ d
  let t := if d < 16 then rest * 2 ^ (16 - d) else rest / 2 ^ (d - 16)
  if 65536 ≤ t + r then k + 1 else k

/-- Drop `d` low bits of `m`, rounding away from zero (for recorded maxima, R58). -/
def dropUp (m d : Nat) : Nat := (m + 2 ^ d - 1) / 2 ^ d

/-- How a narrowing rounds: to nearest even, or stochastically with one 16-bit draw. -/
inductive Rnd where
  | rne
  | sto (r : Nat)
  deriving DecidableEq, Repr

def dropBits (rnd : Rnd) (m d : Nat) : Nat :=
  match rnd with
  | .rne => dropRne m d
  | .sto r => dropSto m d r

/-- Round ±m × 2^e to a multiple of 2^q. -/
def roundAt (drop : Nat → Nat → Nat) (m : Nat) (e q : Int) : Nat :=
  if q ≤ e then m * 2 ^ (e - q).toNat else drop m (q - e).toNat

/-- Round to `p` significant bits, no exponent limit (FP32X has p = 24: R51). -/
def roundSig (p : Nat) (x : FVal) : FVal :=
  match x with
  | .fin s m e =>
    if m = 0 then .fin s 0 0
    else
      let q := ilog m e - (p - 1 : Nat)
      .fin s (roundAt dropRne m e q) q
  | v => v

/-- One FP32X addition (R51). -/
def addX (a b : FVal) : FVal := roundSig 24 (fadd a b)

/-! Formats (R38, R39). -/

structure Fmt where
  ebits : Nat
  fbits : Nat
  bias : Nat
  hasInf : Bool
  deriving DecidableEq, Repr

def fp32 : Fmt := ⟨8, 23, 127, true⟩
def bf16 : Fmt := ⟨8, 7, 127, true⟩
def fp16 : Fmt := ⟨5, 10, 15, true⟩
def e4m3 : Fmt := ⟨4, 3, 7, false⟩
def e5m2 : Fmt := ⟨5, 2, 15, true⟩

/-- The floating-point format of a code of R38. -/
def fmtOf : Nat → Option Fmt
  | 0 => some fp32 | 1 => some bf16 | 2 => some fp16 | 3 => some e4m3 | 4 => some e5m2
  | _ => none

/-- Bytes of one element; 0 for a reserved code. -/
def fmtBytes : Nat → Nat
  | 0 => 4 | 1 => 2 | 2 => 2 | 3 => 1 | 4 => 1 | 5 => 1 | 6 => 4 | 7 => 4 | _ => 0

def fmtReserved (c : Nat) : Bool := 8 ≤ c

/-- The canonical NaN of a code (R41). -/
def canonNaN : Nat → Nat
  | 0 => 0x7FC00000 | 1 => 0x7FC0 | 2 => 0x7E00 | 3 => 0x7F | 4 => 0x7E | _ => 0

def decodeFmt (f : Fmt) (w : Nat) : FVal :=
  let s := bit w (f.ebits + f.fbits)
  let x := bits w f.fbits f.ebits
  let m := bits w 0 f.fbits
  let top := 2 ^ f.ebits - 1
  if x = top && f.hasInf then (if m = 0 then .inf s else .nan)
  else if x = top && !f.hasInf && m = 2 ^ f.fbits - 1 then .nan
  else if x = 0 then (if m = 0 then .fin s 0 0 else .fin s m (1 - (f.bias : Int) - f.fbits))
  else .fin s (m + 2 ^ f.fbits) ((x : Int) - f.bias - f.fbits)

def signed (w n : Nat) : Int := if bit n (w - 1) then (n % 2 ^ w : Nat) - (2 ^ w : Nat) else (n % 2 ^ w : Nat)
def unsigned (w : Nat) (v : Int) : Nat := (v % (2 ^ w : Nat)).toNat

/-- The value of a stored element of format code `c` (widening is exact, R43; R45). -/
def decodeElem (c w : Nat) : FVal :=
  match c with
  | 5 => .ofInt (signed 8 w)
  | 6 => .ofInt (if w % 2 ^ 32 = 2 ^ 31 then -(2 ^ 31 - 1) else signed 32 w)
  | 7 => .ofInt (signed 32 w)
  | _ => match fmtOf c with
    | some f => decodeFmt f w
    | none => .nan

/-- Largest finite value of a code as (m, e). -/
def maxFinite : Nat → Nat × Int
  | 0 => (2 ^ 24 - 1, 104) | 1 => (255, 120) | 2 => (2047, 5) | 3 => (14, 5) | 4 => (7, 13)
  | 5 => (127, 0) | 6 => (2 ^ 31 - 1, 0) | _ => (2 ^ 31 - 1, 0)

def infBits : Nat → Nat
  | 0 => 0x7F800000 | 1 => 0x7F80 | 2 => 0x7C00 | 4 => 0x7C | _ => 0

def signBit (c : Nat) (s : Bool) : Nat :=
  if s then 2 ^ (8 * fmtBytes c - 1) else 0

/-- Encode a rounded magnitude `m` × 2^q in float format `f`. -/
def encodeMag (f : Fmt) (m : Nat) (q : Int) : Nat :=
  if m = 0 then 0
  else
    let m' := if m = 2 ^ (f.fbits + 1) then 2 ^ f.fbits else m
    let q' := if m = 2 ^ (f.fbits + 1) then q + 1 else q
    if m' < 2 ^ f.fbits then m'
    else (q' + f.fbits + f.bias).toNat * 2 ^ f.fbits + (m' - 2 ^ f.fbits)

/-- The exponent of the last kept bit in format `f` for a value of magnitude m × 2^e. -/
def quantum (f : Fmt) (m : Nat) (e : Int) : Int :=
  max (ilog m e) (1 - (f.bias : Int)) - f.fbits

/-- The result of one narrowing: the stored bits and whether it counted as a saturation or a
non-finite input. -/
structure Narrowed where
  out : Nat
  sat : Bool
  nonfin : Bool
  deriving DecidableEq, Repr

def magAbove (m : Nat) (e : Int) (lim : Nat × Int) : Bool :=
  flt (.fin false lim.1 lim.2) (.fin false m e)

/-- Narrow a scaled value to format code `c` (R70 steps 3 to 5, R71 to R73). -/
def narrowTo (c : Nat) (rnd : Rnd) (x : FVal) : Narrowed :=
  match x with
  | .nan => ⟨canonNaN c, false, true⟩
  | .inf s =>
    if c = 3 then ⟨canonNaN 3, false, true⟩
    else if 5 ≤ c then ⟨0, false, true⟩
    else ⟨infBits c + signBit c s, false, true⟩
  | .fin s m e =>
    if m = 0 then ⟨if c < 5 then signBit c s else 0, false, false⟩
    else match fmtOf c with
      | some f =>
        let lim := maxFinite c
        if magAbove m e lim then
          ⟨encodeMag f lim.1 lim.2 + signBit c s, true, false⟩
        else
          let q := quantum f m e
          ⟨encodeMag f (roundAt (dropBits rnd) m e q) q + signBit c s, false, false⟩
      | none =>
        let w := 8 * fmtBytes c
        let lim : Nat := if c = 5 then (if s then 128 else 127) else if c = 6 then 2 ^ 31 - 1
          else (if s then 2 ^ 31 else 2 ^ 31 - 1)
        if magAbove m e (lim, 0) then
          ⟨unsigned w (if s then -(lim : Int) else lim), true, false⟩
        else
          let n := roundAt (dropBits rnd) m e 0
          ⟨unsigned w (if s then -(n : Int) else n), false, false⟩

/-- IEEE rounding of a vector-unit or update-engine result to FP32 (overflow gives ∞). -/
def toF32 (x : FVal) : Nat :=
  match x with
  | .nan => 0x7FC00000
  | .inf s => infBits 0 + signBit 0 s
  | .fin s m e =>
    if m = 0 then signBit 0 s
    else
      let q := quantum fp32 m e
      let r := roundAt dropRne m e q
      if magAbove r q (maxFinite 0) then infBits 0 + signBit 0 s
      else encodeMag fp32 r q + signBit 0 s

def ofF32 (w : Nat) : FVal := decodeFmt fp32 w

/-- A magnitude in FP32 rounded upward, at most the largest finite value (R58). -/
def maxBits (x : FVal) : Nat :=
  match x with
  | .fin _ m e =>
    if m = 0 then 0
    else if magAbove m e (maxFinite 0) then 0x7F7FFFFF
    else
      let q := quantum fp32 m e
      encodeMag fp32 (roundAt dropUp m e q) q
  | _ => 0

/-- The random generator of R75: key, serial, lane, draw number. -/
def drawRound (p : BitVec 64 × BitVec 64) : BitVec 64 × BitVec 64 :=
  let x := p.1 + p.2
  let x := x ^^^ (x >>> 29)
  let x := x * 0x9E6C63D0676A9A99#64
  let x := x ^^^ (x >>> 32)
  (x, p.2.rotateLeft 23 + 0x3C6EF372FE94F82B#64)

def draw (k : BitVec 64) (serial lane n : Nat) : Nat :=
  let x := BitVec.ofNat 64 (serial % 2 ^ 32 * 2 ^ 32 + n % 2 ^ 32)
  let y := k ^^^ (BitVec.ofNat 64 (lane % 2 ^ 24 * 2 ^ 40))
  (drawRound (drawRound (drawRound (drawRound (x, y))))).1.toNat / 2 ^ 48

/-- Lane identifier: unit (16 bits), lane (8 bits) (R74). -/
def laneId (unit lane : Nat) : Nat := unit * 256 + lane % 256
def coreLane (c site lane : Nat) : Nat := laneId (c * 16 + site) lane
def clusterRedLane (g lane : Nat) : Nat := laneId (0x1000 + g) lane
def portRedLane (p lane : Nat) : Nat := laneId (0x1100 + p) lane
def updLane (j lane : Nat) : Nat := laneId (0x1200 + j) lane

/-! Scale derivation (R62). -/

/-- Largest finite value of a target format as (M's numerator over 2^30, em). -/
def targetMax : Nat → Nat × Int
  | 0 => (2 ^ 31 - 2 ^ 7, 127) | 1 => (2 ^ 31 - 2 ^ 23, 127) | 2 => (2 ^ 31 - 2 ^ 20, 15)
  | 3 => (7 * 2 ^ 28, 8) | 4 => (7 * 2 ^ 28, 15) | 6 => (2 ^ 31 - 1, 30) | _ => (7 * 2 ^ 28, 8)

def clampInt (v lo hi : Int) : Int := if v < lo then lo else if hi < v then hi else v

/-- The exponent derived from ring maximum `a` (FP32 bits); `old` when it is 0. -/
def deriveExp (a tfmt margin : Nat) (old : Int) : Int :=
  match ofF32 a with
  | .fin _ m e =>
    if m = 0 then old
    else
      let ea := ilog m e
      let t := targetMax tfmt
      let above := flt (.fin false t.1 (-30)) (.fin false m (e - ea))
      clampInt (t.2 - ea - margin - (if above then 1 else 0)) (-127) 127
  | _ => old

/-! Sums in an order the hardware does not fix (R53, R107): at each step two terms are chosen
by free values and replaced by their rounded sum, so each term enters exactly once. -/

def takeAt {α : Type} (l : List α) (i : Nat) : Option (α × List α) :=
  match l[i]? with
  | some a => some (a, l.eraseIdx i)
  | none => none

def sumStep (add : FVal → FVal → FVal) (k : Nat) (l : List FVal) : List FVal :=
  match takeAt l ((Config.freeBits k).toNat % l.length) with
  | some (a, rest) =>
    match takeAt rest ((Config.freeBits k).toNat / l.length % rest.length) with
    | some (b, rest') => add a b :: rest'
    | none => a :: rest
  | none => l

def sumSteps (add : FVal → FVal → FVal) : Nat → Nat → List FVal → List FVal
  | 0, _, l => l
  | n + 1, k, l => sumSteps add n (k + 1) (sumStep add k l)

/-- The sum of `l` by `l.length − 1` additions; the free values used start at `k`. -/
def freeSum (add : FVal → FVal → FVal) (k : Nat) (l : List FVal) : FVal :=
  (sumSteps add (l.length - 1) k l).headD (.fin true 0 0)

/-! References for operations whose accuracy is stated in ulp. -/

def big (x : FVal) : FVal := roundSig 256 x
def badd (a b : FVal) : FVal := big (fadd a b)
def bmul (a b : FVal) : FVal := big (fmul a b)

/-- Division of finite values to 256 bits (b ≠ 0). -/
def bdiv (a b : FVal) : FVal :=
  match a, b with
  | .fin s1 m1 e1, .fin s2 m2 e2 =>
    if m2 = 0 then .nan
    else if m1 = 0 then .fin (s1 != s2) 0 0
    else
      let k := 260 + Nat.log2 m2
      big (.fin (s1 != s2) (m1 * 2 ^ k / m2 * 2 + 1) (e1 - e2 - k - 1))
  | _, _ => .nan

/-- Floor of the square root, by bits. -/
def isqrtGo : Nat → Nat → Nat → Nat
  | 0, _, r => r
  | k + 1, n, r =>
    let r' := r + 2 ^ k
    isqrtGo k n (if r' * r' ≤ n then r' else r)

def isqrt (n : Nat) : Nat := isqrtGo (Nat.log2 n / 2 + 1) n 0

/-- Square root of a non-negative finite value, with a sticky bit when inexact. -/
def bsqrt (x : FVal) : FVal :=
  match x with
  | .fin s m e =>
    if m = 0 then .fin s 0 0
    else
      let odd := e % 2 ≠ 0
      let m' := (if odd then 2 * m else m) * 2 ^ 512
      let e' := ((if odd then e - 1 else e) - 512) / 2
      let r := isqrt m'
      .fin false (2 * r + b2n (r * r != m')) (e' - 1)
  | v => v

def ratConst (num den : Nat) : FVal := bdiv (.ofNat num) (.ofNat den)

def ln2 : FVal := ratConst
  693147180559945309417232121458176568075500134360255254120680009 (10 ^ 63)
def sqrt2overPi : FVal := ratConst
  797884560802865355879892119868763736951717262329869315331851659 (10 ^ 63)

/-- e^x − 1 by its series, |x| ≤ 1. -/
def expm1Go : Nat → Nat → FVal → FVal → FVal → FVal
  | 0, _, _, _, acc => acc
  | k + 1, i, x, t, acc =>
    let t' := bdiv (bmul t x) (.ofNat i)
    expm1Go k (i + 1) x t' (badd acc t')

def floorF (x : FVal) : Int :=
  match x with
  | .fin s m e =>
    let v : Int := if 0 ≤ e then (m * 2 ^ e.toNat : Nat) else (m / 2 ^ (-e).toNat : Nat)
    if s then (if 0 ≤ e ∨ m % 2 ^ (-e).toNat = 0 then -v else -v - 1) else v
  | _ => 0

/-- 2^x for |x| < 2^12. -/
def exp2Ref (x : FVal) : FVal :=
  let n := floorF x
  let f := badd x (.ofInt (-n))
  fscale (badd (.ofNat 1) (expm1Go 56 1 (bmul f ln2) (.ofNat 1) (.fin false 0 0))) n

def expRef (x : FVal) : FVal := exp2Ref (bdiv x ln2)

/-- log2 of a positive value: with m in [1, 2), 2 atanh((m − 1)/(m + 1)) / ln 2. -/
def atanhGo : Nat → Nat → FVal → FVal → FVal → FVal
  | 0, _, _, _, acc => acc
  | k + 1, i, z2, t, acc => atanhGo k (i + 2) z2 (bmul t z2) (badd acc (bdiv t (.ofNat i)))

def log2Ref (x : FVal) : FVal :=
  match x with
  | .fin _ m e =>
    if m = 0 then .inf true
    else
      let k := ilog m e
      let y := FVal.fin false m (e - k)
      let z := bdiv (fadd y (.fin true 1 0)) (fadd y (.ofNat 1))
      badd (.ofInt k) (bdiv (fscale (atanhGo 90 1 (bmul z z) z (.fin false 0 0)) 1) ln2)
  | v => v

def tooBig (x : FVal) (lim : Nat) : Bool := flt (.ofNat lim) x.abs

def sigmoidRef (x : FVal) : FVal :=
  if tooBig x 2000 then (if flt x (.fin false 0 0) then .fin false 0 0 else .ofNat 1)
  else bdiv (.ofNat 1) (badd (.ofNat 1) (expRef x.neg))

def tanhRef (x : FVal) : FVal :=
  match x with
  | .fin s m e =>
    if m = 0 then x
    else if ilog m e < -60 then x
    else if tooBig x 200 then .fin s 1 0
    else
      let t := expRef (fscale x 1)
      bdiv (badd t (.fin true 1 0)) (badd t (.ofNat 1))
  | v => v

def siluRef (x : FVal) : FVal := bmul x (sigmoidRef x)

def geluRef (x : FVal) : FVal :=
  let x3 := bmul x (bmul x x)
  let u := bmul sqrt2overPi (badd x (bmul (ratConst 44715 1000000) x3))
  bmul x (sigmoidRef (fscale u 1))

/-- Whether FP32 value `v` lies within `n` ulp of `ref`. -/
def withinUlp (n : Nat) (ref v : FVal) : Bool :=
  match ref, v with
  | .fin _ m e, .fin .. =>
    let q := if m = 0 then (-149 : Int) else quantum fp32 m e
    fle (fadd ref v.neg).abs (.fin false n q)
  | _, _ => false

/-- An FP32 result of stated accuracy: the free value `v` where it is within `n` ulp of the
reference, and the correctly rounded reference otherwise (assumption log 7). -/
def withAccuracy (n : Nat) (ref : FVal) (v : Nat) : Nat :=
  if withinUlp n ref (ofF32 v) then v % 2 ^ 32 else toF32 ref

end Sys2Proof.Machine
end

