-- ==== Sys2Proof/Machine/State.lean ====
section
/-! DEFINITION. The state of the block: every register, table, buffer, queue, counter and mode
the specification gives the device, as plain data. Times are local microseconds
(`TIM_LOCAL_US`) unless a name says otherwise; tables are sparse lists in one canonical form
(`Tbl`), an unlisted key reading its default. -/
namespace Sys2Proof.Machine

open Sys2Proof

/-! Registers. -/

/-- The parts of a wide register that a function's shadow holds (R15, R16): the register's
first byte, and bytes by offset. -/
structure Shadow where
  start : Nat
  parts : Tbl Byte
  deriving DecidableEq, Repr

/-- Every register that is a plain word, keyed by BAR0 address of the physical function
(function block of VF f at f × 2^26); an address with no entry reads its reset value. -/
structure RegFile where
  vals : Tbl W64
  /-- read and write shadows, per function (R15, R16) -/
  rdShadow : Tbl (Option Shadow)
  wrShadow : Tbl (Option Shadow)
  /-- error address registers that hold a record and are not armed (R602) -/
  disarmed : List Nat
  /-- what the last register or window read returned, and whether it was poisoned (R404) -/
  out : List Byte
  outPoisoned : Bool
  deriving DecidableEq, Repr

/-! Host interface (chapter 12). -/

/-- A TLB invalidation in progress (R260). -/
structure TlbInv where
  ctx : Nat
  all : Bool
  first : Nat
  pages : Nat
  /-- requests translated through a dropped entry that are still in flight -/
  reqs : List Nat
  deriving DecidableEq, Repr

structure HostIf where
  mem : Tbl Byte
  /-- bit f: virtual function f enabled (R403) -/
  vfEn : Nat
  /-- window n of function f at 16 f + n (R439) -/
  windows : Tbl W128
  /-- requests a window write waits for, per function (R441); the busy bit is set while present -/
  winBusy : Tbl (Option (List Nat))
  tlbInv : Tbl (Option TlbInv)
  /-- MSI-X tables: two 64-bit words per vector at 2 × (256 f + v) -/
  msix : Tbl W64
  msixPend : Tbl Bool
  /-- messages sent per vector, and the last message (address, data) -/
  msixCount : Tbl Nat
  msixLast : Option (Nat × Nat)
  /-- ATS invalidations in progress: function, page, pages, requests still to complete (R442) -/
  atsInv : List (Nat × Nat × Nat × List Nat)
  atsAnswered : Nat
  doeOut : List Byte
  linkUp : Bool
  linkGen6 : Bool
  /-- PCI device ID of the virtual functions, and class code of every function (R7) -/
  vfDevId : BitVec 16
  classCode : BitVec 24
  deriving DecidableEq, Repr

/-! Rings and commands (chapter 12). -/

structure Ring where
  sqBase : Nat
  cqBase : Nat
  /-- the CTL register's fields without ENABLE -/
  ctl : Nat
  enabled : Bool
  draining : Bool
  err : Bool
  errCause : Nat
  sqTail : Nat
  sqHead : Nat
  cqTail : Nat
  cqHead : Nat
  deriving DecidableEq, Repr

def Ring.empty : Ring := ⟨0, 0, 0, false, false, false, 0, 0, 0, 0, 0⟩

/-- An Ifeano packet that was fetched (R411). Queues are numbered: context ring x at x, admin
ring of function f at 64 + f, relay queue of context x at 128 + x, of admin ring f at 192 + f. -/
structure Packet where
  bytes : List Byte
  q : Nat
  fn : Nat
  /-- lead and relay epoch of a relayed packet (R385, R386) -/
  lead : Option (Nat × Nat)
  us : Nat
  stride : Nat
  deriving DecidableEq, Repr

/-- Narrowing statistics of one command for one scale slot (R58, R79). -/
structure SlotStat where
  any : Bool
  maxMag : Nat
  sat : Nat
  nonfin : Nat
  deriving DecidableEq, Repr

def SlotStat.empty : SlotStat := ⟨false, 0, 0, 0⟩

/-- A running command. -/
structure Cmd where
  id : Nat
  pkt : Packet
  op : Nat
  ctx : Nat
  gen : Nat
  serial : Nat
  pdk : Nat
  issueUs : Nat
  /-- boundary that ends the run it issued in, as stride and fabric ns (none in open mode); once the run
  has ended, its stride and the local µs at which it ended (R467) -/
  runEnd : Option (Nat × Nat)
  status : Nat
  csw : Nat
  /-- it ended early: issues no further pass, request or packet -/
  ended : Bool
  /-- it has begun to overrun (R467) -/
  overrun : Bool
  ovfSat : Nat
  ovfNonfin : Nat
  slots : Tbl SlotStat
  /-- exponents (offset by 128) of the slots it named, read at issue (R64) -/
  exps : Tbl Nat
  seed : W64
  /-- draw numbers per lane (R76) -/
  draws : Tbl Nat
  clusters : Nat
  /-- version references held: record address and version (R218, R219) -/
  refs : List (Nat × Nat)
  /-- output and input handles, as 64 × core + handle -/
  outs : List Nat
  ins : List Nat
  /-- held for batching (R99) -/
  batched : Bool
  /-- a value pushed in place of the local maximum for a slot (R61) -/
  pushOver : Tbl Nat
  deriving DecidableEq, Repr

/-- A completion that is formed and waits to be written (R419). -/
structure Cpl where
  serial : Nat
  status : Nat
  op : Nat
  ctx : Nat
  gen : Nat
  ovf : Nat
  csw : Nat
  runUs : Nat
  overrunUs : Nat
  src : Nat
  noIrq : Bool
  lead : Option (Nat × Nat)
  fn : Nat
  deriving DecidableEq, Repr

/-- Thin matmuls held together (R99 to R101): commands in order of arrival. -/
structure Batch where
  ctx : Nat
  key : List Nat
  cmds : List Nat
  rows : Nat
  openUs : Nat
  budget : Nat
  deriving DecidableEq, Repr

structure CmdProc where
  rings : Tbl Ring
  /-- fetched packets that have not issued, per queue (R415) -/
  waiting : Tbl (List Packet)
  cmds : List Cmd
  done : Tbl (List Cpl)
  nextCmd : Nat
  batches : List Batch
  /-- device CP is past DEVICE_READY and fetches rings (R590) -/
  fetching : Bool
  /-- rings that hold packets to fetch, and queues of formed completions, in order of arrival (R33) -/
  order : List Nat
  doneOrder : List Nat
  deriving DecidableEq, Repr

/-! Time, paddocks and contexts (chapter 13). -/

/-- What is due at a stride boundary, in the order of R450. -/
inductive Due where
  | snapshot | hoofbeat | capStep | gait | strideValues | routeTable | gaitTable (p : Nat)
  | runEnd (p : Nat) | slotBegin (p : Nat) | telemetry
  | reinLease | nonce (k : Nat) | fenceWindow (u : Nat) | paddockSet (p : Nat)
  | overrunLimit (x : Nat) | walkGate | haltExit
  deriving DecidableEq, Repr

structure TimeBase where
  localUs : Nat
  fabricNs : Nat
  count : Nat
  period : Nat
  baseStride : Nat
  baseNs : Nat
  loadNow : Bool
  due : List Due
  /-- local µs at which the last boundary was taken (a run's end, R467) -/
  boundaryUs : Nat
  deriving DecidableEq, Repr

structure Slot where
  name : Nat
  byJob : Bool
  len : Nat
  deriving DecidableEq, Repr

/-- The run in progress in a paddock (R463 to R469). -/
structure Run where
  ctx : Nat
  startStride : Nat
  endStride : Nat
  startNs : Nat
  debitUs : Nat
  switched : Bool
  switchUs : Nat
  issuedAny : Bool
  deriving DecidableEq, Repr

structure PdkSet where
  clusters : Nat
  groups : Nat
  ways : List Nat
  channels : Nat
  cacheWays : Nat
  deriving DecidableEq, Repr

def PdkSet.empty : PdkSet := ⟨0, 0, [0, 0, 0, 0], 0, 0⟩

structure Pdk where
  res : PdkSet
  table : List Slot
  anchor : Nat
  loaded : Bool
  /-- a loaded table that awaits its boundary; an empty list returns to open mode (R462) -/
  pend : Option (List Slot × Nat)
  curSlot : Nat
  curIdle : Bool
  curCtx : Nat
  run : Option Run
  /-- context of the run before (R469) -/
  lastCtx : Option Nat
  /-- a PADDOCK_SET that issued: command id, new resources, and whether it has applied (R454) -/
  change : Option (Nat × PdkSet × Bool)
  /-- a switch in progress: outgoing contexts, incoming context, local µs of its start (R469) -/
  switch : Option (List Nat × Nat × Nat)
  deriving DecidableEq, Repr

def Pdk.empty : Pdk :=
  ⟨PdkSet.empty, [], 0, false, none, 0, false, 0, none, none, none, none⟩

/-- A teardown in progress (R473). -/
structure Teardown where
  cmd : Nat
  zeroHbm : Bool
  gen : Nat
  startStride : Nat
  /-- devices whose DRAIN_RETURN is awaited -/
  waitFor : List Nat
  dropped : Nat
  timedOut : Bool
  /-- 0 commands ending, 1 draining (step 4), 2 scrubbing (steps 5 to 7) -/
  phase : Nat
  deriving DecidableEq, Repr

structure Ctx where
  live : Bool
  coresident : Bool
  pdk : Nat
  job : Nat
  ptBase : Nat
  regions : List Nat
  fn : Nat
  debitUs : Nat
  resident : Bool
  seed : W64
  down : Option Teardown
  /-- held by a fabric-wide abort (R531) -/
  held : Bool
  rule : List Byte
  deriving DecidableEq, Repr

def Ctx.empty : Ctx :=
  ⟨false, false, 0, 0, 0, [0, 0, 0, 0], 0, 0, false, 0#64, none, false, []⟩

structure Handle where
  base : Nat
  rows : Nat
  width : Nat
  fmt : Nat
  state : Nat
  retain : Bool
  aliased : Bool
  aliasOf : Nat
  readers : Nat
  claimed : Bool
  claimSrc : Nat
  ctx : Nat
  gen : Nat
  col0 : Nat
  cols : Nat
  /-- the command that claimed it, and the bytes its writer has still to land -/
  owner : Nat
  left : Nat
  deriving DecidableEq, Repr

def Handle.unbound : Handle := ⟨0, 0, 0, 0, 0, false, false, 0, 0, false, 0, 0, 0, 0, 0, 0, 0⟩

structure Sched where
  ctxs : Tbl Ctx
  gens : Tbl Nat
  pdks : Tbl Pdk
  /-- live accounting counters: 16 x + i for context x, 16 (64 + p) + i for paddock p,
  16 × 80 and + 1 for device and unattributed energy (R475) -/
  acc : Tbl Nat
  /-- µJ remainders carried (R476) -/
  accFrac : Tbl Nat
  /-- array cycles or bytes since the last energy reading, at 64 × source + context (R476) -/
  shares : Tbl Nat
  /-- bound handles of switched-out contexts, by 64 × core + handle (R469) -/
  savedHandles : Tbl (List (Nat × Handle))
  deriving DecidableEq, Repr

/-! Memory (chapter 8) and movers (chapter 7). -/

structure TlbE where
  mmu : Nat
  ctx : Nat
  gen : Nat
  vpn : Nat
  pte : Nat
  deriving DecidableEq, Repr

/-- Self-refresh state of a stack (0–7) or channel (8–19) (R277, R278). -/
structure SrUnit where
  /-- 0 ready, 1 entry pending, 2 in self-refresh, 3 exiting -/
  st : Nat
  since : Nat
  lastUse : Nat
  exitAfter : Bool
  retrain : Bool
  deriving DecidableEq, Repr

def SrUnit.empty : SrUnit := ⟨0, 0, 0, false, false⟩

structure MemSys where
  dpa : Tbl Byte
  /-- words (DPA / 32) that read uncorrectable until a whole-word write (R274, R275) -/
  ue : List Nat
  /-- words (DPA / 32) with one symbol in error, which the next read corrects (R274) -/
  sym : List Nat
  /-- oldest first -/
  tlb : List TlbE
  /-- read-cache lines (DPA / 1024, way), most recently used first (R270) -/
  cache : List (Nat × Nat)
  units : Tbl SrUnit
  /-- requests outstanding per target (R228): pseudo-channel 64 s + n, bank 2^16 + … -/
  counts : Tbl Nat
  /-- corrected errors in this check window, per die (4 is the slow tier) (R276) -/
  ceWindow : Tbl Nat
  refreshing : List Nat
  deriving DecidableEq, Repr

/-- Where read data land, or what a write does. -/
inductive Dst where
  | none
  /-- pad row bytes: core, handle, row, byte offset in the band's row, and the pad word they lay in when the
  request was made -/
  | pad (core h row off word : Nat)
  /-- index stream of a gather job: position -/
  | index (pos : Nat)
  /-- device virtual address (second half of a copy) -/
  | copyVa (va : Nat)
  | copyHost (addr : Nat)
  | cache (line : Nat)
  /-- an offloaded input on its way to the saddlebag: command, layer, and offset in token order -/
  | sth (cmd layer off : Nat)
  deriving DecidableEq, Repr

/-- One memory request of at most 1 KiB (R226). -/
structure Req where
  id : Nat
  cmd : Nat
  ctx : Nat
  gen : Nat
  issuer : Nat
  job : Nat
  write : Bool
  add : Bool
  host : Bool
  fn : Nat
  va : Nat
  len : Nat
  /-- write data, or the data read at the target -/
  data : List Byte
  dst : Dst
  target : Nat
  pa : Nat
  /-- an admission found a word it may not merge with, or read, uncorrectable -/
  bad : Bool
  /-- read-ahead of the cache -/
  runAhead : Bool
  /-- run-ahead that stopped at its limit: made later as a demand request (R250) -/
  stopped : Bool
  deriving DecidableEq, Repr

/-- What one descriptor asks of its mover. -/
inductive JobKind where
  | load | store | gather | scatter | scatterAdd | route | ret | offload | prefetch | feed
  | raw
  deriving DecidableEq, Repr

/-- A descriptor being processed (R234, R240): `row`, `off` is the position of the next request. -/
structure Job where
  id : Nat
  cmd : Nat
  ctx : Nat
  gen : Nat
  kind : JobKind
  core : Nat
  handle : Nat
  padRow : Nat
  addr : Nat
  rowBytes : Nat
  rows : Nat
  stride : Nat
  host : Bool
  addr2 : Nat
  fn : Nat
  idxAddr : Nat
  idxFmt : Nat
  tableRows : Nat
  countBase : Nat
  capacity : Nat
  sources : Nat
  rank : Nat
  jobId : Nat
  claimed : Bool
  row : Nat
  off : Nat
  idxFetched : Nat
  /-- indices that have landed, by position -/
  idx : Tbl (Option Int)
  /-- (destination, slot) pairs whose count word is due or written (R246) -/
  counted : List (Nat × Nat)
  deriving DecidableEq, Repr

/-- A remote request outstanding on the fabric, by tag (R396). -/
structure Remote where
  tag : Nat
  /-- the mover whose tag it holds (R227), or `noIssuer` -/
  issuer : Nat
  cmd : Nat
  job : Nat
  dest : Nat
  slot : Nat
  ctx : Nat
  gen : Nat
  kind : Nat
  dst : Dst
  len : Nat
  sentUs : Nat
  deriving DecidableEq, Repr

structure Movers where
  /-- descriptors per issuer: 80 k + core, 80 k + 64 + e, 320 + i for the update die -/
  jobs : Tbl (List Job)
  /-- gather descriptors that wait for a free engine, per die (R241) -/
  gatherWait : Tbl (List Job)
  /-- requests not yet admitted, oldest first -/
  waiting : List Req
  flight : List Req
  remote : List Remote
  nextId : Nat
  nextTag : Nat
  deriving DecidableEq, Repr

/-! Pads and handles (chapter 4). -/
/-- A writer's claim that waits (R132). -/
structure Claim where
  core : Nat
  h : Nat
  cmd : Nat
  src : Nat
  bytes : Nat
  /-- the mover's job that writes, or `noJob` -/
  job : Nat
  deriving DecidableEq, Repr

/-- Power state of a bank group (R144 to R146): 0 on, 1 gate pending, 2 gated, 3 waking. -/
structure Group where
  st : Nat
  since : Nat
  lastUse : Nat
  deriving DecidableEq, Repr

def Group.empty : Group := ⟨0, 0, 0⟩

/-- A scrub in progress (R141, R142). `alone`: no command ran on the core when it began, so no
requester uses the pad until it ends. -/
structure PadScrub where
  core : Nat
  ctx : Nat
  alone : Bool
  deriving DecidableEq, Repr

structure Pads where
  /-- 2^21 × core + 1024 × word + 16 × bank + byte -/
  mem : Tbl Byte
  handles : Tbl Handle
  claims : List Claim
  /-- uncorrectable cells: 2^17 × core + 64 × word + bank -/
  ue : List Nat
  /-- cells with one symbol in error, which the next read corrects (R139) -/
  sym : List Nat
  groups : Tbl Group
  scrubs : List PadScrub
  patrol : Tbl Nat
  ceWindow : Tbl Nat
  deriving DecidableEq, Repr

/-! Cores (chapter 3). -/

/-- A matrix that a core's unit reads: a buffer of its own pad; a buffer of another core of the
cluster, whose lines come by pad-to-pad transfer (R431); or the weight chunk that one of its panel
buffers holds (R163). -/
inductive Src where
  | pad (h : Nat)
  | far (core h : Nat)
  | panel (feed chunk : Nat)
  deriving DecidableEq, Repr

/-- The 64 × 64 operand tile at tile row `row` and tile column `col`, with its TURN bit (R123,
R124). -/
structure Tile where
  src : Src
  row : Nat
  col : Nat
  turn : Bool
  deriving DecidableEq, Repr

/-- Where drained elements go, from the row and column of the first: a pad handle; a pad handle, the
elements first added in FP32 by the vector unit to those of handle `src`, written with numeric word
`old` (R166, R210); an ALIGNED32 sum of the command; or the columns of attention head `head`, once
every core of the sequence has read the head's keys and values (R433). -/
inductive Sink where
  | out (h row col : Nat)
  | add (src h row col num old : Nat)
  | sum (key row col : Nat)
  | head (h row col head : Nat)
  deriving DecidableEq, Repr

/-- One array's work in a pass: stationary tile, one streaming block, and the accumulator rows and
columns it adds to. `first`: the rows are cleared first (R82). -/
structure ArrWork where
  arr : Nat
  bank : Nat
  stat : Tile
  stream : Tile
  row0 : Nat
  cols : Nat
  first : Bool
  deriving DecidableEq, Repr

/-- Rows of an accumulator bank that drain once their last pass has retired (R86): narrowed with
`num`, after the scales of the two input words are removed (R54). An `ali` drain enters ALIGNED32
with headroom `room` (R46). -/
structure Drain where
  arr : Nat
  bank : Nat
  row0 : Nat
  rows : Nat
  cols : Nat
  sink : Sink
  num : Nat
  ali : Bool
  room : Nat
  ins : Nat × Nat
  /-- the commands that own the rows, with their row counts (R101); empty: the product's -/
  owners : List (Nat × Nat)
  deriving DecidableEq, Repr

structure Pass where
  works : List ArrWork
  drains : List Drain
  deriving DecidableEq, Repr

/-- One matrix product of a core operation (R81, R92, R93). cls: 0 forward, 1 recompute,
2 backward. -/
structure Product where
  id : Nat
  /-- its core operation, and whether that has entered the core-operation queue -/
  op : Nat
  queued : Bool
  cmd : Nat
  core : Nat
  cls : Nat
  fmtA : Nat
  fmtB : Nat
  /-- output width in columns -/
  outW : Nat
  /-- the passes that have not issued -/
  passes : List Pass
  /-- engine site (0 FE, 1 and 2 BE pairs), once taken, and its half when packed -/
  site : Option Nat
  /-- the one BE pair that may run it (R209), or 0 -/
  pair : Nat
  half : Nat
  packed : Bool
  /-- pad handles it reads, and those it writes -/
  reads : List Nat
  writes : List Nat
  deriving DecidableEq, Repr

/-- A pass in progress. `works` holds for each array the elements of the tile that is live in its
stage and of the streaming block in its feeder, in row order (R82, R83, R87). -/
structure RunPass where
  /-- issue number: the halves of a packed pass share it -/
  no : Nat
  prod : Nat
  cmd : Nat
  core : Nat
  site : Nat
  half : Nat
  cls : Nat
  works : List (ArrWork × List Nat × List Nat)
  /-- formats of each work's stationary and streaming elements -/
  fmts : List (Nat × Nat)
  drains : List Drain
  /-- operations it performs (R475) -/
  ops : Nat
  /-- columns per half are 32 -/
  packed : Bool
  /-- panel buffers it reads -/
  reads : List Nat
  deriving DecidableEq, Repr

/-- What a retired pass added to an accumulator bank since it was cleared (R82): the sum of all
products is formed in an order the hardware does not fix (R53). -/
structure AccWork where
  cmd : Nat
  core : Nat
  /-- array site 0–5 -/
  arr : Nat
  bank : Nat
  half : Nat
  row0 : Nat
  cols : Nat
  fmtA : Nat
  fmtB : Nat
  stat : List Nat
  stream : List Nat
  deriving DecidableEq, Repr

/-- A drain that waits or runs. -/
structure PendDrain where
  id : Nat
  cmd : Nat
  core : Nat
  site : Nat
  half : Nat
  drain : Drain
  deriving DecidableEq, Repr

/-- What a vector-unit operation computes: an operation of R105 on its inputs; the backward of a
stage (layer, stage, sweep) of a block command (R212); or a step of attention on one block of 64 keys
(R432, R434), given by its number, D, the key block, the first query row in its sequence, the first
column of the head's output, and the causal mask. The steps are 0 row statistics, 1 p, 2 do · o, and
3 p and ds. -/
inductive VuMode where
  | op
  | bwd (i k sw : Nat)
  | attn (step d kb q0 col : Nat) (causal : Bool)
  deriving DecidableEq, Repr

/-- A vector-unit operation of a core (R105, R106), on pad handles. `queued`: it has entered the
core-operation queue (R81). -/
structure VuOp where
  id : Nat
  queued : Bool
  cmd : Nat
  core : Nat
  op : Nat
  alt : Bool
  eps : Nat
  ins : List Nat
  /-- exponents removed from the inputs -/
  inExps : List Int
  out : Nat
  rows : Nat
  cols : Nat
  /-- per-column operands a and b, real values; `aux` false: none -/
  aux : Bool
  auxA : List FVal
  auxB : List FVal
  outNum : Nat
  mode : VuMode
  deriving DecidableEq, Repr

structure Cores where
  products : List Product
  running : List RunPass
  acc : List AccWork
  drains : List PendDrain
  vuq : List VuOp
  /-- the tile live in each stage since the last pass there, with its product, by
  64 × core + 8 × site + array + 2 × half (R87 item 1) -/
  live : Tbl (Option (Nat × Tile))
  next : Nat
  deriving DecidableEq, Repr

/-! Block commands and the saddlebag (chapters 5 and 6). -/

structure Stage where
  op : Nat
  row : Bool
  inplace : Bool
  resid : Bool
  aux : Nat
  alt : Bool
  eps : Nat
  num : Nat
  deriving DecidableEq, Repr

/-- A gradient record (R199). -/
structure GradRec where
  dw0 : Nat
  dw0In : Nat
  dw1 : Nat
  dw1In : Nat
  dw0Num : Nat
  dw1Num : Nat
  dauxNum : Nat
  ginNum : Nat
  gNum : List Nat
  daux : List Nat
  deriving DecidableEq, Repr

/-- A layer descriptor (R157), its auxiliary entries (address, numeric word, length) and its
backward fields (R197). -/
structure Layer where
  layerId : Nat
  policy : Nat
  version : Nat
  heads : Nat
  kIn : Nat
  n0 : Nat
  k1 : Nat
  n1 : Nat
  wAddr : Nat
  w0Num : Nat
  w1Num : Nat
  aux : List (Nat × Nat × Nat)
  headDim : Nat
  stages : List Stage
  noDw : Bool
  dwAccum : Bool
  grad : GradRec
  /-- buffer addresses of the version, read when the reference was acquired -/
  buf : Nat
  deriving DecidableEq, Repr

/-- One core's share of a command: column group, 128-row slice, and token group (R161). -/
structure Part where
  core : Nat
  g : Nat
  slice : Nat
  tg : Nat
  deriving DecidableEq, Repr

/-- The steps every part of a command takes, in order. -/
inductive BStep where
  | loadX
  /-- stage k of layer i, forward -/
  | fwd (i k : Nat)
  /-- end of layer i's forward: its input may be released -/
  | endFwd (i : Nat)
  | storeY
  /-- the rows of sweep sw of the incoming gradient of the last layer -/
  | loadDy (sw : Nat)
  /-- X_i for the backward pass of layer i (R188) -/
  | needX (i : Nat)
  /-- X_j from the checkpoint a rebuild run starts from -/
  | loadCk (j : Nat)
  /-- copy X_k to the blocks a rebuild run reserved -/
  | keep (k : Nat)
  /-- the sweep's rows of X_i and of the incoming gradient are in the pad, the other sweep's parked -/
  | sweep (i sw : Nat)
  /-- stage k of layer i in sweep sw: recompute, and backward -/
  | recompute (i k sw : Nat)
  | bwd (i k sw : Nat)
  | endBwd (i : Nat)
  /-- the gradient of X_i is parked (R206) -/
  | parkG (i : Nat)
  | storeDx (sw : Nat)
  /-- memory-form MATMUL (R429): load of a piece of a round's rows; product and store of columns `c` -/
  | mmLoad (round piece : Nat)
  | mm (round piece c : Nat)
  | mmStore (round piece c : Nat)
  deriving DecidableEq, Repr

/-- A tensor that a command holds on a core: its numeric word and shape, the pad handle it is bound
to, or its offset in the core's park area while it is parked (R169, R207). -/
structure Ten where
  key : Nat
  cmd : Nat
  core : Nat
  num : Nat
  rows : Nat
  cols : Nat
  h : Nat
  park : Option Nat
  deriving DecidableEq, Repr

/-- A panel buffer of a core and the weight chunk in it, if any (R163). -/
structure PanelBuf where
  cmd : Nat
  core : Nat
  h : Nat
  feed : Nat
  chunk : Option Nat
  deriving DecidableEq, Repr

/-- The chunks that a core takes in one pass over a stage's weight slice, in order (R163, R164,
R208), and how many have come. The slice has `kLoc` rows of `nLoc` columns from `addr`, `pitch`
columns apart; chunk c is rows kp × (c / 2^20) on of panel c mod 2^20. -/
structure PanelSeq where
  cmd : Nat
  core : Nat
  g : Nat
  feed : Nat
  addr : Nat
  pitch : Nat
  kLoc : Nat
  nLoc : Nat
  kp : Nat
  num : Nat
  /-- the cores of the cluster that hold rows, rising -/
  ring : List Nat
  order : List Nat
  got : Nat
  deriving DecidableEq, Repr

/-- What is done with a finished sum: narrow it into every named tensor (core, key) from column `col`,
after adding the elements of another tensor where one is named (R166, R210, R434); or write it to
memory (address, address added plus 1 or 0, elements between rows). -/
inductive SumTo where
  | tens (outs : List (Nat × Nat × Option Nat)) (col num : Nat)
  | mem (addr acc pitch num : Nat)
  deriving DecidableEq, Repr

/-- A 64-lane group and its group word (R290). -/
structure LaneGroup where
  lanes : List Int
  nf : Nat
  residue : Nat
  sat : Bool
  deriving DecidableEq, Repr

/-- An ALIGNED32 sum inside a block command (R165, R210, R211, R214, R286): its lanes in groups of 64
columns, row by row; `left` element contributions are still to come. `unit` is the cluster unit that
adds. -/
structure BSum where
  key : Nat
  cmd : Nat
  rows : Nat
  cols : Nat
  exp : Int
  left : Nat
  unit : Nat
  groups : List LaneGroup
  goal : SumTo
  deriving DecidableEq, Repr

/-- A command that runs on the cores of several clusters. kind: 0 BLOCK_FWD, 1 BLOCK_TRAIN,
2 BLOCK_BWD, 3 memory-form MATMUL, 4 ATTN. -/
structure BRun where
  cmd : Nat
  ctx : Nat
  kind : Nat
  pkt : Packet
  layers : List Layer
  parts : List Part
  steps : List BStep
  /-- next step of each part, the parts whose step has begun, and the attention operations of that
  step that each has started -/
  pos : List Nat
  begun : List Nat
  sub : List Nat
  /-- effective policies (0 KEEP, 1 RECOMPUTE, 2 OFFLOAD) -/
  pol : List Nat
  /-- rows per sweep of each layer's backward (R204) -/
  sweep : List Nat
  /-- layers whose reservation has been decided (R175) -/
  decided : List Nat
  /-- layers whose input has been copied out of the pads, or needs no copy -/
  copied : List Nat
  demoted : Nat
  rebuilds : Nat
  stashUe : Nat
  spilled : Nat
  offUsed : Nat
  spillUsed : Nat
  /-- commands of a batch and their rows (R101) -/
  batch : List (Nat × Nat)
  /-- weight buffer of a MATMUL -/
  wbuf : Nat
  /-- layers whose stored input read uncorrectable -/
  lost : List Nat
  /-- output regions, undefined after an abort (R224) -/
  outRegions : List (Nat × Nat)
  deriving DecidableEq, Repr

/-- A layer input held in saddlebag blocks: use 0 kept, 1 offload staging, 2 rebuild, 3 fetched. -/
structure Stored where
  cmd : Nat
  ctx : Nat
  tag : Option Nat
  layer : Nat
  use : Nat
  /-- blocks per die -/
  blocks : List (List Nat)
  landed : Bool
  /-- a read of it has begun, and every word passed its check (R181) -/
  checked : Bool
  /-- saved out of the die by a switch (R179): `blocks` are then places in the save area -/
  away : Bool
  deriving DecidableEq, Repr

/-- An offload record (R182): st 0 draining, 1 held, 2 host writes of a relayed drain are not yet
acknowledged (R183). `tried`: the layer at whose backward a fetch's reservation last failed, plus 1
(R185). -/
structure Offload where
  cmd : Nat
  ctx : Nat
  tag : Option Nat
  layer : Nat
  host : Bool
  fn : Nat
  addr : Nat
  st : Nat
  /-- the cores write their rows from the pads: no staging blocks -/
  direct : Bool
  tried : Nat
  checked : Bool
  deriving DecidableEq, Repr

/-- A stash left by BLOCK_FWD (R180). -/
structure Stash where
  ctx : Nat
  tag : Nat
  params : List Byte
  versions : List Nat
  refs : List (Nat × Nat)
  deriving DecidableEq, Repr

structure Blocks where
  runs : List BRun
  tens : List Ten
  panels : List PanelBuf
  seqs : List PanelSeq
  sums : List BSum
  stored : List Stored
  offloads : List Offload
  stashes : List Stash
  /-- saddlebag bytes: 2^26 × die + 65536 × block + byte -/
  mem : Tbl Byte
  /-- uncorrectable 32-byte words, and words with one symbol in error: 2^21 × die + word -/
  ue : List Nat
  sym : List Nat
  /-- blocks being scrubbed: die, context and blocks (R179) -/
  scrubs : List (Nat × Nat × List Nat)
  ceWindow : Tbl Nat
  deriving DecidableEq, Repr

/-! Reduction (chapter 9). -/

/-- A chunk (R289). kind: 0 UP, 1 DOWN, 2 COPY. -/
structure Chunk where
  job : Nat
  gen : Nat
  kind : Nat
  serial : Nat
  index : Nat
  /-- E, offset by 65536 -/
  exp : Nat
  offset : Nat
  groups : List LaneGroup
  deriving DecidableEq, Repr

/-- A reduction header (R301). -/
structure RedHdr where
  job : Nat
  gen : Nat
  flags : Nat
  serial : Nat
  step : Nat
  exp : Nat
  contrib : Nat
  ovfSat : Nat
  ovfNonfin : Nat
  amax : Nat
  status : Nat
  satGroups : Nat
  chunks : Nat
  deriving DecidableEq, Repr

/-- A collective in progress on this device. kind: 0 REDUCE, 1 REDUCE_LR factor P, 2 factor Q,
3 BROADCAST, 4 ALLGATHER, 5 weight multicast. Reduction units are numbered: cluster unit g at g, unit
of trace port p at 32 + p. -/
structure Coll where
  cmd : Nat
  ctx : Nat
  gen : Nat
  kind : Nat
  job : Nat
  serial : Nat
  step : Nat
  root : Bool
  parent : Nat
  children : List Nat
  members : Nat
  rank : Nat
  clusters : Nat
  all : Bool
  seals : Bool
  nChunks : Nat
  elems : Nat
  exp : Nat
  destAddr : Nat
  destNum : Nat
  redNum : Nat
  hdrAddr : Nat
  /-- this member's own chunks -/
  own : List Chunk
  /-- children's chunks that wait for their partner: child, port of arrival, chunk -/
  inputs : List (Nat × Nat × Chunk)
  /-- next chunk to add and send, the partial sum of it, how many children are in it, and the unit
  that holds it -/
  next : Nat
  part : Option Chunk
  stage : Nat
  unit : Nat
  /-- chunks accepted on their way down, by index -/
  got : List Nat
  tails : List (Nat × RedHdr)
  /-- this member's contribution to the header -/
  hdr : RedHdr
  tailSent : Bool
  expMismatch : Bool
  resFail : Bool
  downFail : Bool
  /-- checks failed, by 2^32 × unit + chunk -/
  retries : Tbl Nat
  retx : Nat
  /-- summed chunks at the root, delivered once the status is fixed -/
  sums : List Chunk
  result : Option RedHdr
  done : Bool
  /-- destination regions, undefined after a failure (R306) -/
  outRegions : List (Nat × Nat)
  deriving DecidableEq, Repr

/-- A chunk kept until its receiver acknowledges it (R296). -/
structure Retained where
  unit : Nat
  dest : Nat
  cmd : Nat
  ctx : Nat
  chunk : Chunk
  refused : Bool
  deriving DecidableEq, Repr

/-- What a reduction unit sends: a chunk, or a header as packet type 0x22 or 0x23. -/
inductive RedMsg where
  | chunk (c : Chunk)
  | hdr (type : Nat) (h : RedHdr)
  deriving DecidableEq, Repr

/-- A message that waits to be sent: a chunk for a place in the retain buffer, a header for the
acknowledgement of the chunks before it. -/
structure RedOut where
  unit : Nat
  dest : Nat
  cmd : Nat
  ctx : Nat
  gen : Nat
  job : Nat
  serial : Nat
  msg : RedMsg
  deriving DecidableEq, Repr

/-- The working values of a REDUCE_LR (R317), elements as FP32 bits. -/
structure LrState where
  cmd : Nat
  m : Nat
  n : Nat
  r : Nat
  params : List Byte
  mm : List Nat
  pHat : List Nat
  q : List Nat
  qHat : List Nat
  jobNf : Bool
  deriving DecidableEq, Repr

structure Reds where
  colls : List Coll
  retain : List Retained
  sendq : List RedOut
  lrs : List LrState
  /-- a chunk refused here whose sender waits for the issue: sender, job, serial, index -/
  refusedHere : List (Nat × Nat × Nat × Nat)
  /-- tails that arrived before their reduction was issued here: sender, tail -/
  early : List (Nat × RedHdr)
  /-- who waits for one of the 64 collective places, oldest first: a queue, or 256 for the update die
  (R33, R300) -/
  placeWait : List Nat
  deriving DecidableEq, Repr

/-- A packet: its 32-byte header (R368) and payload. `rsv`: a reserved header bit is set. -/
structure FPkt where
  dest : Nat
  src : Nat
  type : Nat
  vc : Nat
  hops : Nat
  level : Nat
  job : Nat
  gen : Nat
  ctx : Nat
  len : Nat
  tag : Nat
  addr : Nat
  aux : Nat
  rsv : Bool
  pay : List Byte
  deriving DecidableEq, Repr

/-! Update die (chapter 10). -/

/-- An entry of an UPDATE (R330) and its progress. phase: 0 not taken, 1 reserving, 2 running,
3 roots, 4 multicasting, 5 done; replica: 10 registered, 11 reservation waits, 12 granted. -/
structure UpdEntry where
  id : Nat
  cmd : Nat
  ctx : Nat
  gen : Nat
  idx : Nat
  replica : Bool
  resend : Bool
  job : Nat
  param : Nat
  vrec : Nat
  grad : Nat
  gradNum : Nat
  serial : Nat
  root : Bool
  parent : Nat
  children : List Nat
  members : Nat
  layerId : Nat
  newVer : Nat
  lrMult : Nat
  phase : Nat
  status : Nat
  /-- fabric ns of the first request that found its record not free, and of the last grant (R338) -/
  heldFrom : Option Nat
  heldTo : Nat
  /-- the own record: decided, granted, and its physical address -/
  ownDone : Bool
  ownGranted : Bool
  pa : Nat
  /-- children that have answered the reservation or, later, the multicast; and the status merged
  from their refusals or failures -/
  grants : List Nat
  refused : Option Nat
  committed : Bool
  /-- t of R334 and the descriptor's fields -/
  t : Nat
  desc : List Byte
  curBuf : Nat
  newBuf : Nat
  /-- device that asked a replica to reserve, and the context and generation it named -/
  askedBy : Nat
  askCtx : Nat
  askGen : Nat
  deriving DecidableEq, Repr

/-- A task of the update engine (R351): one layer's rule or root computation, with the
registers of R344 it keeps between its turns. part: 0 prologue, 1 body, 2 epilogue. -/
structure Task where
  id : Nat
  cmd : Nat
  ctx : Nat
  entry : Nat
  root : Bool
  rule : Nat
  mode : Nat
  seg : Nat
  unit : Nat
  pass : Nat
  part : Nat
  /-- instruction address in the rule memory, and where the current pass begins -/
  pc : Nat
  start : Nat
  /-- vector registers written since the segment began, as FP32 bits; a register not yet written
  holds open values from `base` on -/
  v : Tbl (List Nat)
  base : Nat
  sreg : List Nat
  lc : List Nat
  /-- open loops, innermost first: address after LOOP, counter, last count -/
  loops : List (Nat × Nat × Nat)
  age : Nat
  /-- no unit of work has begun -/
  fresh : Bool
  /-- root computations: blocks left, as block number and dimension held -/
  blocks : List (Nat × Nat)
  deriving DecidableEq, Repr

/-- A reservation that waits on a version record (R220). -/
structure Resv where
  vrec : Nat
  ctx : Nat
  entry : Nat
  deriving DecidableEq, Repr

/-- An UPDATE or PRECOND in progress. -/
structure UpdCmd where
  cmd : Nat
  ctx : Nat
  precond : Bool
  params : List Byte
  sealed : Bool
  entries : Nat
  /-- reports written, as (index, status) -/
  reports : List (Nat × Nat)
  installed : Nat
  skipped : Nat
  held : Nat
  deriving DecidableEq, Repr

structure Update where
  cmds : List UpdCmd
  entries : List UpdEntry
  tasks : List Task
  running : Option Nat
  resvs : List Resv
  /-- working store: row of 1,024 FP32 words at 1024 × slot + row (R349) -/
  store : Tbl (List Nat)
  /-- packets for an entry that is not yet registered: port, packet -/
  early : List (Nat × FPkt)
  /-- next identifier, and age of a task -/
  next : Nat
  deriving DecidableEq, Repr

/-! Trace fabric (chapter 11). -/

/-- A trace port (R361 to R367). st: 0 DISABLED, 1 TRAINING, 2 UP, 3 MGMT_ONLY, 4 HELD,
5 FAILED. -/
structure Port where
  st : Nat
  signal : Bool
  trainUs : Nat
  failed : Nat
  level : Nat
  session : Nat
  peerSession : Nat
  txSeq : Nat
  rxSeq : Nat
  nakOut : Bool
  /-- sent and unacknowledged flits, oldest first (R363) -/
  replay : List (Nat × List Byte)
  ackUs : Nat
  replays : Nat
  /-- credits held per VC and credits to return per VC, in 64-byte units (R362) -/
  credits : List Nat
  owed : List Nat
  /-- packets that wait at the egress, oldest first, each with the port it
  came from (24 for those this device originated) -/
  egress : List (Nat × FPkt)
  /-- bytes of started packets not yet in a flit -/
  txStream : List Byte
  /-- offset in `txStream` of the next packet header, if one begins -/
  txFirst : Option Nat
  rxStream : List Byte
  rxAligned : Bool
  lastFlit : List Byte
  /-- token buckets per VC in bytes and the time they were filled to (R384) -/
  tokens : List Nat
  tokenUs : Nat
  peer : Nat
  peerValid : Bool
  peerPort : Nat
  peerHigh : Nat
  peerLow : Nat
  peerFeature : Nat
  peerSerial : Nat
  deriving DecidableEq, Repr

def Port.down : Port :=
  ⟨0, false, 0, 0, 0, 0, 0, 0, 0, false, [], 0, 0, [1536, 1536, 3072, 256], [0, 0, 0, 0],
   [], [], none, [], false, [], [65536, 65536, 65536, 16384], 0, 0, false, 0, 0, 0, 0, 0⟩

/-- A route-change mark (R372): destination, channel, ports, time it was sent. -/
structure Mark where
  dest : Nat
  vc : Nat
  oldPort : Nat
  newPort : Nat
  us : Nat
  deriving DecidableEq, Repr

/-- A relayed packet that has not completed (R386). -/
structure Relayed where
  seat : Nat
  ctx : Nat
  q : Nat
  fn : Nat
  serial : Nat
  op : Nat
  gen : Nat
  pctx : Nat
  noIrq : Bool
  deriving DecidableEq, Repr

/-- A known candidate for fabric time master (R389). -/
structure Cand where
  dev : Nat
  prio : Nat
  hops : Nat
  port : Nat
  us : Nat
  deriving DecidableEq, Repr

structure Fabric where
  ports : Tbl Port
  /-- packets accepted for this device, oldest first, at 4 × port + VC; port 24 is loopback -/
  rxq : Tbl (List FPkt)
  /-- generation records: 2^18 × link die + 64 × source + context; value (or none) and drops -/
  gens : Tbl (Option Nat × Nat)
  /-- devices each context has sent a packet to since its creation (R383) -/
  sentTo : Tbl (List Nat)
  marks : List Mark
  /-- hold queues: 8192 × VC + destination (R372) -/
  held : Tbl (List (Nat × FPkt))
  /-- DRAIN packets whose generation both link dies do not yet hold (R383) -/
  drains : List FPkt
  /-- destinations that keep their old port because no mark was free: (destination, port) -/
  oldPorts : List (Nat × Nat)
  pendSt : Nat
  failPort : Nat
  failDest : Nat
  failCause : Nat
  activeValid : Bool
  /-- check in progress: its start and the ports whose report is awaited (R378) -/
  check : Option (Nat × List Nat)
  ownPass : Bool
  /-- neighbours' tables: 8192 × port + 4096 × (0 pending, 1 active) + d, default ABSENT -/
  peerTabs : Tbl Nat
  /-- peer device the active table was checked against, per port, plus 1 (R380) -/
  checkedPeer : Tbl Nat
  passedPeer : Tbl Nat
  restartSent : Bool
  /-- relay at the lead: epoch per seat, credits in use per 64 × seat + context (R386) -/
  epoch : Tbl Nat
  relayed : List Relayed
  purging : List Nat
  /-- time (R388 to R392) -/
  cands : List Cand
  tState : Nat
  parentPort : Nat
  master : Nat
  masterHops : Nat
  syncLost : Bool
  okCount : Nat
  lastSyncUs : Nat
  holdUs : Nat
  /-- exchange in progress: departure time of the request in ps -/
  syncT1 : Option Nat
  trimPpm : Int
  deriving DecidableEq, Repr

/-! Management (chapter 14). -/

/-- A management master (R484): class 0 none, 1 host PF, 2 BMC, 3 FM (`src`, or `port` when
reached by DIRECTED). -/
structure Master where
  cls : Nat
  directed : Bool
  src : Nat
  port : Nat
  deriving DecidableEq, Repr

def Master.none : Master := ⟨0, false, 0, 0⟩
def Master.pf : Master := ⟨1, false, 0, 0⟩
def Master.bmc : Master := ⟨2, false, 0, 0⟩

/-- A management message (R485) and how it arrived: `cmd` is the packet's command on the PF
admin ring, `replyAddr` its reply address, `list` the port list of a DIRECTED packet. -/
structure Msg where
  master : Master
  bytes : List Byte
  cmd : Option Nat
  replyAddr : Nat
  list : List Byte
  deriving DecidableEq, Repr

/-- A rein claim that entered the verify engine (R499): arrival cycle, whether its nonce was current,
and the verdict. -/
structure ReinClaim where
  msg : Msg
  cycle : Nat
  nonceOk : Bool
  verdict : Option Bool
  deriving DecidableEq, Repr

/-- The nonce of a path, by the class of its masters (R498). -/
structure Nonce where
  path : Nat
  val : List Byte
  stride : Nat
  deriving DecidableEq, Repr

/-- An SPDM exchange (R510): 0 nothing, 1 version, 2 capabilities, 3 algorithms negotiated; and the
messages exchanged that a signature covers: of these three steps, of the certificates, and of
measurements. -/
structure Spdm where
  st : Nat
  vca : List Byte
  msgB : List Byte
  msgM : List Byte
  deriving DecidableEq, Repr

structure Groom where
  holder : Master
  engineering : Bool
  keyIdx : Nat
  epoch : Nat
  expiry : Nat
  nonces : List Nonce
  claims : List ReinClaim
  ownerKeys : List (List Byte)
  /-- 0 BOOT, 1 RUNNING, 2 RESTARTING, 3 RECOVERY -/
  st : Nat
  recCause : Nat
  /-- the data path was running when recovery was entered (R507, R514) -/
  recLive : Bool
  vc3q : List Msg
  mctpq : List Msg
  /-- the message being served, and the master tag (R488) -/
  cur : Option Msg
  tag : Master
  kept : List (Master × Nat × List Byte)
  /-- the last MCTP reply sent -/
  mctpOut : List Byte
  staging : Tbl Byte
  flash : Tbl Byte
  /-- flash writes in progress: message, AFLAGS, image (R512) -/
  activating : List (Msg × Nat × Tbl Byte)
  telem : List (List Byte)
  svnFloor : Nat
  vendorHash : BitVec 384
  measurements : List (BitVec 384)
  /-- SPDM exchanges by path, 0 DOE and 1 MCTP; the last answer over MCTP -/
  spdm : Tbl Spdm
  spdmOut : List Byte
  pldmOut : List Byte
  /-- PLDM type 5 flow: 0 idle, 1 requested, 2 image written -/
  pldmSt : Nat
  recWindow : Tbl Byte
  recBusy : Option Nat
  recError : Bool
  /-- forwards that await a reply: enclosing message, tag (R497) -/
  forwards : List (Msg × Nat)
  fwFeature : Nat
  deriving DecidableEq, Repr

/-! Health (chapter 15). Fenceable units are numbered: core g at g, cluster g at 256 + g, gather
engine at 288 + 16 k + e, saddlebag way at 352 + 16 k + w, HBM stack s at 416 + s, DDR5 channel c
at 424 + c, trace port p at 436 + p, update engine 460, compute die k at 461 + k. -/

/-- A health log entry (R523); `ctx` is the context plus 64 when it is valid. -/
structure LogE where
  seq : Nat
  stride : Nat
  cpath : Nat
  cls : Nat
  dom : Nat
  code : Nat
  ctx : Nat
  gen : Nat
  job : Nat
  data : W64
  rep : Nat
  deriving DecidableEq, Repr

/-- A recovery in progress (R525). phase: 3 quiescing, 4 waiting for or taking the dump,
5 ready to reset, 6 resetting, 7 held by `AUTO_RECOVER` = 0. `units` are the hung units. -/
structure Recov where
  id : Nat
  dom : Nat
  unit : Nat
  units : List Nat
  phase : Nat
  stride : Nat
  startUs : Nat
  job : Nat
  cause : Nat
  /-- contexts that its abort held -/
  ctxs : List Nat
  deriving DecidableEq, Repr

/-- A dump record (R534, R538) whose data have been read. -/
structure DumpRec where
  type : Nat
  unreachable : Bool
  ue : Bool
  cpath : Nat
  handle : Nat
  row : Nat
  data : List Byte
  deriving DecidableEq, Repr

/-- A dump being written, or waiting for the engine (R533). trig as in R537; `recov` is the
recovery it belongs to. `dest`: 0 host, 1 DDR5, at `base`, of `cap` bytes. -/
structure DumpRun where
  trig : Nat
  dom : Nat
  cpath : Nat
  job : Nat
  stride : Nat
  startNs : Nat
  recov : Option Nat
  dest : Nat
  base : Nat
  cap : Nat
  ctxs : List Nat
  /-- counters and pending bits at the last check before it was asked for (R534) -/
  hoof : Tbl (Nat × Bool)
  records : List DumpRec
  deriving DecidableEq, Repr

structure Health where
  /-- newest first, at most 4,096 entries -/
  log : List LogE
  nextSeq : Nat
  /-- the flash log, newest first, at most 16,384 entries; the fence records in it -/
  flashLog : List LogE
  flashFences : List Nat
  /-- counter and pending-work bit of each unit at the previous check, by control path -/
  hoof : Tbl (Nat × Bool)
  recovs : List Recov
  /-- units watched after a return (R528): control path, domain, checks left -/
  watch : List (Nat × Nat × Nat)
  dumpQ : List DumpRun
  dumping : Option DumpRun
  dumpSerial : Nat
  /-- fenced units, ascending; fence counters: count and stride of the first event -/
  fenced : List Nat
  fenceCount : Tbl (Nat × Nat)
  /-- fences reached during a recovery (R544) -/
  fencePend : List Nat
  abortSerial : Nat
  lastHang : W64
  hangs : Nat
  abortsOut : Nat
  abortsIn : Nat
  abortsIgnored : Nat
  dumpSkipped : Nat
  nextRecov : Nat
  /-- dies whose tag caps are above their maxima (R32): 0–3 CD_k, 4 UD -/
  outside : List Nat
  deriving DecidableEq, Repr

/-! Power (chapter 16). -/

/-- A rail of the AVSBus (R558), in mV and A; `waiting`: its acknowledge is awaited (R559);
`again`: the request is repeated at the next boundary. -/
structure Rail where
  req : Nat
  ack : Nat
  mv : Nat
  amps : Nat
  waiting : Bool
  again : Bool
  deriving DecidableEq, Repr

/-- `groups`: gate state of cluster g (at g) and way (at 352 + 16 k + w) (R568): 0 on, 1 gate
requested, 2 gated, 3 waking. -/
structure Power where
  gait : Nat
  commanded : Nat
  /-- the pending change: target and commit stride -/
  pending : Option (Nat × Nat)
  phase : Nat
  /-- target of a change in progress -/
  target : Nat
  rails : List Rail
  walkGated : Bool
  /-- a wake event has asked for `RESUME_GAIT` -/
  wake : Bool
  kFast : Nat
  kSlow : Nat
  thermalW : Nat
  instW : Nat
  avgW : Nat
  /-- sum and count of the estimates of this ms, and the means of past ms, newest first -/
  sumW : Nat
  cntW : Nat
  histW : List Nat
  /-- time below 97 % of the peak not yet counted, in estimates of 0.25 µs -/
  below : Nat
  /-- k has been 56 since the last boundary -/
  full : Bool
  /-- arithmetic cycles × 64 not yet counted as stretched -/
  stretchFrac : Nat
  /-- sensor readings plus 1: 64 × die + i, stacks 1024 + s, DIMMs 2048 + c -/
  temps : Tbl Nat
  extThrottle : Bool
  trip : Bool
  groups : Tbl Group
  wakeLevel : Nat
  /-- stretched cycles at the last telemetry record -/
  telemStretch : Nat
  deriving DecidableEq, Repr

/-! Start-up (chapter 17). -/

/-- Straps as sampled (R587): HOST_EN, PCIE_MAX, DDR_SPEED, SPI_QUAD, TEST. -/
structure Straps where
  hostEn : Bool
  pcieMax : Bool
  ddrSpeed : Nat
  spiQuad : Bool
  test : Nat
  deriving DecidableEq, Repr

structure Boot where
  /-- the power-on detectors hold the package in reset -/
  powered : Bool
  perst : Bool
  straps : Straps
  /-- local µs of the reference of R590 -/
  refUs : Nat
  fuses : Bool
  configReady : Bool
  imageOk : Bool
  memTrained : Bool
  selfTest : Bool
  ready : Bool
  fencedAtStart : Bool
  railFault : Bool
  startFail : Bool
  readyMs : Nat
  population : Nat
  /-- device ID assigned by SET_ID (R375) -/
  devId : Nat
  devIdValid : Bool
  featureLevel : Nat
  fwVersion : Nat
  /-- a stack's die has no stack left, or the device CP failed (R592) -/
  cpFailed : Bool
  /-- boundary scan: instruction register, captured cells, cells shifted in, and the value the
  selected data register captured -/
  ir : Nat
  scanCells : BitVec 1774
  scanOut : BitVec 1774
  dr : Nat
  deriving DecidableEq, Repr

/-! The whole state. -/

structure State where
  regs : RegFile
  host : HostIf
  cp : CmdProc
  tim : TimeBase
  sch : Sched
  mem : MemSys
  mov : Movers
  pad : Pads
  core : Cores
  blk : Blocks
  red : Reds
  upd : Update
  fab : Fabric
  grm : Groom
  hlt : Health
  pwr : Power
  boot : Boot
  /-- how many open values have been taken (`Config.freeBits`, assumption log 5): the model's
  own field, not the specification's -/
  free : Nat
  /-- commands that wait, first in, first out -/
  pending : List Instr
  deriving DecidableEq, Repr

/-- Reasons for which a step cannot be taken. -/
inductive Fault where
  /-- Raised by `withUnit`: the command names a unit the device does not have (a core above
  255, a port above 24): no such event can occur. Safe: the machine stops. -/
  | noSuchUnit
  deriving DecidableEq, Repr

/-- Reasons for which a command has no meaning in the model. -/
inductive Refusal where
  /-- An arm of `exec` whose command has no meaning yet. Safe: the machine stops. -/
  | notModelled (mnemonic : String)
  deriving DecidableEq, Repr

abbrev Out := Host.Outcome State Fault Refusal

/-! Reset: the package has just left the power-on detectors; PCIE_PERST_N is asserted and no
start-up step has been taken (R585, R589, R590). -/

def RegFile.reset : RegFile := ⟨[], [], [], [], [], false⟩

def HostIf.reset : HostIf where
  mem := []
  vfEn := 0
  windows := []
  winBusy := []
  tlbInv := []
  msix := []
  msixPend := []
  msixCount := []
  msixLast := none
  atsInv := []
  atsAnswered := 0
  doeOut := []
  linkUp := false
  linkGen6 := false
  vfDevId := 0x4B41#16
  classCode := 0x120000#24

def CmdProc.reset : CmdProc := ⟨[], [], [], [], 0, [], false, [], []⟩

/-- Base stride 0, base time 0, period 1,000 µs (R447). -/
def TimeBase.reset : TimeBase := ⟨0, 0, 0, 1000, 0, 0, false, [], 0⟩

def Sched.reset : Sched := ⟨[], [], [], [], [], [], []⟩
def MemSys.reset : MemSys := ⟨[], [], [], [], [], [], [], [], []⟩
def Movers.reset : Movers := ⟨[], [], [], [], [], 0, 0⟩
def Pads.reset : Pads := ⟨[], [], [], [], [], [], [], [], []⟩
def Cores.reset : Cores := ⟨[], [], [], [], [], [], 0⟩
def Blocks.reset : Blocks := ⟨[], [], [], [], [], [], [], [], [], [], [], [], []⟩
def Reds.reset : Reds := ⟨[], [], [], [], [], [], []⟩
def Update.reset : Update := ⟨[], [], [], none, [], [], [], 0⟩

def Fabric.reset : Fabric where
  ports := []
  rxq := []
  gens := []
  sentTo := []
  marks := []
  held := []
  drains := []
  oldPorts := []
  pendSt := 0
  failPort := 0
  failDest := 0
  failCause := 0
  activeValid := false
  check := none
  ownPass := false
  peerTabs := []
  checkedPeer := []
  passedPeer := []
  restartSent := false
  epoch := []
  relayed := []
  purging := []
  cands := []
  tState := 0
  parentPort := 31
  master := 0
  masterHops := 0
  syncLost := false
  okCount := 0
  lastSyncUs := 0
  holdUs := 0
  syncT1 := none
  trimPpm := 0

def Groom.reset : Groom where
  holder := Master.none
  engineering := false
  keyIdx := 0
  epoch := 0
  expiry := 0
  nonces := []
  claims := []
  ownerKeys := List.replicate 8 (List.replicate 128 0#8)
  st := 0
  recCause := 0
  recLive := false
  vc3q := []
  mctpq := []
  cur := none
  tag := Master.none
  kept := []
  mctpOut := []
  staging := []
  flash := []
  activating := []
  telem := []
  svnFloor := 0
  vendorHash := 0#384
  measurements := []
  spdm := []
  spdmOut := []
  pldmOut := []
  pldmSt := 0
  recWindow := []
  recBusy := none
  recError := false
  forwards := []
  fwFeature := 0

def Health.reset : Health where
  log := []
  nextSeq := 0
  flashLog := []
  flashFences := []
  hoof := []
  recovs := []
  watch := []
  dumpQ := []
  dumping := none
  dumpSerial := 0
  fenced := []
  fenceCount := []
  fencePend := []
  abortSerial := 0
  lastHang := 0#64
  hangs := 0
  abortsOut := 0
  abortsIn := 0
  abortsIgnored := 0
  dumpSkipped := 0
  nextRecov := 0
  outside := []

/-- The thermal limit is 2,600 W after reset (`PWR_THERMAL_W`, R573). -/
def Power.reset : Power where
  gait := 0
  commanded := 0
  pending := none
  phase := 0
  target := 0
  rails := List.replicate 6 ⟨0, 0, 0, 0, false, false⟩
  walkGated := false
  wake := false
  kFast := 0
  kSlow := 0
  thermalW := 2600
  instW := 0
  avgW := 0
  sumW := 0
  cntW := 0
  histW := []
  below := 0
  full := false
  stretchFrac := 0
  temps := []
  extThrottle := false
  trip := false
  groups := []
  wakeLevel := 0
  telemStretch := 0

def Boot.reset : Boot where
  powered := true
  perst := true
  straps := ⟨true, false, 4, true, 0⟩
  refUs := 0
  fuses := false
  configReady := false
  imageOk := false
  memTrained := false
  selfTest := false
  ready := false
  fencedAtStart := false
  railFault := false
  startFail := false
  readyMs := 0
  population := 0
  devId := 0
  devIdValid := false
  featureLevel := 0
  fwVersion := 0
  cpFailed := false
  ir := 0xFF
  scanCells := 0
  scanOut := 0
  dr := 0

def State.reset : State where
  regs := RegFile.reset
  host := HostIf.reset
  cp := CmdProc.reset
  tim := TimeBase.reset
  sch := Sched.reset
  mem := MemSys.reset
  mov := Movers.reset
  pad := Pads.reset
  core := Cores.reset
  blk := Blocks.reset
  red := Reds.reset
  upd := Update.reset
  fab := Fabric.reset
  grm := Groom.reset
  hlt := Health.reset
  pwr := Power.reset
  boot := Boot.reset
  free := 0
  pending := []

end Sys2Proof.Machine
end

