-- ==== Sys2Proof/Machine/Ops.lean ====
section
/-! DEFINITION. The shared operations: one update function per part of the state, registers and
latches, time, the rein, the health log, contexts and accounting, host accesses and interrupts,
and the life of a command from issue to completion. -/
namespace Sys2Proof.Machine

open Sys2Proof

/-! One update function per part of the state. -/

def State.onRegs (f : RegFile → RegFile) (s : State) : State := { s with regs := f s.regs }
def State.onHost (f : HostIf → HostIf) (s : State) : State := { s with host := f s.host }
def State.onCp (f : CmdProc → CmdProc) (s : State) : State := { s with cp := f s.cp }
def State.onTim (f : TimeBase → TimeBase) (s : State) : State := { s with tim := f s.tim }
def State.onSch (f : Sched → Sched) (s : State) : State := { s with sch := f s.sch }
def State.onMem (f : MemSys → MemSys) (s : State) : State := { s with mem := f s.mem }
def State.onMov (f : Movers → Movers) (s : State) : State := { s with mov := f s.mov }
def State.onPad (f : Pads → Pads) (s : State) : State := { s with pad := f s.pad }
def State.onCore (f : Cores → Cores) (s : State) : State := { s with core := f s.core }
def State.onBlk (f : Blocks → Blocks) (s : State) : State := { s with blk := f s.blk }
def State.onRed (f : Reds → Reds) (s : State) : State := { s with red := f s.red }
def State.onUpd (f : Update → Update) (s : State) : State := { s with upd := f s.upd }
def State.onFab (f : Fabric → Fabric) (s : State) : State := { s with fab := f s.fab }
def State.onGrm (f : Groom → Groom) (s : State) : State := { s with grm := f s.grm }
def State.onHlt (f : Health → Health) (s : State) : State := { s with hlt := f s.hlt }
def State.onPwr (f : Power → Power) (s : State) : State := { s with pwr := f s.pwr }
def State.onBoot (f : Boot → Boot) (s : State) : State := { s with boot := f s.boot }

/-- A command that names a unit the device does not have is a fault (it cannot occur); every
other path of every meaning answers a next state. -/
def withUnit (ok : Bool) (s : State) : Out := if ok then .next s else .fault .noSuchUnit

/-- Apply `f` only where `c` holds: a step whose conditions do not hold changes nothing
(assumption log 3). -/
def State.when (c : Bool) (f : State → State) (s : State) : State := if c then f s else s

/-- The always-on block and the Groom run: powered, out of reset, straps in order (R567, R585, R587,
R589). -/
def aon (s : State) : Bool := s.boot.powered && !s.boot.perst && s.boot.straps.test == 0

/-- The package runs: no thermal trip has stopped its clocks (R567). -/
def alive (s : State) : Bool := aon s && !s.pwr.trip

/-- Die `d` (0–3 CD_k, 4 UD, 5 LD_0, 6 LD_1) is clocked: no die but the always-on block in Halt,
and neither compute dies nor UD once Walk has gated them (R551, R555, R556). -/
def dieRuns (s : State) (d : Nat) : Bool :=
  alive s && s.pwr.gait != 4 && (decide (5 ≤ d) || !s.pwr.walkGated)

/-- A step of a unit on die `d`: a fault where no such unit exists, nothing while the die is not
clocked. -/
def unitStep (ok : Bool) (d : Nat) (s : State) (f : State → State) : Out :=
  withUnit ok (if dieRuns s d then f s else s)

/-- The next open value (assumption log 5) and the state after it is taken. -/
def takeFree (s : State) : W64 × State := (Config.freeBits s.free, { s with free := s.free + 1 })

/-! Registers. -/

def State.reg (s : State) (a : Nat) : Nat := ((Tbl.get? s.regs.vals a).getD (regReset a)).toNat

def State.setReg (s : State) (a v : Nat) : State :=
  s.onRegs fun r => { r with
    vals := if BitVec.ofNat 64 v = regReset a then Tbl.erase r.vals a
            else Tbl.insert r.vals a (BitVec.ofNat 64 v) }

/-- A field of a register. -/
def State.fld (s : State) (a lo w : Nat) : Nat := bits (s.reg a) lo w

/-- A 32-bit counter, which stops at its maximum. -/
def State.count32 (s : State) (a n : Nat) : State := s.setReg a (satAdd 32 (s.reg a) n)

/-- A 64-bit counter. -/
def State.count64 (s : State) (a n : Nat) : State := s.setReg a ((s.reg a + n) % 2 ^ 64)

/-- Set a bit of a latch register; a write of 1 in the same cycle does not clear it (R13). -/
def State.latch (s : State) (a b : Nat) : State := s.setReg a (setBit (s.reg a) b true)

def State.nowUs (s : State) : Nat := s.tim.localUs
def State.nowStride (s : State) : Nat := s.tim.count

/-- Function `fn` writes the whole of register `a`: its read shadow lasts only if it is of the same
register (R15), and what it holds for writing is discarded (R16). -/
def touchReg (s : State) (fn a : Nat) : State :=
  s.onRegs fun r => { r with
    rdShadow := if (Tbl.get none r.rdShadow fn).any (fun h => h.start == a) then r.rdShadow
                else Tbl.erase r.rdShadow fn
    wrShadow := Tbl.erase r.wrShadow fn }

/-- A doorbell register as a key of its own, past every BAR0 address. -/
def doorbellKey (n off : Nat) : Nat := 2 ^ 40 + 4096 * n + off

/-! The rein (R11, R498). -/

/-- The master that the state of the rein names holds it. -/
def holdsRein (s : State) (m : Master) : Bool := s.grm.holder.cls != 0 && s.grm.holder = m

/-- The lease is frozen while the Groom does not run (R501). -/
def leaseFrozen (s : State) : Bool := s.grm.holder.cls != 0 && s.grm.st != 1

/-! Units, dies and control paths (R489, R490). -/

def coreDie (c : Nat) : Nat := c / 64
def coreCluster (c : Nat) : Nat := c / 8
def clusterDie (g : Nat) : Nat := g / 8

/-- Control path of unit `u` of core `c`. -/
def coreCpath (c u : Nat) : Nat := (c / 64) * 0x2000 + (c / 8 % 8) * 0x200 + 16 * (c % 8) + u
def dieCpath (d x : Nat) : Nat := d * 0x2000 + 0x1000 + x
def clusterRedCpath (g : Nat) : Nat := (g / 8) * 0x2000 + (g % 8) * 0x200 + 0x1F0
def portCpath (p : Nat) : Nat := (5 + p / 12) * 0x2000 + 0x1000 + p % 12
def portRedCpath (p : Nat) : Nat := portCpath p + 0x40
def dcpCpath : Nat := 5 * 0x2000 + 0x1000 + 0x20
def groomCpath : Nat := 0xFFFF

/-! Contexts and paddocks. -/

def State.ctx (s : State) (x : Nat) : Ctx := Tbl.get Ctx.empty s.sch.ctxs x
def State.gen (s : State) (x : Nat) : Nat := Tbl.get 0 s.sch.gens x
def State.pdk (s : State) (p : Nat) : Pdk := Tbl.get Pdk.empty s.sch.pdks p

def State.updCtx (s : State) (x : Nat) (f : Ctx → Ctx) : State :=
  s.onSch fun c => { c with ctxs := Tbl.upd Ctx.empty c.ctxs x f }
def State.updPdk (s : State) (p : Nat) (f : Pdk → Pdk) : State :=
  s.onSch fun c => { c with pdks := Tbl.upd Pdk.empty c.pdks p f }

/-- The context that job `j` is bound to on this device. -/
def ctxOfJob (s : State) (j : Nat) : Option Nat :=
  if j = 0 then none else ((s.sch.ctxs.filter fun p => p.2.live && p.2.job == j).head?).map (·.1)

/-- What a context's paddock holds: from the boundary at which a `PADDOCK_SET` takes effect, its new
resources (R454). -/
def ctxRes (s : State) (x : Nat) : PdkSet :=
  let p := s.pdk (s.ctx x).pdk
  match p.change with
  | some (_, r, true) => r
  | _ => p.res
def pdkCores (r : PdkSet) : List Nat :=
  (bitsOf r.clusters 32).flatMap fun g => (List.range 8).map fun i => 8 * g + i
def ctxOwnsCore (s : State) (x c : Nat) : Bool := bit (ctxRes s x).clusters (coreCluster c)

/-- The home die of a context's scale table: the lowest die on which its paddock holds a
cluster (R55). -/
def homeDie (s : State) (x : Nat) : Nat :=
  ((bitsOf (ctxRes s x).clusters 32).head?.getD 0) / 8

/-! Accounting (R475). -/

def accCtx (x i : Nat) : Nat := 16 * x + i
def accPdk (p i : Nat) : Nat := 16 * (64 + p) + i
def accDev : Nat := 16 * 80
def accUnattrib : Nat := 16 * 80 + 1

def State.accAdd (s : State) (k n : Nat) : State :=
  s.onSch fun c => { c with acc := Tbl.upd 0 c.acc k (fun v => (v + n) % 2 ^ 64) }

/-- Add to a context's counter and to the same counter of its paddock. -/
def State.charge (s : State) (x i n : Nat) : State :=
  if (s.ctx x).live then (s.accAdd (accCtx x i) n).accAdd (accPdk (s.ctx x).pdk i) n else s

def acHeld : Nat := 0
def acOps : Nat := 1
def acHbm : Nat := 2
def acDdr : Nat := 3
def acFabric : Nat := 4
def acHost : Nat := 5
def acEnergy : Nat := 6
def acOverrun : Nat := 7
def acSwitch : Nat := 8
def acCommands : Nat := 9
def acDebit : Nat := 10
def acIdle : Nat := 11
def acElapsed : Nat := 12

/-! Energy (R476). A power sensor reads the energy of one source since its last reading: cluster g is
source g, stack or channel u is 32 + u, the update engine 52, the rest of die d 53 + d, and all else
from 60 on. -/

def srcUpdate : Nat := 52

/-- Array cycles at a cluster, or bytes at a stack or channel, of a context since the last reading. -/
def addShare (s : State) (src x n : Nat) : State :=
  s.onSch fun c => { c with shares := Tbl.upd 0 c.shares (64 * src + x) (· + n) }

/-- Add µJ to a counter of mJ; the remainder is carried. Answers the whole mJ added. -/
def addUj (s : State) (k n : Nat) : State × Nat :=
  let t := Tbl.get 0 s.sch.accFrac k + n
  ((s.onSch fun c => { c with accFrac := Tbl.insert c.accFrac k (t % 1000) }).accAdd k (t / 1000), t / 1000)

/-- Energy of a paddock, or of none. The device's energy is the sum of what these take. -/
def pdkUj (s : State) (p : Option Nat) (n : Nat) : State :=
  let (s, mj) := addUj s (p.elim accUnattrib fun p => accPdk p acEnergy) n
  s.accAdd accDev mj

def ctxUj (s : State) (x n : Nat) : State :=
  pdkUj (addUj s (accCtx x acEnergy) n).1 (some (s.ctx x).pdk) n

/-- Divide n in proportion to weights: the part up to each is rounded down. -/
def divideUj (n : Nat) (ws : List (Nat × Nat)) : List (Nat × Nat) :=
  let tot := sumNat (ws.map (·.2))
  (ws.foldl (fun (a : Nat × List (Nat × Nat)) w =>
    let t := a.1 + w.2
    (t, a.2 ++ [(w.1, n * t / tot - n * a.1 / tot)])) (0, [])).2

/-- The contexts a source worked for, with their weights. A cluster without array cycles works for the
contexts whose commands run there. -/
def energyUsers (s : State) (src : Nat) : List (Nat × Nat) :=
  let l := (s.sch.shares.filterMap fun e =>
    if e.1 / 64 = src && e.2 != 0 && (s.ctx (e.1 % 64)).live then some (e.1 % 64, e.2) else none)
  if !l.isEmpty then l
  else if src < 32 then
    (dedupNat ((s.cp.cmds.filter fun c => !c.ended && bit c.clusters src).map (·.ctx))).map fun x => (x, 1)
  else if src = srcUpdate then
    match s.upd.running.bind fun i => s.upd.tasks.find? (·.id == i) with
    | some t => [(t.ctx, 1)]
    | none => []
  else []

/-- What a paddock holds now (R454). -/
def pdkNow (d : Pdk) : PdkSet :=
  match d.change with
  | some (_, r, true) => r
  | _ => d.res

/-- The paddock that holds a cluster or a DDR5 channel. -/
def sourcePdk (s : State) (src : Nat) : Option Nat :=
  (List.range 16).find? fun p =>
    if src < 32 then bit (pdkNow (s.pdk p)).clusters src
    else decide (40 ≤ src) && decide (src < 52) && bit (pdkNow (s.pdk p)).channels (src - 40)

/-- A sensor's reading is divided. -/
def energyRead (s : State) (src n : Nat) : State :=
  let us := energyUsers s src
  let s := s.onSch fun c => { c with shares := c.shares.filter fun e => e.1 / 64 != src }
  let s := if us.isEmpty then pdkUj s (sourcePdk s src) n
    else (divideUj n us).foldl (fun s e => ctxUj s e.1 e.2) s
  let die := if src < 32 then some (src / 8) else if src = srcUpdate then some 4
    else if 53 ≤ src && src < 60 then some (src - 53) else none
  match die with
  | some d =>
    let (s, mj) := addUj s (16 * 81 + d) n
    s.count64 (diePowerBlk d + 0x10) mj
  | none => s

/-! The health log (R522 to R524). -/

def clsConfig : Nat := 0
def clsCorrected : Nat := 1
def clsUe : Nat := 2
def clsFault : Nat := 3
def clsLink : Nat := 4
def clsHang : Nat := 5
def clsAbort : Nat := 6
def clsReset : Nat := 7
def clsFence : Nat := 8
def clsDump : Nat := 9
def clsAlias : Nat := 10

def logPersistent (cls code cpath : Nat) : Bool :=
  cls == clsConfig || cls == clsUe || cls == clsFault || cls == clsHang || cls == clsReset
    || cls == clsFence || (cls == clsLink && (code == 3 || cpath / 0x2000 == 4))

/-- An entry of the same unit and class written in the same stride takes the event as a
repeat (R524). -/
def mergeLog (e : LogE) : List LogE → Option (List LogE)
  | [] => none
  | a :: t =>
    if a.stride = e.stride && a.cpath == e.cpath && a.cls == e.cls then
      some ({ a with rep := satAdd 16 a.rep 1 } :: t)
    else (mergeLog e t).map (a :: ·)

/-- Write a health event. -/
def logEvent (s : State) (cls code cpath : Nat) (ctx : Option Nat) (data : Nat) (dom : Nat := 0) :
    State :=
  let e : LogE := {
    seq := s.hlt.nextSeq, stride := s.nowStride, cpath := cpath, cls := cls, dom := dom,
    code := code, ctx := ctx.elim 0 (· + 64), gen := ctx.elim 0 s.gen,
    job := ctx.elim 0 (fun x => (s.ctx x).job), data := BitVec.ofNat 64 data, rep := 0 }
  s.onHlt fun h =>
    match mergeLog e h.log with
    | some l => { h with
        log := l
        flashLog := if logPersistent cls code cpath then (mergeLog e h.flashLog).getD h.flashLog
                    else h.flashLog }
    | none => { h with
        log := (e :: h.log).take 4096
        nextSeq := h.nextSeq + 1
        flashLog := if logPersistent cls code cpath then (e :: h.flashLog).take 16384
                    else h.flashLog }

/-! Hoofbeat counters (R518), by control path. -/

/-- The register in which a unit's hoofbeat counter reads (R108, R251, R280, R320, R356, R397,
R481, R547). -/
def beatReg (cpath : Nat) : Option Nat :=
  let d := cpath / 0x2000
  let g := cpath / 0x200 % 16
  let u := cpath % 0x200
  if d < 4 && g < 8 then
    if u < 0x80 then
      if u % 16 = 6 then some (dmaBlk d + 0x200 + 8 * (8 * g + u / 16))
      else some (coreBlk (64 * d + 8 * g + u / 16) + 0x18)
    else if u = 0x1F0 then some (redClusterBlk (8 * d + g) + 0x18) else none
  else if d < 4 && g = 8 then
    if u = 0 || u = 0x30 then some (dieSchedBlk d + 0x8)
    else if 0x10 ≤ u && u < 0x20 then some (dmaBlk d + 0x440 + 8 * (u - 0x10))
    else if u = 0x28 || u = 0x29 then some (hbmBlk d + 0x40 + 8 * (u - 0x28)) else none
  else if d = 4 && g = 8 then
    if u = 0 then some (updBlk + 0x18)
    else if 0x10 ≤ u && u < 0x1C then some (ddrBlk + 0x100 + 8 * (u - 0x10)) else none
  else if (d = 5 || d = 6) && g = 8 then
    if u < 12 then some (linkBlk (12 * (d - 5) + u) + 0x48)
    else if 0x40 ≤ u && u < 0x4C then some (redPortBlk (12 * (d - 5) + u - 0x40) + 0x18)
    else if d = 5 && u = 0x20 then some (healthBlk + 0x48) else none
  else none

def State.beat (s : State) (cpath : Nat) : State :=
  match beatReg cpath with
  | some a => s.count64 a 1
  | none => s

/-- The device CP fetches, relays or completes a packet (R518). -/
def dcpBeat (s : State) : State := s.beat dcpCpath

/-! Fences (R543 to R545). -/

def fuCluster (g : Nat) : Nat := 256 + g
def fuGather (k e : Nat) : Nat := 288 + 16 * k + e
def fuWay (k w : Nat) : Nat := 352 + 16 * k + w
def fuStack (t : Nat) : Nat := 416 + t
def fuChannel (c : Nat) : Nat := 424 + c
def fuPort (p : Nat) : Nat := 436 + p
def fuUpdate : Nat := 460
def fuDie (k : Nat) : Nat := 461 + k

def fenced (s : State) (u : Nat) : Bool := s.hlt.fenced.contains u

/-- The control path of a fenceable unit. -/
def fuCpath (u : Nat) : Nat :=
  if u < 256 then coreCpath u 5
  else if u < 288 then clusterRedCpath (u - 256)
  else if u < 352 then dieCpath ((u - 288) / 16) (0x10 + (u - 288) % 16)
  else if u < 416 then dieCpath ((u - 352) / 16) 0x20
  else if u < 424 then dieCpath ((u - 416) / 2) (0x28 + (u - 416) % 2)
  else if u < 436 then dieCpath 4 (0x10 + (u - 424))
  else if u < 460 then portCpath (u - 436)
  else if u = 460 then dieCpath 4 0
  else (u - 461) * 0x2000 + 0x1FFF

/-- The units a fence of `u` fences with it (R543): a cluster its cores; a compute die every
cluster, gather engine, way and stack. -/
def fuMembers (u : Nat) : List Nat :=
  if 256 ≤ u && u < 288 then u :: (List.range 8).map (fun i => 8 * (u - 256) + i)
  else if 461 ≤ u && u < 465 then
    let k := u - 461
    u :: ((List.range 64).map (fun i => 64 * k + i) ++ (List.range 8).map (fun q => fuCluster (8 * k + q))
      ++ (List.range 16).map (fuGather k) ++ (List.range 16).map (fuWay k)
      ++ [fuStack (2 * k), fuStack (2 * k + 1)])
  else [u]

/-- Set or clear the fence of one unit, with its mirror in `CORE_CTL` (R109), the population
bit of a stack or channel, and the state of a port (R543). -/
def fenceOne (on : Bool) (s : State) (u : Nat) : State :=
  let s := s.onHlt fun h => { h with
    fenced := if on then insertAsc u h.fenced else h.fenced.filter (· != u)
    fenceCount := Tbl.erase h.fenceCount u }
  if u < 256 then
    s.setReg (coreBlk u) (setBit (s.reg (coreBlk u)) 1 on)
  else if on && 416 ≤ u && u < 424 then
    s.onBoot fun b => { b with population := setBit b.population (12 + (u - 416)) false }
  else if on && 424 ≤ u && u < 436 then
    s.onBoot fun b => { b with population := setBit b.population (u - 424) false }
  else if on && 436 ≤ u && u < 460 then
    s.onFab fun f => { f with ports := Tbl.upd Port.down f.ports (u - 436) (fun p => { p with st := 0 }) }
  else s

/-- Fence a unit (R544), with a log entry; the Groom records it in the flash log (R545). -/
def setFence (s : State) (u : Nat) : State :=
  let s := (fuMembers u).foldl (fenceOne true) s
  let s := s.onHlt fun h => { h with flashFences := insertAsc u h.flashFences }
  logEvent s clsFence 1 (fuCpath u) none u

/-- Clear a unit's fence (R545). -/
def clearFence (s : State) (u : Nat) : State :=
  let s := fenceOne false s u
  let s := s.onHlt fun h => { h with flashFences := h.flashFences.filter (· != u) }
  logEvent s clsFence 0 (fuCpath u) none u

/-- The domain of R526 that holds a fenceable unit: 0 core, 1 cluster, 2 compute die, 3 update
die, 4 trace port; and the instance within its kind. -/
def fuDomain (u : Nat) : Nat × Nat :=
  if u < 256 then (0, u)
  else if u < 288 then (1, u - 256)
  else if u < 416 then (2, if u < 352 then (u - 288) / 16 else (u - 352) / 16)
  else if u < 424 then (2, (u - 416) / 2)
  else if u < 436 then (3, 0)
  else if u < 460 then (4, u - 436)
  else if u = 460 then (3, 0)
  else (2, u - 461)

/-- The instance of domain code `dom` that holds the unit at control path `c`. -/
def domInst (dom c : Nat) : Nat :=
  let d := c / 0x2000
  let g := c / 0x200 % 16
  let u := c % 0x200
  if dom = 0 then 64 * d + 8 * g + u / 16
  else if dom = 1 then 8 * d + g
  else if dom = 2 then d
  else if dom = 4 then 12 * (d - 5) + (if 0x40 ≤ u then u - 0x40 else u)
  else if dom = 5 then d
  else 0

/-- Domain `(d1, i1)` contains `(d2, i2)` (R526, R528). -/
def domContains (d1 i1 d2 i2 : Nat) : Bool :=
  if d1 = 6 then true
  else if d1 = d2 then i1 == i2
  else if d1 = 1 then d2 == 0 && i2 / 8 == i1
  else if d1 = 2 then (d2 == 0 && i2 / 64 == i1) || (d2 == 1 && i2 / 8 == i1)
  else if d1 = 5 then d2 == 4 && i2 / 12 + 5 == i1
  else false

/-- A unit of a domain that is in recovery. -/
def inRecovery (s : State) (dom inst : Nat) : Bool :=
  s.hlt.recovs.any fun r => domContains r.dom (domInst r.dom r.unit) dom inst

/-- A unit of a domain that is being reset. -/
def resetting (s : State) (dom inst : Nat) : Bool :=
  s.hlt.recovs.any fun r => r.phase == 6 && domContains r.dom (domInst r.dom r.unit) dom inst

/-- One event toward a unit's fence (R543, R544). -/
def fenceEvent (s : State) (u : Nat) : State :=
  let (n, first) := Tbl.get (0, 0) s.hlt.fenceCount u
  let first := if n = 0 then s.nowStride else first
  let s := s.onHlt fun h => { h with fenceCount := Tbl.insert h.fenceCount u (n + 1, first) }
  let limit := s.fld (healthBlk + 0x8) 0 4
  if limit ≠ 0 && limit ≤ n + 1 && !fenced s u then
    let (d, i) := fuDomain u
    if inRecovery s d i then s.onHlt fun h => { h with fencePend := insertAsc u h.fencePend }
    else setFence s u
  else s

/-! Host accesses (R439, R440) and interrupts (R421). -/

/-- Window n of function f grants an access of `len` bytes at `a`. -/
def windowGrants (w : W128) (a len : Nat) (write : Bool) : Bool :=
  let n := w.toNat
  let base := bits n 12 52 * 4096
  let size := bits n 64 40 * 4096
  decide (size ≠ 0) && decide (base ≤ a) && decide (a + len ≤ base + size)
    && bit n (if write then 105 else 104)

def hostOk (s : State) (f a len : Nat) (write : Bool) : Bool :=
  (List.range 16).any fun n => windowGrants (Tbl.get 0#128 s.host.windows (16 * f + n)) a len write

def hostRead (s : State) (a len : Nat) : List Byte := memReadN s.host.mem a len
def hostWrite (s : State) (a : Nat) (d : List Byte) : State :=
  s.onHost fun h => { h with mem := memWriteN h.mem a d }

def State.vfEnabled (s : State) (f : Nat) : Bool := f == 0 || bit s.host.vfEn f

/-- Send the message of vector v of function f (the MSI-X table entry's address and data). -/
def sendVector (s : State) (f v : Nat) : State :=
  let k := 2 * (256 * f + v)
  s.onHost fun h => { h with
    msixPend := Tbl.erase h.msixPend (256 * f + v)
    msixCount := Tbl.upd 0 h.msixCount (256 * f + v) (· + 1)
    msixLast := some ((Tbl.get 0#64 h.msix k).toNat, bits (Tbl.get 0#64 h.msix (k + 1)).toNat 0 32) }

/-- Signal a vector: a masked vector sets its pending bit and sends nothing (R421). -/
def signalVector (s : State) (f v : Nat) : State :=
  if bit (Tbl.get 0#64 s.host.msix (2 * (256 * f + v) + 1)).toNat 32 then
    s.onHost fun h => { h with msixPend := Tbl.insert h.msixPend (256 * f + v) true }
  else sendVector s f v

/-! Rings (R404 to R410). Queue numbers: context ring x at x, admin ring of function f at
64 + f, relay queues at 128 + x and 192 + f. -/

def State.ring (s : State) (q : Nat) : Ring := Tbl.get Ring.empty s.cp.rings q
def State.updRing (s : State) (q : Nat) (f : Ring → Ring) : State :=
  s.onCp fun c => { c with rings := Tbl.upd Ring.empty c.rings q f }

/-- The function to which a ring belongs (R403): a context's function, the PF for a context
that does not exist, and the function itself for an admin ring. -/
def ringFn (s : State) (q : Nat) : Nat :=
  let r := q % 128
  if r < 64 then (if (s.ctx r).live then (s.ctx r).fn else 0) else r - 64

def isContextQueue (q : Nat) : Bool := decide (q % 128 < 64)
def isRelayQueue (q : Nat) : Bool := decide (128 ≤ q)

def sqSize (r : Ring) : Nat := 2 ^ bits r.ctl 8 5
def cqSize (r : Ring) : Nat := 2 ^ bits r.ctl 16 5
def ringVector (r : Ring) : Nat := bits r.ctl 24 8

/-- A ring error (R410): fetching stops, the cause is kept, the ring's vector is signalled. -/
def ringError (s : State) (q cause : Nat) : State :=
  let s := s.updRing q fun r => { r with err := true, errCause := cause }
  signalVector s (ringFn s q) (ringVector (s.ring q))

/-! Packets and commands. -/

def Packet.op (p : Packet) : Nat := fieldLE p.bytes 0 1
def Packet.plen (p : Packet) : Nat := fieldLE p.bytes 1 1
def Packet.hflags (p : Packet) : Nat := fieldLE p.bytes 2 2
def Packet.dest (p : Packet) : Nat := fieldLE p.bytes 4 2
def Packet.ctx (p : Packet) : Nat := fieldLE p.bytes 6 1
def Packet.gen (p : Packet) : Nat := fieldLE p.bytes 7 1
def Packet.serial (p : Packet) : Nat := fieldLE p.bytes 8 4
def Packet.budget (p : Packet) : Nat := fieldLE p.bytes 12 4
/-- The parameters that follow the header. -/
def Packet.params (p : Packet) : List Byte := p.bytes.drop 64
def Packet.par (p : Packet) (off len : Nat) : Nat := fieldLE p.bytes (64 + off) len
def Packet.hdr (p : Packet) (off len : Nat) : Nat := fieldLE p.bytes off len

def stOk : Nat := 0x00
def stFrozen : Nat := 0x01
def stDemoted : Nat := 0x02
def stOverrun : Nat := 0x03
def stDegraded : Nat := 0x04
def stStepMismatch : Nat := 0x10
def stNonfinite : Nat := 0x11
def stVersionHeld : Nat := 0x12
def stResidue : Nat := 0x13
def stStale : Nat := 0x14
def stLevel : Nat := 0x15
def stTimeout : Nat := 0x16
def stAborted : Nat := 0x17
def stHung : Nat := 0x18
def stFenced : Nat := 0x19
def stWindow : Nat := 0x1A
def stOverlap : Nat := 0x1B
def stNotOwner : Nat := 0x1C
def stBadOpcode : Nat := 0x1D
def stBadParam : Nat := 0x1E

/-- The device's own ID, when it is valid. -/
def State.devId (s : State) : Nat := s.boot.devId

/-- Form the completion of a packet that ends without running (R413, R419). -/
def refusalCpl (s : State) (p : Packet) (st csw : Nat) : Cpl where
  serial := p.serial
  status := st
  op := p.op
  ctx := bits p.ctx 0 6
  gen := p.gen
  ovf := 0
  csw := csw
  runUs := 0
  overrunUs := 0
  src := s.devId
  noIrq := bit p.hflags 2
  lead := p.lead
  fn := p.fn

/-- The entry of a packet that completes is formed (R31, R518). -/
def State.addCpl (s : State) (q : Nat) (c : Cpl) : State :=
  (dcpBeat s).onCp fun p => { p with
    done := Tbl.upd [] p.done q (· ++ [c])
    doneOrder := p.doneOrder ++ [q] }

def State.waitingOf (s : State) (q : Nat) : List Packet := Tbl.get [] s.cp.waiting q
def State.headPkt (s : State) (q : Nat) : Option Packet := (s.waitingOf q).head?
def State.popPkt (s : State) (q : Nat) : State :=
  s.onCp fun c => { c with waiting := Tbl.upd [] c.waiting q (·.drop 1) }

/-- The packet at the head of queue `q` completes without issuing. -/
def refuseAtIssue (s : State) (q : Nat) (p : Packet) (st : Nat) : State :=
  (s.popPkt q).addCpl q (refusalCpl s p st 0)

def State.cmd? (s : State) (id : Nat) : Option Cmd := s.cp.cmds.find? (·.id == id)
def State.updCmd (s : State) (id : Nat) (f : Cmd → Cmd) : State :=
  s.onCp fun c => { c with cmds := c.cmds.map fun k => if k.id == id then f k else k }

/-- Commands issued from queue q that have not completed. -/
def runningOf (s : State) (q : Nat) : List Cmd := s.cp.cmds.filter (·.pkt.q == q)
/-- Every earlier command of the ring of queue q has completed, a relayed one with its entry (R418, R424,
R425). -/
def ringClear (s : State) (q : Nat) : Bool := (runningOf s q).isEmpty && !(s.fab.relayed.any (·.q == q))
def runningInCtx (s : State) (x : Nat) : List Cmd :=
  s.cp.cmds.filter fun c => isContextQueue c.pkt.q && c.ctx == x

/-- Raise a command's status: the highest code is reported (R437). -/
def State.raise (s : State) (id st : Nat) : State :=
  s.updCmd id fun c => { c with status := max c.status st }

/-! Time slicing (R463 to R467). -/

/-- Local µs that remain before fabric time `ns`. -/
def usUntil (s : State) (ns : Nat) : Nat := (ns - s.tim.fabricNs) / 1000

/-- A run's length in µs. -/
def runLenUs (s : State) (r : Run) : Nat := (r.endStride - r.startStride) * s.tim.period

/-- Fabric time of stride boundary n under the active values (R447). -/
def boundaryNs (s : State) (n : Nat) : Nat :=
  s.tim.baseNs + (n - s.tim.baseStride) * s.tim.period * 1000

/-- The context may issue a command of budget `b` now (R464 to R466): in open mode always;
with a table, past the issue point of its run, within the fit rule. -/
def slotAllows (s : State) (x b : Nat) : Bool :=
  let p := s.pdk (s.ctx x).pdk
  if !p.loaded then (s.ctx x).resident
  else match p.run with
    | none => false
    | some r =>
      r.ctx == x && r.switched
        && decide (r.startNs + r.debitUs * 1000 ≤ s.tim.fabricNs)
        && (decide (b ≤ usUntil s (boundaryNs s r.endStride))
            || (decide (runLenUs s r < b) && !r.issuedAny))

/-- Where the run of a context ends, as a stride and a fabric time (none in open mode). -/
def runEndOf (s : State) (x : Nat) : Option (Nat × Nat) :=
  let p := s.pdk (s.ctx x).pdk
  if p.loaded then p.run.map fun r => (r.endStride, boundaryNs s r.endStride) else none

/-- The completion ring is full (R31, R408). -/
def cqFull (s : State) (q : Nat) : Bool :=
  let r := s.ring q
  decide (cqSize r ≤ (r.cqTail + 2 ^ 32 - r.cqHead) % 2 ^ 32)

/-- The general conditions of issue for the packet at the head of queue `q` (R31, R415 to R418,
R469, R471, R473, R531, R555): everything but what the opcode itself waits for. A context whose saved
state is not yet all restored waits (assumption log 26). -/
def mayIssue (s : State) (q : Nat) (p : Packet) : Bool :=
  !inRecovery s 6 0 && (!bit p.hflags 1 || ringClear s q) && !cqFull s q &&
  (if isContextQueue q then
      let x := q % 64
      (s.ctx x).live && (s.ctx x).down.isNone && !(s.ctx x).held && slotAllows s x p.budget
        && (Tbl.get [] s.sch.savedHandles x).isEmpty && !(s.blk.stored.any fun t => t.ctx == x && t.away)
        && decide (s.pwr.gait < 3) && !(s.pwr.phase == 2)
   else (s.cp.cmds.filter fun c => !isContextQueue c.pkt.q && c.pkt.fn == p.fn).isEmpty)

/-- Every die of the set may issue (R481). -/
def diesIssue (s : State) (dies : List Nat) : Bool :=
  dies.all fun k => decide (k ≥ 4) || bit (s.reg (dieSchedBlk k)) 0



/-- The command record of a packet that issues, and the state with the packet taken. -/
def newCmd (s : State) (q : Nat) (p : Packet) : Cmd where
  id := s.cp.nextCmd
  pkt := p
  op := p.op
  ctx := if isContextQueue q then q % 64 else bits p.ctx 0 6
  gen := p.gen
  serial := p.serial
  pdk := if isContextQueue q then (s.ctx (q % 64)).pdk else 0
  issueUs := s.nowUs
  runEnd := if isContextQueue q then runEndOf s (q % 64) else none
  status := 0
  csw := 0
  ended := false
  overrun := false
  ovfSat := 0
  ovfNonfin := 0
  slots := []
  exps := []
  seed := (s.ctx (q % 64)).seed
  draws := []
  clusters := 0
  refs := []
  outs := []
  ins := []
  batched := false
  pushOver := []

/-- Issue: the packet leaves its queue and its command runs; die CPs count the issue (R481). -/
def issue (s : State) (q : Nat) (p : Packet) (dies : List Nat) : State × Nat :=
  let c := newCmd s q p
  let s := (s.popPkt q).onCp fun k => { k with cmds := k.cmds ++ [c], nextCmd := k.nextCmd + 1 }
  let s := dies.foldl (fun s k => if k < 4 then s.beat (dieCpath k 0) else s) s
  let s := if isContextQueue q then
      s.updPdk c.pdk fun d => { d with run := d.run.map fun r => { r with issuedAny := true } }
    else s
  (s, c.id)

/-- The packet is for a seat of this lead's hitch: it is relayed, not executed (R385, R413). -/
def forSeat (s : State) (p : Packet) : Bool :=
  !bit p.hflags 3 && p.lead.isNone && decide (p.dest % 4096 ≠ s.devId)

/-- Lift a meaning of an Ifeano packet to its row: it acts on the packet at the head of queue
`q` when that packet has the row's opcode and may issue. -/
def onHead (op : Nat) (q : Nat) (s : State) (f : Packet → State → State) : Out :=
  withUnit (decide (q < 256)) <|
    match s.headPkt q with
    | some p => if p.op = op && !forSeat s p && dieRuns s 5 && mayIssue s q p then f p s else s
    | none => s

end Sys2Proof.Machine
end

