-- ==== Sys2Proof/Machine/Startup.lean ====
section
/-! DEFINITION. Start-up and boundary scan (chapter 17), and the boot ROM's check of an image
(R504 to R509). The memory-training step is in Machine/Memory.lean. -/
namespace Sys2Proof.Machine

open Sys2Proof

/-! Package reset (R585, R589, R593). -/

def strapsOf (v : Nat) : Straps :=
  ⟨bit v 0, bit v 1, bits v 2 3, bit v 5, bits v 6 2⟩

/-- A package reset clears everything but what lies outside the reset state: the flash, the
fuses, the pins, the host's memory and the boundary-scan cells. The queue is the sender's. -/
def packageReset (s : State) (powered perst : Bool) (straps : Straps) : State :=
  { State.reset with
    host := { HostIf.reset with mem := s.host.mem }
    grm := { Groom.reset with
      flash := s.grm.flash, svnFloor := s.grm.svnFloor, vendorHash := s.grm.vendorHash }
    hlt := { Health.reset with flashLog := s.hlt.flashLog, flashFences := s.hlt.flashFences }
    pwr := { Power.reset with wakeLevel := s.pwr.wakeLevel, extThrottle := s.pwr.extThrottle }
    boot := { Boot.reset with
      powered := powered, perst := perst, straps := straps, ir := s.boot.ir
      scanCells := s.boot.scanCells, scanOut := s.boot.scanOut, dr := s.boot.dr }
    free := s.free
    pending := s.pending }

/-- POWER_ON_RELEASE (R585, R587): the detectors release; the straps are sampled. -/
def execPowerOnRelease (straps : Nat) (s : State) : Out :=
  .next (s.when (!s.boot.powered) fun s => packageReset s true s.boot.perst (strapsOf straps))

/-- SUPPLY_FAIL (R584, R585): the detectors hold the package in reset. -/
def execSupplyFail (s : State) : Out :=
  .next (packageReset s false s.boot.perst s.boot.straps)

/-- PERST_ASSERT (R589, R593): any start-up ends at once; the package is held in reset. -/
def execPerstAssert (s : State) : Out :=
  .next (packageReset s s.boot.powered true s.boot.straps)

/-- PERST_DEASSERT (R587, R590): straps sampled and fuses read; this is the reference of the
start-up times. A test strap other than 0 holds the package in reset. -/
def execPerstDeassert (straps : Nat) (s : State) : Out :=
  .next (s.when s.boot.perst fun s => s.onBoot fun b => { b with
    perst := false
    straps := strapsOf straps
    fuses := b.powered && (strapsOf straps).test == 0
    refUs := s.nowUs })

/-- PCIE_LINK_UP (R590, R401): the link trains, at 64 GT/s only where STRAP_PCIE_MAX permits;
with the fuses read, configuration space and BAR0 answer. -/
def execPcieLinkUp (gen6 : Bool) (s : State) : Out :=
  .next (s.when (alive s && s.boot.fuses && s.boot.straps.hostEn) fun s =>
    (s.onHost fun h => { h with linkUp := true, linkGen6 := gen6 && !s.boot.straps.pcieMax }).onBoot
      fun b => { b with configReady := true })

/-- RAIL_CHECK_TIMEOUT (R585): 100 ms after the reference some rail is outside its fused
window, by the measured voltages `mv`; start-up goes no further. -/
def railInWindow (s : State) (r mv : Nat) : Bool :=
  let w := s.reg (powerBlk + 0x140 + 4 * r)
  decide (bits w 0 12 ≤ mv) && decide (mv ≤ bits w 16 12)

def execRailCheckTimeout (mv : List Nat) (s : State) : Out :=
  .next (s.when (alive s && s.boot.fuses && !s.boot.imageOk && s.grm.st == 0) fun s =>
    if (List.range 6).all fun r => railInWindow s r (mv.getD r 0) then s
    else s.onBoot fun b => { b with railFault := true })

/-! The firmware image (R505, R506). -/

def be384 (l : List Byte) : BitVec 384 := BitVec.ofNat 384 (leNat l.reverse)

def imageMagic : Nat := 0x46424B31
def imageHdr (m : Tbl Byte) : List Byte := memReadN m 0 512
def imageBodyLen (m : Tbl Byte) : Nat := fieldLE (imageHdr m) 16 4
def imageBody (m : Tbl Byte) : List Byte := memReadN m 512 (imageBodyLen m)
def imageSvn (m : Tbl Byte) : Nat := fieldLE (imageHdr m) 12 4

/-- The first check of R506 that the image at the start of `m` fails, as a recovery cause; 0
when it passes them all. -/
def imageCheck (m : Tbl Byte) (vendor : BitVec 384) (floor : Nat) (readOk : Bool) : Nat :=
  let h := imageHdr m
  if fieldLE h 0 4 ≠ imageMagic || fieldLE h 10 1 + 1 ≠ fieldLE h 9 1 then 1
  else if Config.sha384 (slice h 72 96) ≠ vendor then 2
  else if !Config.p384Verify (slice h 72 96) (Config.sha384 (h.take 168)) (slice h 168 96) then 3
  else if 12582400 < imageBodyLen m || Config.sha384 (imageBody m) ≠ be384 (slice h 24 48) then 4
  else if imageSvn m < floor then 5
  else if !readOk then 6 else 0

/-! Flash regions (R504). -/
def flashConfig : Nat := 0xC00000
def flashCerts : Nat := 0xC10000
def flashConfigBytes (s : State) : List Byte := memReadN s.grm.flash flashConfig 65536

/-- Measurement 5: the fuse state, serialised (assumption log 8). -/
def fuseBytes (s : State) : List Byte :=
  toLE 4 Config.fusePart.toNat ++ toLE 4 s.grm.svnFloor ++ toLE 4 Config.fuseCeilingW
    ++ toLE 48 s.grm.vendorHash.toNat

/-- The measurements of R509. -/
def measure (s : State) : List (BitVec 384) :=
  [Config.bootRomHash, Config.sha384 (imageBody s.grm.flash), Config.sha384 (imageHdr s.grm.flash),
   Config.sha384 (flashConfigBytes s), Config.sha384 (fuseBytes s)]

def ownerKeysOf (s : State) : List (List Byte) :=
  (List.range 8).map fun k => memReadN s.grm.flash (flashConfig + 128 * k) 128

/-- Steps 3 and 4 of R506: measurements taken, the owner key table loaded, the feature level and
firmware version written. -/
def loadImage (s : State) : State :=
  let h := imageHdr s.grm.flash
  let s := s.onGrm fun g => { g with measurements := measure s, ownerKeys := ownerKeysOf s }
  s.onBoot fun b => { b with
    featureLevel := fieldLE h 8 1 + 256 * fieldLE h 9 1 + 65536 * fieldLE h 10 1
    fwVersion := fieldLE h 4 4 }

/-- A port that is enabled and has nothing wrong starts training (R365). -/
def startTraining (s : State) (p : Nat) : State :=
  if bit (s.reg (linkBlk p)) 0 && !fenced s (fuPort p) then
    s.onFab fun f => { f with
      ports := Tbl.upd Port.down f.ports p fun q => { q with st := 1, trainUs := s.nowUs } }
  else s

/-- Draw a port's session value afresh, its state being lost (R366). -/
def drawSession (s : State) (p : Nat) : State :=
  let (v, s) := takeFree s
  s.onFab fun f => { f with
    ports := Tbl.upd Port.down f.ports p fun q => { q with session := v.toNat % 2 ^ 16, peerSession := 0 } }

def trainAll (s : State) : State :=
  (List.range 24).foldl startTraining ((List.range 24).foldl drawSession s)

/-- IMAGE_VERIFIED (R506, R590): the boot ROM finishes checking the flash image. A pass loads
it and starts training; a failure enters recovery with its cause (R507). -/
def execImageVerified (readOk : Bool) (s : State) : Out :=
  .next (s.when (alive s && s.boot.fuses && !s.boot.railFault && !s.boot.imageOk
      && s.grm.st == 0) fun s =>
    let cause := imageCheck s.grm.flash s.grm.vendorHash s.grm.svnFloor readOk
    if cause = 0 then trainAll ((loadImage s).onBoot fun b => { b with imageOk := true })
    else s.onGrm fun g => { g with st := 3, recCause := cause, recLive := false })

/-- The Groom's firmware reapplies the fences that were recorded and not cleared (R545). -/
def reapplyFences (s : State) : State :=
  s.hlt.flashFences.foldl (fun s u => if fenced s u then s else
    (fuMembers u).foldl (fenceOne true) s) s

/-- FIRMWARE_START (R506 step 5, R590). -/
def execFirmwareStart (s : State) : Out :=
  .next (s.when (alive s && s.boot.imageOk && s.grm.st == 0) fun s =>
    reapplyFences (s.onGrm fun g => { g with st := 1, recCause := 0 }))

/-- SRAM is written with zeros and valid check bytes (R539, R557, R590). -/
def zeroSram (s : State) : State :=
  let s := s.onPad fun p => { p with mem := [], ue := [], sym := [] }
  let s := s.onBlk fun b => { b with mem := [], ue := [], sym := [] }
  let s := s.onUpd fun u => { u with store := [] }
  s.onMem fun m => { m with cache := [] }

/-- SELF_TEST_DONE (R590, R592): SRAM is zeroed; the units that failed are fenced. -/
def execSelfTestDone (failed : List Nat) (dcpOk : Bool) (s : State) : Out :=
  withUnit (failed.all fun u => decide (u < 465)) <|
    s.when (alive s && s.boot.memTrained && !s.boot.selfTest) fun s =>
      let s := failed.foldl setFence (zeroSram s)
      s.onBoot fun b => { b with
        selfTest := true
        cpFailed := !dcpOk
        fencedAtStart := b.fencedAtStart || !failed.isEmpty }

/-- Every stack of compute die k is fenced. -/
def dieHasNoStack (s : State) (k : Nat) : Bool :=
  fenced s (fuStack (2 * k)) && fenced s (fuStack (2 * k + 1))

/-- DEVICE_READY (R590, R592, R594): the device CP fetches rings, or START_FAIL is set. -/
def execDeviceReady (s : State) : Out :=
  .next (s.when (alive s && s.boot.selfTest && !s.boot.ready && !s.boot.startFail) fun s =>
    if s.boot.cpFailed || (List.range 4).any (dieHasNoStack s) then
      s.onBoot fun b => { b with startFail := true }
    else
      (s.onBoot fun b => { b with
        ready := true
        readyMs := min 65535 ((s.nowUs - b.refUs) / 1000) }).onCp fun c => { c with fetching := true })

/-! Boundary scan (R598, R599). -/

/-- The instruction in effect: those that disturb pins act as BYPASS while PCIE_PERST_N is
deasserted, and so does every other code. -/
def scanEffective (s : State) (code : Nat) : Nat :=
  if code = 1 || code = 2 then code
  else if code ≤ 6 && s.boot.perst then code else 0xFF

/-- The boundary register drives the pins (EXTEST, CLAMP, the pulse and train tests). -/
def scanDrives (s : State) : Bool :=
  let e := scanEffective s s.boot.ir
  e == 0 || e == 3 || e == 5 || e == 6

def idcodeA1 : Nat := 0x14B4074B

/-- Select an instruction: the boundary register captures the pins and takes new cells for the
instructions that select it; the identification register and the bypass bit read as IEEE
1149.1 gives. -/
def scanSelect (code : Nat) (pins data : BitVec 1774) (s : State) : State :=
  let e := scanEffective s code
  s.onBoot fun b =>
    let b := { b with ir := code }
    if e = 0 || e = 2 || e = 5 || e = 6 then
      { b with scanCells := pins, scanOut := data, dr := pins.toNat }
    else if e = 1 then { b with dr := idcodeA1 }
    else { b with dr := 0 }

/-- EXTEST (R599). -/
def execExtest (pins data : BitVec 1774) (s : State) : Out := .next (scanSelect 0 pins data s)
/-- IDCODE (R598). -/
def execIdcode (s : State) : Out := .next (scanSelect 1 0 0 s)
/-- SAMPLE/PRELOAD (R598). -/
def execSamplePreload (pins data : BitVec 1774) (s : State) : Out := .next (scanSelect 2 pins data s)
/-- CLAMP (R599): the cells shifted in before drive the pins; the bypass bit is selected. -/
def execClamp (s : State) : Out := .next (scanSelect 3 0 0 s)
/-- HIGHZ (R599). -/
def execHighz (s : State) : Out := .next (scanSelect 4 0 0 s)
/-- EXTEST_PULSE (R599). -/
def execExtestPulse (pins data : BitVec 1774) (s : State) : Out := .next (scanSelect 5 pins data s)
/-- EXTEST_TRAIN (R599). -/
def execExtestTrain (pins data : BitVec 1774) (s : State) : Out := .next (scanSelect 6 pins data s)
/-- BYPASS (R598), and every code that is none of the table's. -/
def execBypass (code : Nat) (s : State) : Out :=
  .next (scanSelect (if code % 256 ≤ 6 then 0xFF else code % 256) 0 0 s)

end Sys2Proof.Machine
end

