-- ==== Sys2Proof/Machine/Power.lean ====
section
/-! DEFINITION. Power, gaits, rails, the current limiter, thermal sensors, power domains and
wake (chapter 16). GAIT_SET, POWER_STATUS and RAIL_READ are in Machine/Management.lean. -/
namespace Sys2Proof.Machine

open Sys2Proof

/-! Rails (R558 to R560). -/

/-- The voltage of rail r in gait g, in mV; "Off" rails stay at their Walk voltage. -/
def railMv (r g : Nat) : Nat :=
  ([[850, 750, 670, 600, 600], [850, 750, 670, 600, 600], [800, 800, 750, 650, 650],
    [800, 720, 650, 600, 600], [750, 750, 750, 750, 750], [750, 750, 750, 750, 700]].getD r []).getD g 0

def rail (s : State) (r : Nat) : Rail := s.pwr.rails.getD r ⟨0, 0, 0, 0, false, false⟩
def setRail (s : State) (r : Nat) (v : Rail) : State :=
  s.onPwr fun p => { p with rails := p.rails.set r v }

/-- Send a voltage request, clamped to the fused window; a clamp is latched and counted
(R560). -/
def requestRail (mv : Nat) (s : State) (r : Nat) : State :=
  let w := s.reg (powerBlk + 0x140 + 4 * r)
  let c := max (bits w 0 12) (min (bits w 16 12) mv)
  let s := if c ≠ mv then (s.latch (powerBlk + 0x2C) 1).count32 (powerBlk + 0x4C) 1 else s
  setRail s r { rail s r with req := c, waiting := true, again := false }

/-- Request the voltages of gait g on every rail not already at them. -/
def requestVolts (s : State) (g : Nat) : State :=
  (List.range 6).foldl (fun s r =>
    let v := rail s r
    if v.req = railMv r g && v.ack = v.req && !v.waiting then s else requestRail (railMv r g) s r) s

def railsWaiting (s : State) : Bool := s.pwr.rails.any (·.waiting)

/-! Gaits (R551 to R557). -/

def gaitCap (s : State) : Nat := s.fld (powerBlk + 0x10) 0 3
def resumeGait (s : State) : Nat := s.fld powerBlk 0 3

/-- The gait the device should run at: the slower of the commanded gait and CAP (R552). -/
def wantedGait (s : State) : Nat := max s.pwr.commanded (gaitCap s)

/-- Stacks and channels that trained and are not fenced, as units 0–7 and 8–19. -/
def memUnits (s : State) : List Nat :=
  ((List.range 8).filter fun t => bit s.boot.population (12 + t))
    ++ ((List.range 12).filter fun c => bit s.boot.population c).map (· + 8)

def srUnit (s : State) (u : Nat) : SrUnit := Tbl.get SrUnit.empty s.mem.units u
def setSr (s : State) (u : Nat) (f : SrUnit → SrUnit) : State :=
  s.onMem fun m => { m with units := Tbl.upd SrUnit.empty m.units u f }

/-- A unit requests self-refresh (R277 step 1) unless it is already in it or on its way. -/
def requestSelfRefresh (s : State) (u : Nat) : State :=
  if (srUnit s u).st = 0 then setSr s u fun r => { r with st := 1, since := s.nowUs } else s

/-- The gait, or a change toward it, calls for the unit's self-refresh (R277): the stacks once Walk has
gated the clocks, every unit from the start of Halt entry. -/
def gaitWantsSr (s : State) (u : Nat) : Bool :=
  s.pwr.phase != 3 && ((s.pwr.walkGated && decide (u < 8)) || s.pwr.gait == 4
    || (s.pwr.phase == 2 && s.pwr.target == 4))

/-- Entry that the gait forces and that was abandoned is requested again at each boundary (R277). -/
def retrySr (s : State) : State :=
  ((memUnits s).filter (gaitWantsSr s)).foldl requestSelfRefresh s

/-- Once every stack and channel is in self-refresh, Halt entry stops the clocks, switches the
loads off and lowers the UD and PHY rails (R556). -/
def haltProceed (s : State) : State :=
  if s.pwr.phase = 2 && s.pwr.target == 4 && (memUnits s).all (fun u => (srUnit s u).st == 2)
  then requestVolts s 4 else s

/-- A change or entry whose requests are all answered is settled (R554, R555, R559). -/
def gaitSettle (s : State) : State :=
  if railsWaiting s then s
  else if s.pwr.phase = 1 then s.onPwr fun p => { p with gait := p.target, phase := 0 }
  else if s.pwr.phase = 2 && s.pwr.gait == 3 && s.pwr.target == 3 then
    s.onPwr fun p => { p with phase := 0 }
  else if s.pwr.phase = 3 && s.pwr.gait == 3 then
    if s.pwr.rails.any (·.again) then s
    else s.onPwr fun p => { p with gait := p.target, phase := 0, walkGated := false }
  else s

/-- Begin a change to gait `t` at a boundary (R554 to R557). -/
def beginGait (s : State) (t : Nat) : State :=
  let g := s.pwr.gait
  if t = g then s
  else if t = 4 then
    -- Halt entry (R556)
    let s := s.onPwr fun p => { p with phase := 2, target := 4 }
    let s := s.onCp fun c => { c with fetching := false }
    let s := s.onFab fun f => { f with ports := f.ports.map fun (i, q) => (i, { q with st := 0 }) }
    haltProceed ((memUnits s).foldl requestSelfRefresh s)
  else if g = 4 then s
  else if t = 3 then s.onPwr fun p => { p with phase := 2, target := 3 }
  else if g = 3 then gaitSettle (requestVolts (s.onPwr fun p => { p with phase := 3, target := t }) t)
  else if t < g then gaitSettle (requestVolts (s.onPwr fun p => { p with phase := 1, target := t }) t)
  else gaitSettle (requestVolts (s.onPwr fun p => { p with gait := t, phase := 1, target := t }) t)

/-- Requests that are repeated at each boundary until acknowledged (R559). -/
def repeatRails (s : State) : State :=
  (List.range 6).foldl (fun s r => if (rail s r).again then requestRail (rail s r).req s r else s) s

def popDue (s : State) (d : Due) (f : State → State) : State :=
  match s.tim.due with
  | e :: t => if e = d then f (s.onTim fun x => { x with due := t }) else s
  | [] => s

/-- The gait is decided at a boundary. -/
def commitGait (s : State) : State :=
  let s := repeatRails s
  let s := if s.pwr.wake && s.pwr.gait == 3 then
      s.onPwr fun p => { p with wake := false, commanded := resumeGait s } else s
  let s := match s.pwr.pending with
    | some (t, n) => if n ≤ s.nowStride && s.pwr.phase == 0 && (s.pwr.gait != 4 || t == 4) then
        s.onPwr fun p => { p with commanded := t, pending := none } else s
    | none => s
  if s.pwr.phase = 0 then beginGait s (wantedGait s) else s

/-- GAIT_COMMIT (R450 step 4, R552 to R556): a wake event or a pending change that is due sets
the commanded gait; a change begins when the wanted gait differs from the running one. Halt is left only as
R557 says: a change to another gait stays pending until the exit is done (assumption log 47). -/
def execGaitCommit (s : State) : Out :=
  .next <| popDue s .gait commitGait

/-- WALK_GATE (R555): no command runs on a compute die or UD and no switch is in progress, so
their clocks are gated, the stacks enter self-refresh and the rails are lowered. -/
def execWalkGate (s : State) : Out :=
  .next <| popDue s .walkGate fun s =>
    s.when (s.pwr.phase == 2 && s.pwr.target == 3 && (s.cp.cmds.all fun c => !isContextQueue c.pkt.q)
        && (s.sch.pdks.all fun p => p.2.switch.isNone)) fun s =>
      let s := s.onPwr fun p => { p with walkGated := true, gait := 3 }
      gaitSettle (requestVolts (((memUnits s).filter (· < 8)).foldl requestSelfRefresh s) 3)

/-- HALT_ENTRY_DONE (R556): every retention acknowledge has arrived or expired. -/
def execHaltEntryDone (s : State) : Out :=
  .next <| s.when (alive s && s.pwr.phase == 2 && s.pwr.target == 4 && !railsWaiting s
      && (memUnits s).all (fun u => (srUnit s u).st == 2)) fun s =>
    s.onPwr fun p => { p with gait := 4, phase := 0, commanded := 4 }

/-- HALT_EXIT_BEGIN (R557): rails raised, trace ports start training. -/
def execHaltExitBegin (s : State) : Out :=
  .next <| popDue s .haltExit fun s =>
    s.when (s.pwr.gait == 4 && s.pwr.phase == 0) fun s =>
      let t := max (resumeGait s) (gaitCap s)
      let s := s.onPwr fun p =>
        { p with phase := 3, target := t, commanded := resumeGait s, wake := false }
      trainAll (requestVolts s t)

/-- HALT_EXIT_DONE (R557): SRAM zeroed and tested, every die ready: the device runs. -/
def execHaltExitDone (s : State) : Out :=
  .next <| s.when (alive s && s.pwr.gait == 4 && s.pwr.phase == 3 && !railsWaiting s
      && !(s.pwr.rails.any (·.again))) fun s =>
    ((zeroSram s).onPwr fun p => { p with gait := p.target, phase := 0, walkGated := false }).onCp
      fun c => { c with fetching := s.boot.ready }

/-- AVS_ACK (R559): a status with VDone for rail r, with the voltage measured then. -/
def execAvsAck (r mv : Nat) (s : State) : Out :=
  withUnit (decide (r < 6)) <|
    if alive s && (rail s r).waiting then
      gaitSettle (setRail s r { rail s r with ack := (rail s r).req, mv := mv % 4096, waiting := false })
    else s

/-- AVS_TIMEOUT (R559). -/
def execAvsTimeout (r : Nat) (s : State) : Out :=
  withUnit (decide (r < 6)) <|
    if alive s && (rail s r).waiting then
      let s := (s.latch (powerBlk + 0x2C) 0).count32 (powerBlk + 0x48) 1
      let s := logEvent s clsFault 0 groomCpath none r
      let up := s.pwr.phase = 1 && s.pwr.target < s.pwr.gait
      if up then
        -- abandoned: the old voltages are requested again
        let s := s.onPwr fun p => { p with phase := 0, commanded := p.gait }
        let s := setRail s r { rail s r with waiting := false }
        (List.range 6).foldl (fun s i => requestRail (railMv i s.pwr.gait) s i) s
      else gaitSettle (setRail s r { rail s r with waiting := false, again := true })
    else s

/-! The current limiter (R561 to R564). -/

def peakW (s : State) : Nat := s.fld (powerBlk + 0x14) 0 12
def sustainedW (s : State) : Nat := s.fld (powerBlk + 0x14) 12 12
def limitPeak (s : State) : Nat := min Config.fuseCeilingW (min (peakW s) s.pwr.thermalW)
def stretchK (s : State) : Nat := max s.pwr.kFast s.pwr.kSlow

/-- Arithmetic-clock cycles in 0.25 µs (R551). -/
def cyclesPerEstimate (g : Nat) : Nat := if g = 0 then 400 else if g = 1 then 300 else if g = 2 then 200 else 0

/-- One estimate of the package's power, and the fast loop's step. -/
def powerSample (rails : List Nat) (stackW : Nat) (s : State) : State :=
  let s := (List.range 6).foldl (fun s r =>
    setRail s r { rail s r with mv := rails.getD (2 * r) 0 % 4096, amps := rails.getD (2 * r + 1) 0 % 65536 }) s
  let w := sumNat ((List.range 6).map fun r => rails.getD (2 * r) 0 * rails.getD (2 * r + 1) 0 / 1000) + stackW
  let k := stretchK s
  let sk := s.pwr.stretchFrac + cyclesPerEstimate s.pwr.gait * k
  let s := s.count64 (powerBlk + 0x30) (sk / 64)
  let lim := limitPeak s
  s.onPwr fun p =>
    let below := if w * 100 < lim * 97 then p.below + 1 else 0
    let kf := if lim < w then min 56 (p.kFast + 8) else if below = 4 then p.kFast - 1 else p.kFast
    { p with
      instW := min 65535 w, sumW := p.sumW + w, cntW := p.cntW + 1, stretchFrac := sk % 64
      below := if below = 4 then 0 else below, kFast := kf
      full := p.full && max kf p.kSlow == 56 }

/-- Readings of power sensors, a source and its µJ each. -/
def energyReads : List Nat → State → State
  | src :: uj :: t, s => energyReads t (energyRead s src uj)
  | _, s => s

/-- POWER_ESTIMATE (R476, R561, R562): six rails' voltages (mV) and currents (A), in turn, and the
stacks' estimate. The estimate is their sum; the fast loop and the skipped cycles follow. Behind the
rails stand the on-die power sensors' readings, a source and its µJ each. -/
def execPowerEstimate (rails : List Nat) (stackW : Nat) (s : State) : Out :=
  .next <| s.when (alive s && s.boot.fuses) fun s => energyReads (rails.drop 12) (powerSample rails stackW s)

/-- The mean over the last `AVG_MS` ms (R561). -/
def avgOf (l : List Nat) : Nat := if l.isEmpty then 0 else sumNat l / l.length

/-- One step of the slow loop. -/
def slowLoop (s : State) : State :=
  let n := s.fld (powerBlk + 0x18) 0 16
  let sus := sustainedW s
  s.onPwr fun p =>
    let h := ((if p.cntW = 0 then p.instW else p.sumW / p.cntW) :: p.histW).take n
    let a := avgOf h
    { p with
      histW := h, sumW := 0, cntW := 0, avgW := min 65535 a
      kSlow := if sus < a then min 56 (p.kSlow + 1)
               else if a * 100 < sus * 98 then p.kSlow - 1 else p.kSlow }

/-- SLOW_LOOP_TICK (R561): every ms. -/
def execSlowLoopTick (s : State) : Out :=
  .next <| s.when (alive s && s.boot.fuses) slowLoop

/-- GAIT_CAP_STEP_DOWN (R563): CAP is lowered by one gait, not below Trot. -/
def execGaitCapStepDown (s : State) : Out :=
  .next <| popDue s .capStep fun s =>
    (s.setReg (powerBlk + 0x10) (min 2 (gaitCap s + 1))).latch (powerBlk + 0x2C) 2

/-! Thermal sensors (R565 to R567). Sensors: 64 × die + i, stacks 1024 + t, DIMMs 2048 + c. -/

def sensorExists (k : Nat) : Bool :=
  if k < 1024 then decide (k / 64 < 7) && decide (k % 64 < (if k / 64 < 4 then 16 else 4))
  else if k < 2048 then decide (k < 1032) else decide (k < 2060)

/-- A sensor's temperature; `temps` holds the readings plus 1. -/
def tempOf (s : State) (k : Nat) : Nat := Tbl.get 0 s.pwr.temps k - 1
def warnC (s : State) : Nat := s.fld (powerBlk + 0x38) 0 8
def throttleC (s : State) : Nat := s.fld (powerBlk + 0x38) 8 8
def hbmThrottleC (s : State) : Nat := s.fld (powerBlk + 0x38) 16 8

def sensorHot (s : State) (k t : Nat) : Bool :=
  if k < 1024 then decide (throttleC s ≤ t) else if k < 2048 then decide (hbmThrottleC s ≤ t) else false
def sensorTrips (k t : Nat) : Bool :=
  if k < 1024 then decide (Config.fuseTripC ≤ t)
  else if k < 2048 then decide (Config.fuseStackTripC ≤ t) else false

/-- Sensor k reads t °C. -/
def senseTemp (k t : Nat) (s : State) : State :=
  let t := t % 256
  let s := s.onPwr fun p => { p with temps := Tbl.insert p.temps k (t + 1) }
  let s := if warnC s ≤ t then s.latch (powerBlk + 0x2C) 3 else s
  let s := if sensorHot s k t then s.latch (powerBlk + 0x2C) 4 else s
  if sensorTrips k t then
    logEvent ((s.latch (powerBlk + 0x2C) 5).onPwr fun p => { p with trip := true })
      clsFault 5 groomCpath none t
  else s

/-- THERMAL_SENSOR_READ (R566, R567). A trip stops every clock but those of the always-on block
and the Groom; it is logged with class FAULT. -/
def execThermalSensorRead (k t : Nat) (s : State) : Out :=
  withUnit (sensorExists k) <| s.when (alive s) (senseTemp k t)

def anyHot (s : State) : Bool := s.pwr.temps.any fun p => sensorHot s p.1 (p.2 - 1)
/-- Every sensor is 3 °C or more below its threshold. -/
def allCool (s : State) : Bool := s.pwr.temps.all fun p =>
  if p.1 < 1024 then decide (p.2 - 1 + 3 ≤ throttleC s)
  else if p.1 < 2048 then decide (p.2 - 1 + 3 ≤ hbmThrottleC s) else true

/-- THERMAL_LIMIT_TICK (R566): every ms the thermal limit falls by 25 W, to a floor of 600 W,
or rises by 25 W, to the fused ceiling. -/
def execThermalLimitTick (s : State) : Out :=
  .next <| s.when (alive s) fun s => s.onPwr fun p => { p with
    thermalW :=
      if anyHot s then (if p.thermalW ≤ 600 then p.thermalW else max 600 (p.thermalW - 25))
      else if allCool s && !p.extThrottle then min Config.fuseCeilingW (p.thermalW + 25)
      else p.thermalW }

/-- THERM_THROTTLE_ASSERT (R566). -/
def execThermThrottleAssert (s : State) : Out :=
  .next <| s.when (alive s) fun s =>
    (s.latch (powerBlk + 0x2C) 6).onPwr fun p =>
      { p with extThrottle := true, thermalW := sustainedW s / 2 }

/-- THERM_THROTTLE_RELEASE (R566). -/
def execThermThrottleRelease (s : State) : Out :=
  .next (s.onPwr fun p => { p with extThrottle := false })

/-! Wake (R570, R571). -/

/-- A wake event: its status bit is set; in Walk or Halt it commits a change to `RESUME_GAIT`
at the next boundary; during Halt entry it is latched in `DEFERRED` (R556). -/
def wakeEvent (s : State) (b : Nat) : State :=
  let s := s.latch (powerBlk + 0x44) b
  if s.pwr.phase = 2 && s.pwr.target == 4 then
    (s.latch (powerBlk + 0x44) 7).onPwr fun p => { p with wake := true }
  else if 3 ≤ s.pwr.gait && s.pwr.phase != 3 then s.onPwr fun p => { p with wake := true }
  else s

/-- WAKE_PIN_EVENT (R570): pin n has been stable at a level for 1 µs. A change to the active
level sets its status bit; an enabled pin is a wake event. -/
def execWakePinEvent (n : Nat) (high : Bool) (s : State) : Out :=
  withUnit (decide (n < 4)) <| s.when (alive s) fun s =>
    let was := bit s.pwr.wakeLevel n
    let ctl := s.reg (powerBlk + 0x40)
    let s := s.onPwr fun p => { p with wakeLevel := setBit p.wakeLevel n high }
    if was != high && high == bit ctl (4 + n) then
      if bit ctl n then wakeEvent s n else s.latch (powerBlk + 0x44) n
    else s

/-! Power domains (R568, R569). -/

def gateOf (s : State) (k : Nat) : Group := Tbl.get Group.empty s.pwr.groups k
def setGate (s : State) (k st : Nat) : State :=
  s.onPwr fun p => { p with groups := Tbl.upd Group.empty p.groups k fun g => { g with st := st, since := s.nowUs } }

/-- A cluster with no operation queued, no handle claimed or read, and no reduction entry in
use (R568). -/
def clusterQuiet (s : State) (g : Nat) : Bool :=
  let mine := fun c => coreCluster c == g
  !(s.core.products.any fun p => mine p.core) && !(s.core.vuq.any fun v => mine v.core)
    && !(s.core.running.any fun r => mine r.core)
    && !(s.pad.handles.any fun h => mine (h.1 / 64) && (h.2.claimed || h.2.readers != 0))
    && !(s.red.colls.any fun c => bit c.clusters g && !c.done)

/-- Requests in flight to the pads of a cluster. -/
def clusterTraffic (s : State) (g : Nat) : Bool :=
  (s.mov.flight.map (·.dst) ++ s.mov.remote.map (·.dst)).any fun d => match d with
    | .pad c _ _ _ _ => coreCluster c == g
    | _ => false

/-- CLUSTER_GATE (R568): the gate is requested, and applied once nothing is in flight. -/
def execClusterGate (g : Nat) (s : State) : Out :=
  unitStep (decide (g < 32)) (clusterDie g) s fun s =>
    if bit (s.reg (diePowerBlk (clusterDie g))) 0 && clusterQuiet s g && (gateOf s g).st ≤ 1 then
      setGate s g (if clusterTraffic s g then 1 else 2)
    else s

/-- A way has no block held (R568). -/
def wayEmpty (s : State) (k w : Nat) : Bool :=
  !(s.blk.stored.any fun t => !t.away && ((t.blocks.getD k []).any fun b => b / 48 == w))

/-- WAY_GATE (R568): a gated way's contents are lost. Blocks of way w are 48 w to 48 w + 47. -/
def execWayGate (k w : Nat) (s : State) : Out :=
  unitStep (decide (k < 4) && decide (w < 16)) k s fun s =>
    if bit (s.reg (diePowerBlk k)) 1 && wayEmpty s k w && (gateOf s (fuWay k w)).st == 0 then
      let lo := 2 ^ 26 * k + 65536 * 48 * w
      (setGate s (fuWay k w) 2).onBlk fun b =>
        let keep := fun (i : Nat) => decide (32 * i < lo) || decide (lo + 65536 * 48 ≤ 32 * i)
        { b with mem := memZero b.mem lo (lo + 65536 * 48), ue := b.ue.filter keep, sym := b.sym.filter keep }
    else s

/-- An access to a gated cluster or way starts its wake; one that arrives while a gate is only
requested withdraws it (R569). Ready units answer true. -/
def gateReady (s : State) (k : Nat) : Bool := (gateOf s k).st ≤ 1
def touchGate (s : State) (k : Nat) : State :=
  if (gateOf s k).st = 2 then setGate s k 3 else if (gateOf s k).st = 1 then setGate s k 0 else s

/-- DOMAIN_WAKE_DONE (R568). -/
def execDomainWakeDone (k : Nat) (s : State) : Out :=
  unitStep (decide (k < 32) || (decide (352 ≤ k) && decide (k < 416)))
    (if k < 32 then clusterDie k else (k - 352) / 16) s fun s =>
    if (gateOf s k).st = 3 then setGate s k 0 else s

end Sys2Proof.Machine
end

