-- ==== Sys2Proof/Machine/PadOps.lean ====
section
/-! DEFINITION. Operations on core pads and handle tables (chapter 4): cells and lines, handle
states, errors and their records (R602), scrubs. -/
namespace Sys2Proof.Machine

open Sys2Proof

/-! Error address registers (R602). -/

/-- Capture a record if the register is armed. -/
def captureErr (s : State) (a v : Nat) : State :=
  if s.regs.disarmed.contains a then s
  else (s.setReg a v).onRegs fun r => { r with disarmed := a :: r.disarmed }

/-- Rearm: every named latch is 0 after a write to the latch register. -/
def rearmErr (s : State) (a : Nat) : State :=
  s.onRegs fun r => { r with disarmed := r.disarmed.filter (· != a) }

/-! Cells (R115) and handles (R126 to R128). -/

def padWordAddr (core word : Nat) : Nat := 2 ^ 21 * core + 1024 * word

/-- Word and bank of cell (r, c) of a buffer with base word `b` and width `w` lines. -/
def cellWord (b w r c : Nat) : Nat := b + r * w + c / 64
def cellBank (r c : Nat) : Nat := (r + c) % 64

def cellAddr (core b w r c : Nat) : Nat := padWordAddr core (cellWord b w r c) + 16 * cellBank r c
def cellKey (core b w r c : Nat) : Nat := 2 ^ 17 * core + 64 * cellWord b w r c + cellBank r c

def hKey (core h : Nat) : Nat := 64 * core + h
def hnd (s : State) (core h : Nat) : Handle := Tbl.get Handle.unbound s.pad.handles (hKey core h)
def updHnd (s : State) (core h : Nat) (f : Handle → Handle) : State :=
  s.onPad fun p => { p with handles := Tbl.upd Handle.unbound p.handles (hKey core h) f }

def Handle.bound (h : Handle) : Bool := h.rows != 0

def hEmpty : Nat := 0
def hFilling : Nat := 1
def hReady : Nat := 2
def hInUse : Nat := 3
def hDirty : Nat := 4

/-- Two half-open intervals meet. -/
def meets (a al b bl : Nat) : Bool := decide (a < b + bl) && decide (b < a + al)

/-- Two handles overlap (R127). -/
def overlaps (a b : Handle) : Bool :=
  if a.base = b.base && a.rows == b.rows && a.width == b.width then
    meets a.col0 a.cols b.col0 b.cols
  else meets a.base (a.rows * a.width) b.base (b.rows * b.width)

/-- Handles of core `c` that are bound, with their numbers. -/
def boundOn (s : State) (c : Nat) : List (Nat × Handle) :=
  (s.pad.handles.filter fun p => p.1 / 64 == c && p.2.bound).map fun p => (p.1 % 64, p.2)

/-- The entry fields are in their ranges (R126), and the bind succeeds (R128). -/
def bindOk (s : State) (c h : Nat) (e : Handle) : Bool :=
  decide (1 ≤ e.rows) && decide (e.rows ≤ 2048) && decide (1 ≤ e.width) && decide (e.width ≤ 2048)
    && decide (1 ≤ e.cols) && decide (e.col0 + e.cols ≤ 64 * e.width)
    && decide (e.base + e.rows * e.width ≤ 2048)
    && (boundOn s c).all (fun (i, b) => i == h || !overlaps e b || (e.aliased && e.aliasOf == i))

/-- Words of a handle that lie in bank group g (R144). -/
def handleInGroup (e : Handle) (g : Nat) : Bool := meets e.base (e.rows * e.width) (256 * g) 256

/-! Bank groups (R144 to R146). -/

def groupOf (s : State) (c g : Nat) : Group := Tbl.get Group.empty s.pad.groups (8 * c + g)
def setGroup (s : State) (c g st : Nat) : State :=
  s.onPad fun p => { p with
    groups := Tbl.upd Group.empty p.groups (8 * c + g) fun x => { x with st := st, since := s.nowUs } }

/-- An access to a gated group starts its wake. -/
def wakeGroup (c : Nat) (s : State) (g : Nat) : State :=
  if (groupOf s c g).st = 2 then setGroup s c g 3 else s

def groupsOf (e : Handle) : List Nat := (List.range 8).filter (handleInGroup e)

/-- A scrub of the core's pad uses all its ports (R142). -/
def scrubHolds (s : State) (c : Nat) : Bool := s.pad.scrubs.any fun x => x.core == c && x.alone

/-- Every group the handle's words lie in is powered and ready, and no scrub holds the ports; new
writes are also held while a gate request is pending. -/
def groupsReady (s : State) (c : Nat) (e : Handle) (write : Bool) : Bool :=
  !scrubHolds s c &&
    (groupsOf e).all fun g => (groupOf s c g).st == 0 || (!write && (groupOf s c g).st == 1)

def wakeGroups (s : State) (c : Nat) (e : Handle) : State := (groupsOf e).foldl (wakeGroup c) s

/-- An access to words [w, w + n) reaches their groups: their idle time begins again (R144). -/
def useWords (s : State) (c w n : Nat) : State :=
  ((List.range 8).filter fun g => meets w n (256 * g) 256).foldl (fun s g => s.onPad fun p => { p with
    groups := Tbl.upd Group.empty p.groups (8 * c + g) fun x => { x with lastUse := s.nowUs } }) s

/-- `n` lines of rows [r, r + k) of a handle move over a port: 0 F, 1 B, 2 X (R147). -/
def moveLines (s : State) (c port n : Nat) (e : Handle) (r k : Nat) : State :=
  useWords (s.count64 (coreBlk c + 0x420 + 8 * port) n) c (e.base + r * e.width) (k * e.width)

/-- The word that byte `off` of row `r` of a handle's band lies in. -/
def rowWord (e : Handle) (r off : Nat) : Nat := e.base + r * e.width + (16 * e.col0 + off) / 1024

/-- Row lines that bytes [off, off + len) of a row of the band lie in (R118). -/
def lineSpan (e : Handle) (off len : Nat) : Nat :=
  if len = 0 then 0 else (16 * e.col0 + off + len - 1) / 1024 - (16 * e.col0 + off) / 1024 + 1

/-! Row access: `off` and `len` are bytes within the handle's band of row `r`. -/

/-- Address of byte `b` of row `r` of the band. -/
def bandByte (c : Nat) (e : Handle) (r b : Nat) : Nat :=
  cellAddr c e.base e.width r (e.col0 + b / 16) + b % 16

def padReadRow (s : State) (c : Nat) (e : Handle) (r off len : Nat) : List Byte :=
  (List.range len).map fun i => memRead s.pad.mem (bandByte c e r (off + i))

/-- Cell keys that bytes [off, off + len) of row `r` touch. -/
def rowCells (c : Nat) (e : Handle) (r off len : Nat) : List Nat :=
  if len = 0 then [] else
  (List.range ((off + len - 1) / 16 - off / 16 + 1)).map fun i =>
    cellKey c e.base e.width r (e.col0 + off / 16 + i)

/-- Uncorrectable cells among those of a row's bytes. -/
def rowUe (s : State) (c : Nat) (e : Handle) (r off len : Nat) : List Nat :=
  (rowCells c e r off len).filter fun k => s.pad.ue.contains k

/-- The cell that byte `off + i` of a row lies in is written whole by [off, off + len). -/
def wholeCell (off len b : Nat) : Bool :=
  decide (off ≤ b / 16 * 16) && decide (b / 16 * 16 + 16 ≤ off + len)

/-- Write bytes of a row (R122): whole cells replace the cell and its error; a partial write to
an uncorrectable cell is dropped for that cell (R140). -/
def padWriteRow (s : State) (c : Nat) (e : Handle) (r off : Nat) (d : List Byte) : State :=
  let put := (List.range d.length).filter fun i =>
    wholeCell off d.length (off + i)
      || !s.pad.ue.contains (cellKey c e.base e.width r (e.col0 + (off + i) / 16))
  let whole := (rowCells c e r off d.length).filter fun k =>
    (List.range d.length).any fun i =>
      wholeCell off d.length (off + i) && cellKey c e.base e.width r (e.col0 + (off + i) / 16) == k
  s.onPad fun p => { p with
    mem := put.foldl (fun m i => memWrite m (bandByte c e r (off + i)) (d.getD i 0#8)) p.mem
    ue := p.ue.filter fun k => !whole.contains k
    sym := p.sym.filter fun k => !whole.contains k }

/-- Cells whose partial write is dropped because they are uncorrectable. -/
def droppedCells (s : State) (c : Nat) (e : Handle) (r off len : Nat) : List Nat :=
  (rowUe s c e r off len).filter fun k =>
    (List.range len).any fun i => !wholeCell off len (off + i)
      && cellKey c e.base e.width r (e.col0 + (off + i) / 16) == k

/-! Pad errors (R139, R140, R150, R151). -/

def padLatch (c : Nat) : Nat := coreBlk c + 0x408

/-- The error record of a cell: port 0 F, 1 B, 2 X, 3 patrol; handle when one reached it. -/
def padErrRec (cell port kind : Nat) (h : Option Nat) : Nat :=
  cell % 64 + (cell / 64 % 2048) * 2 ^ 6 + port * 2 ^ 17 + kind * 2 ^ 19
    + h.elim 0 (fun n => n * 2 ^ 20 + 2 ^ 26)

/-- An uncorrectable cell was read (bit 0), or a partial write to one was dropped (bit 1). -/
def padUe (s : State) (c cell port : Nat) (h : Option Nat) (b : Nat) (ctx : Option Nat) : State :=
  let s := captureErr s (coreBlk c + 0x40C) (padErrRec cell port 1 h)
  let s := s.latch (padLatch c) b
  let s := if b = 0 then s.count32 (coreBlk c + 0x418) 1 else s
  let s := logEvent s clsUe b (coreCpath c 4) ctx (s.reg (coreBlk c + 0x40C))
  fenceEvent s c

/-- More than `CE_LIMIT` corrected errors in this check window latch `CE_STORM` (R148, R150). -/
def padStorm (s : State) (c : Nat) : State :=
  let lim := s.fld (coreBlk c + 0x400) 24 8
  if lim ≠ 0 && decide (lim < Tbl.get 0 s.pad.ceWindow c) && !bit (s.reg (padLatch c)) 2 then
    fenceEvent (logEvent (s.latch (padLatch c) 2) clsCorrected 2 (coreCpath c 4) none
      (s.reg (coreBlk c + 0x40C))) c
  else s

/-- A corrected single-symbol error (R139). -/
def padCe (s : State) (c cell port : Nat) (h : Option Nat) : State :=
  let s := captureErr s (coreBlk c + 0x40C) (padErrRec cell port 0 h)
  let s := s.count64 (coreBlk c + 0x410) 1
  padStorm (s.onPad fun p => { p with ceWindow := Tbl.upd 0 p.ceWindow c (· + 1) }) c

/-- Latch every uncorrectable cell of a list, lowest address first. -/
def padUes (s : State) (c port : Nat) (h : Option Nat) (b : Nat) (ctx : Option Nat) (cells : List Nat) :
    State :=
  (cells.foldl (fun l k => insertAsc k l) []).foldl (fun s k => padUe s c (k % 2 ^ 17) port h b ctx) s

/-- The check of the cells that a read delivers (R139): one symbol in error is corrected and written
back, an uncorrectable cell is latched. Answers the uncorrectable cells. -/
def checkCells (s : State) (c port : Nat) (h ctx : Option Nat) (cells : List Nat) : State × List Nat :=
  let one := s.pad.sym.filter cells.contains
  let bad := s.pad.ue.filter cells.contains
  let s := one.foldl (fun s k =>
    (padCe s c (k % 2 ^ 17) port h).onPad fun p => { p with sym := p.sym.erase k }) s
  (padUes s c port h 0 ctx bad, bad)

/-- Read bytes of a handle's row over a port, with the check of their cells (R118, R139); the second
answer says that a cell was uncorrectable. -/
def padGetRow (s : State) (c port h r off len : Nat) (ctx : Option Nat) : State × Bool × List Byte :=
  let e := hnd s c h
  let s := moveLines s c port (lineSpan e off len) e r 1
  let (s, bad) := checkCells s c port (some h) ctx (rowCells c e r off len)
  (s, !bad.isEmpty, padReadRow s c e r off len)

/-- Write bytes of a handle's row over a port (R122); a partial write to an uncorrectable cell is
dropped and latches `UE_WRITE` (R140), which the second answer says. -/
def padPutRow (s : State) (c port h r off : Nat) (d : List Byte) (ctx : Option Nat) : State × Bool :=
  let e := hnd s c h
  let drop := droppedCells s c e r off d.length
  let s := padWriteRow (moveLines s c port (lineSpan e off d.length) e r 1) c e r off d
  (padUes s c port (some h) 1 ctx drop, !drop.isEmpty)

/-- An alias hazard (R138, R152): both handles, both ports, and whether both accesses wrote. It is
logged where the latch was clear (assumption log 56). -/
def aliasHazard (s : State) (c hA hB pA pB : Nat) (ww : Bool) (ctx : Option Nat) : State :=
  let a := coreBlk c + 0x41C
  let first := !bit (s.reg (padLatch c)) 3
  let cnt := min 32767 (s.fld a 17 15 + 1)
  let low := if first then hA + hB * 2 ^ 6 + pA * 2 ^ 12 + pB * 2 ^ 14 + b2n ww * 2 ^ 16
             else s.fld a 0 17
  let s := (s.setReg a (low + cnt * 2 ^ 17)).latch (padLatch c) 3
  if first then logEvent s clsAlias 3 (coreCpath c 4) ctx (s.reg a) else s

/-- A hazard reported with a write to the pad through handle `h`: `hz` is 0 for none, or
1 + other handle + 64 × other port + 256 when the other access wrote as well; it happened only if
the two handles differ and overlap. -/
def hazardOn (s : State) (c h port hz : Nat) (ctx : Option Nat) : State :=
  let o := (hz - 1) % 64
  if hz ≠ 0 && o != h && overlaps (hnd s c h) (hnd s c o) && (hnd s c o).bound then
    aliasHazard s c o h ((hz - 1) / 64 % 4) port (256 ≤ hz - 1) ctx
  else s



/-! Handle events (R130 to R133). -/

/-- A reader may acquire: READY or IN_USE, and not held as another command's output. -/
def canAcquire (e : Handle) (cmd : Nat) : Bool :=
  e.bound && (e.state == hReady || e.state == hInUse) && (!e.claimed || e.owner == cmd)

def acquire (e : Handle) : Handle := { e with state := hInUse, readers := e.readers + 1 }

def releaseReader (e : Handle) : Handle :=
  if e.readers = 0 then e
  else if e.readers = 1 then
    { e with readers := 0, state := if e.retain then hReady else hEmpty }
  else { e with readers := e.readers - 1 }

/-- A writer's claim succeeds in EMPTY, DIRTY, or READY with no reader, unless another running command
holds the handle as an output (R133). -/
def canClaim (e : Handle) (cmd : Nat) : Bool :=
  e.bound && (e.state == hEmpty || e.state == hDirty || (e.state == hReady && e.readers == 0))
    && (!e.claimed || e.owner == cmd)

def claim (e : Handle) (cmd src bytes : Nat) : Handle :=
  { e with state := hFilling, claimed := true, claimSrc := src, owner := cmd, left := bytes }

/-- `n` more bytes of the writer have landed; the last makes the handle READY. -/
def landed (e : Handle) (n : Nat) : Handle :=
  if e.state = hFilling then
    { e with left := e.left - n, state := if e.left ≤ n then hReady else hFilling }
  else e

def dirty (e : Handle) : Handle :=
  if e.bound then { e with state := hDirty, readers := 0, claimed := false } else e

/-- The handle belongs to the context and generation (R129). -/
def ownedBy (e : Handle) (x g : Nat) : Bool := e.bound && e.ctx == x && e.gen == g

/-- The die CP may release the handle. -/
def canRelease (e : Handle) : Bool :=
  (e.state == hEmpty || e.state == hReady || e.state == hDirty) && e.readers == 0 && !e.claimed

def unbind (s : State) (c h : Nat) : State :=
  s.onPad fun p => { p with handles := Tbl.erase p.handles (hKey c h) }

/-! Scrubs (R141). -/

/-- The cell at `k` (2^17 × core + 64 × word + bank) lies in the handle. -/
def handleHasCell (e : Handle) (k : Nat) : Bool :=
  let w := k / 64 % 2048
  let b := k % 64
  let i := w - e.base
  let r := i / e.width
  -- the cell column of bank b in line (i mod width) of row r
  let c := 64 * (i % e.width) + (b + 64 - r % 64) % 64
  decide (e.base ≤ w) && decide (w < e.base + e.rows * e.width)
    && decide (e.col0 ≤ c) && decide (c < e.col0 + e.cols)

/-- A command runs on the core. -/
def coreInUse (s : State) (c : Nat) : Bool :=
  s.cp.cmds.any fun k => bit k.clusters (coreCluster c) || (k.outs ++ k.ins).any (· / 64 == c)

/-- Scrub core `c` of context `x`, keeping the handles in `keep`: zero the cells of its other
handles and the cells no bound handle covers, and unbind those handles. -/
def scrubCore (s : State) (c x : Nat) (keep : List Nat) : State :=
  let stay := (boundOn s c).filter fun (i, e) => e.ctx != x || keep.contains i
  let keepCell := fun k => stay.any fun (_, e) => handleHasCell e k
  s.onPad fun p => { p with
    mem := p.mem.filter fun (a, _) =>
      a / 2 ^ 21 != c || keepCell (2 ^ 17 * c + a % 2 ^ 21 / 16)
    ue := p.ue.filter fun k => k / 2 ^ 17 != c || keepCell k
    sym := p.sym.filter fun k => k / 2 ^ 17 != c || keepCell k
    handles := p.handles.filter fun (k, e) =>
      k / 64 != c || e.ctx != x || keep.contains (k % 64)
    scrubs := p.scrubs ++ [⟨c, x, !coreInUse s c⟩] }

/-- Handles that a running command holds: those it names, and those it has bound itself. -/
def cmdHandles (s : State) (k : Cmd) : List Nat :=
  k.outs ++ k.ins ++ ((s.blk.tens.filter (·.cmd == k.id)).map fun t => hKey t.core t.h)
    ++ (s.blk.panels.filter (·.cmd == k.id)).map fun b => hKey b.core b.h

/-- Handles of context `x` on core `c` that a running command holds. -/
def heldHandles (s : State) (c x : Nat) : List Nat :=
  let names := (s.cp.cmds.filter fun k => k.ctx == x).flatMap (cmdHandles s)
  ((boundOn s c).filter fun (i, e) => e.ctx == x && names.contains (hKey c i)).map (·.1)

end Sys2Proof.Machine
end

