-- ==== Sys2Proof/Machine/MemOps.lean ====
section
/-! DEFINITION. Operations on device memory (chapter 8): the decode of physical addresses,
translation and its caches, ECC outcomes, the slow-tier cache, and the life of a request up to
its admission (chapter 7). -/
namespace Sys2Proof.Machine

open Sys2Proof

/-! Device physical addresses (R255, R263, R268). -/

def isHbm (a : Nat) : Bool := decide (a < 2 ^ 39)
def ddrBase : Nat := 2 ^ 40
def isDdr (a : Nat) : Bool := decide (ddrBase ≤ a) && decide (a < ddrBase + 12 * 2 ^ 38)
def hbmStack (a : Nat) : Nat := bits a 36 3
/-- Global pseudo-channel group 0–63: 8 × stack + group in the stack. -/
def hbmGroup (a : Nat) : Nat := bits a 33 6
def ddrChannel (a : Nat) : Nat := (a - ddrBase) / 2 ^ 38
def ddrOffset (a : Nat) : Nat := (a - ddrBase) % 2 ^ 38

/-- Pseudo-channel of the stack (R263). -/
def hbmPc (a : Nat) : Nat :=
  let o := a % 2 ^ 21
  8 * (hbmGroup a % 8) + Nat.xor (o / 2 ^ 10) (o / 2 ^ 13) % 8

def dimmReg (c : Nat) : Nat := ddrBlk + 0x200 + 4 * c
def dimmGib (s : State) (c : Nat) : Nat := s.fld (dimmReg c) 8 9
def dimmRanks (s : State) (c : Nat) : Nat := (s.fld (dimmReg c) 2 1 + 1) * 2 ^ s.fld (dimmReg c) 3 2

/-- Bank of channel c that offset `o` selects: subchannel, logical rank, bank group, bank
(R268). -/
def ddrBank (s : State) (c o : Nat) : Nat :=
  let colw := if bit (s.reg (dimmReg c)) 1 then 3 else 2
  let rw := clog2 (dimmRanks s c)
  let bg := Nat.xor (bits o 11 3) (bits o 21 3)
  bits o 10 1 + 2 * bg + 16 * bits o 14 2 + 64 * bits o (16 + colw) rw

/-- The target of a physical address, for the caps (R228): pseudo-channel 64 × stack + n, or
2^16 + 4096 × channel + bank. -/
def targetOf (s : State) (a : Nat) : Nat :=
  if isHbm a then 64 * hbmStack a + hbmPc a
  else 2 ^ 16 + 4096 * ddrChannel a + ddrBank s (ddrChannel a) (ddrOffset a)

/-- Power unit of a target: stack 0–7, channel 8–19. -/
def targetUnit (t : Nat) : Nat := if t < 2 ^ 16 then t / 64 else 8 + (t - 2 ^ 16) / 4096

def unitDie (u : Nat) : Nat := if u < 8 then u / 2 else 4
def unitCpath (u : Nat) : Nat :=
  if u < 8 then dieCpath (u / 2) (0x28 + u % 2) else dieCpath 4 (0x10 + (u - 8))
def unitFence (u : Nat) : Nat := if u < 8 then fuStack u else fuChannel (u - 8)

/-- The frame belongs to the set of resources. -/
def frameOwned (r : PdkSet) (a : Nat) : Bool :=
  if isHbm a then bit r.groups (hbmGroup a)
  else isDdr a && bit r.channels (ddrChannel a)

/-- The frame lies in the populated part of its tier. -/
def framePopulated (s : State) (a : Nat) : Bool :=
  if isHbm a then bit s.boot.population (12 + hbmStack a)
  else bit s.boot.population (ddrChannel a)
    && decide (ddrOffset a < dimmGib s (ddrChannel a) * 2 ^ 30)

/-! Stored words (R273 to R275). -/

def wordUe (s : State) (a : Nat) : Bool := s.mem.ue.contains (a / 32)

/-- Words of [a, a + len) that are uncorrectable. -/
def ueWords (s : State) (a len : Nat) : List Nat :=
  s.mem.ue.filter fun w => decide (a / 32 ≤ w) && decide (w * 32 < a + len)

def dpaRead (s : State) (a len : Nat) : List Byte := memReadN s.mem.dpa a len

/-- Write where the words for which `whole` answers true replace the stored word and its error; the
write is dropped for every other word that is uncorrectable (R275). Answers the state and the words
dropped. -/
def dpaMerge (s : State) (a : Nat) (d : List Byte) (whole : Nat → Bool) : State × List Nat :=
  let bad := (ueWords s a d.length).filter fun w => !whole w
  let keep := (List.range d.length).filter fun i => !bad.contains ((a + i) / 32)
  let m := if bad.isEmpty then memWriteN s.mem.dpa a d
           else keep.foldl (fun m i => memWrite m (a + i) (d.getD i 0#8)) s.mem.dpa
  (s.onMem fun x => { x with
      dpa := m
      ue := x.ue.filter fun w => !(whole w)
      sym := x.sym.filter fun w => !(whole w) }, bad)

/-- A partial-word write to an uncorrectable word is dropped for that word; a whole-word write
replaces it (R275). -/
def dpaWrite (s : State) (a : Nat) (d : List Byte) : State × List Nat :=
  dpaMerge s a d fun w => decide (a ≤ 32 * w) && decide (32 * w + 32 ≤ a + d.length)

/-- Zero [lo, hi) with valid check bytes. -/
def dpaZero (s : State) (lo hi : Nat) : State :=
  s.onMem fun x => { x with
    dpa := memZero x.dpa lo hi
    ue := x.ue.filter fun w => decide (32 * w < lo) || decide (hi ≤ 32 * w)
    sym := x.sym.filter fun w => decide (32 * w < lo) || decide (hi ≤ 32 * w) }

/-! Errors (R274, R282). -/

/-- Die code 0–3 of an HBM address, 4 for the slow tier. -/
def memDie (a : Nat) : Nat := if isHbm a then hbmStack a / 2 else 4
def memBlk (d : Nat) : Nat := if d < 4 then hbmBlk d else ddrBlk
def addrUnit (a : Nat) : Nat := if isHbm a then hbmStack a else 8 + ddrChannel a

def memErrRec (a kind : Nat) (patrol : Bool) (ctx : Option Nat) : Nat :=
  (a % 2 ^ 44) / 32 * 32 + kind * 2 ^ 44 + b2n patrol * 2 ^ 45
    + ctx.elim 0 (fun x => x * 2 ^ 46 + 2 ^ 52)

/-- A word found uncorrectable (latch bit 0) or with an address check mismatch (bit 2). -/
def memUe (s : State) (a b : Nat) (patrol : Bool) (ctx : Option Nat) : State :=
  let blk := memBlk (memDie a)
  let s := captureErr s (blk + 0x10) (memErrRec a 1 patrol (if patrol then none else ctx))
  let s := (s.latch (blk + 0x8) b).count32 (blk + 0x20) 1
  let s := logEvent s clsUe b (unitCpath (addrUnit a)) (if patrol then none else ctx) (s.reg (blk + 0x10))
  fenceEvent s (unitFence (addrUnit a))

def memUes (s : State) (ws : List Nat) (ctx : Option Nat) : State :=
  (ws.foldl (fun l k => insertAsc k l) []).foldl (fun s w => memUe s (32 * w) 0 false ctx) s

/-- More than `CE_LIMIT` corrected errors on one die's stacks, or on the slow tier, in this check
window latch `CE_STORM` (R276). -/
def memStorm (s : State) (a : Nat) : State :=
  let blk := memBlk (memDie a)
  let lim := s.fld blk 16 8
  if lim ≠ 0 && decide (lim < Tbl.get 0 s.mem.ceWindow (memDie a)) && !bit (s.reg (blk + 0x8)) 1 then
    fenceEvent (logEvent (s.latch (blk + 0x8) 1) clsCorrected 1 (unitCpath (addrUnit a)) none
      (s.reg (blk + 0x10))) (unitFence (addrUnit a))
  else s

/-- A corrected error (R274). -/
def memCe (s : State) (a : Nat) (patrol : Bool) (ctx : Option Nat) : State :=
  let blk := memBlk (memDie a)
  let s := captureErr s (blk + 0x10) (memErrRec a 0 patrol (if patrol then none else ctx))
  let s := s.count64 (blk + 0x18) 1
  memStorm (s.onMem fun m => { m with ceWindow := Tbl.upd 0 m.ceWindow (memDie a) (· + 1) }) a

/-- The check of the words that a read of [a, a + len) delivers (R274): one symbol in error is
corrected and written back, an uncorrectable word is latched. Answers whether one was
uncorrectable. -/
def checkWords (s : State) (a len : Nat) (ctx : Option Nat) : State × Bool :=
  let one := s.mem.sym.filter fun w => decide (a / 32 ≤ w) && decide (w * 32 < a + len)
  let s := one.foldl (fun s w =>
    (memCe s (32 * w) false ctx).onMem fun m => { m with sym := m.sym.erase w }) s
  let ws := ueWords s a len
  (memUes s ws ctx, !ws.isEmpty)

/-- The words of [a, a + len) that a write merges with are read: one symbol in error is corrected
(R274, R275). `add`: every word is merged with. -/
def mergeSyms (s : State) (a len : Nat) (add : Bool) (ctx : Option Nat) : State :=
  let part := s.mem.sym.filter fun w => decide (a / 32 ≤ w) && decide (w * 32 < a + len)
    && (add || !(decide (a ≤ 32 * w) && decide (32 * w + 32 ≤ a + len)))
  part.foldl (fun s w => (memCe s (32 * w) false ctx).onMem fun m => { m with sym := m.sym.erase w }) s

/-- A write at a target: a partial word merges with the corrected word, and an uncorrectable one is
dropped and latched (R274, R275). Answers whether one was. -/
def dpaPut (s : State) (a : Nat) (d : List Byte) (ctx : Option Nat) : State × Bool :=
  let (s, ws) := dpaWrite (mergeSyms s a d.length false ctx) a d
  (memUes s ws ctx, !ws.isEmpty)

/-! Translation (R256 to R261). -/

/-- The entry read by a walk: its value, or none when its word reads uncorrectable. -/
def walkEntry (s : State) (a : Nat) : Option Nat :=
  if (ueWords s a 8).isEmpty then some (leNat (dpaRead s a 8)) else none

def l1Bad (e : Nat) : Bool := !bit e 0 || bits e 1 15 != 0 || bits e 44 20 != 0
def pteBad (e : Nat) : Bool := !bit e 0 || bits e 3 18 != 0 || bits e 44 20 != 0

/-- What a walk finds: the page-table entry, or a cause and the uncorrectable word met. -/
inductive Walk where
  | pte (e : Nat)
  | bad (cause : Nat) (ue : Option Nat)
  deriving DecidableEq, Repr

def tableFrameOk (s : State) (x a : Nat) : Bool :=
  isHbm a && frameOwned (ctxRes s x) a

/-- The table walk of R256 for virtual page `va / 2^21` of context x. -/
def walk (s : State) (x va : Nat) : Walk :=
  let a1 := (s.ctx x).ptBase + 8 * bits va 34 14
  if !tableFrameOk s x a1 then .bad 4 none
  else match walkEntry s a1 with
    | none => .bad 1 (some (a1 / 32))
    | some l1 =>
      if l1Bad l1 then .bad 1 none
      else
        let a2 := bits l1 16 28 * 2 ^ 16 + 8 * bits va 21 13
        if !tableFrameOk s x a2 then .bad 4 none
        else match walkEntry s a2 with
          | none => .bad 2 (some (a2 / 32))
          | some e => if pteBad e then .bad 2 none else .pte e

/-- The entries that the walk reads. -/
def walkReads (s : State) (x va : Nat) : List Nat :=
  let a1 := (s.ctx x).ptBase + 8 * bits va 34 14
  if !tableFrameOk s x a1 then []
  else match walkEntry s a1 with
    | none => [a1]
    | some l1 =>
      let a2 := bits l1 16 28 * 2 ^ 16 + 8 * bits va 21 13
      if l1Bad l1 || !tableFrameOk s x a2 then [a1] else [a1, a2]

def pteFrame (e : Nat) : Nat := bits e 21 23 * 2 ^ 21

/-- The checks after the walk: causes 3 to 5, or the physical address. -/
def checkPte (s : State) (x e va : Nat) (write : Bool) : Nat × Nat :=
  if write && !bit e 1 then (3, 0)
  else if !frameOwned (ctxRes s x) (pteFrame e) then (4, 0)
  else if !framePopulated s (pteFrame e) then (5, 0)
  else (0, pteFrame e + va % 2 ^ 21)

def tlbFind (s : State) (mmu x g vpn : Nat) : Option TlbE :=
  s.mem.tlb.find? fun t => t.mmu == mmu && t.ctx == x && t.gen == g && t.vpn == vpn

/-- The translation without its effects: cause (0 for none) and physical address. -/
def peek (s : State) (mmu x va : Nat) (write : Bool) : Nat × Nat :=
  match tlbFind s mmu x (s.gen x) (va / 2 ^ 21) with
  | some t => checkPte s x t.pte va write
  | none => match walk s x (va % 2 ^ 48) with
    | .pte e => checkPte s x e va write
    | .bad c _ => (c, 0)

def tlbSize (mmu : Nat) : Nat := if mmu < 4 then 4096 else 2048

/-- `n` bytes of a context at the target that holds `pa` (R475, R476). -/
def chargeMem (s : State) (x pa n : Nat) : State :=
  addShare (s.charge x (if isHbm pa then acHbm else acDdr) n) (32 + addrUnit pa) x n

/-- Translate on an MMU: a miss walks the table, counts, is charged for the walk's bytes, and
caches the entry in place of the oldest (R259). -/
def translate (s : State) (mmu x va : Nat) (write : Bool) : State × Nat × Nat :=
  let va := va % 2 ^ 48
  let g := s.gen x
  match tlbFind s mmu x g (va / 2 ^ 21) with
  | some t => (s, checkPte s x t.pte va write)
  | none =>
    let s := if mmu < 4 then s.count64 (hbmBlk mmu + 0x30) 1 else s
    let s := chargeMem s x (s.ctx x).ptBase 16
    let w := walk s x va
    let s := (walkReads s x va).foldl (fun s a => (checkWords s a 8 (some x)).1) s
    match w with
    | .pte e =>
      let mine := (s.mem.tlb.filter (·.mmu == mmu)).length
      let drop := if tlbSize mmu ≤ mine then s.mem.tlb.find? (·.mmu == mmu) else none
      let s := s.onMem fun m => { m with
        tlb := (match drop with | some d => m.tlb.erase d | none => m.tlb)
          ++ [⟨mmu, x, g, va / 2 ^ 21, e⟩] }
      (s, checkPte s x e va write)
    | .bad c _ => (s, (c, 0))

/-- A demand translation fault (R258): XLATE latched on the issuing die, counted, and recorded
when the latch was clear. -/
def xlateFault (s : State) (mmu x va cause : Nat) (write : Bool) : State :=
  let info := bits va 21 27 + x * 2 ^ 27 + cause * 2 ^ 33 + b2n write * 2 ^ 36
  if mmu < 4 then
    let b := hbmBlk mmu
    let s := if bit (s.reg (b + 0x8)) 2 then s else s.setReg (b + 0x28) info
    (s.latch (b + 0x8) 2).count32 (b + 0x24) 1
  else
    let s := if bit (s.reg (ddrBlk + 0x8)) 5 then s else s.setReg (ddrBlk + 0x50) info
    s.latch (ddrBlk + 0x8) 5

/-- Split [a, a + len) at 1 KiB boundaries (R226, R263, R268). -/
def splitKib : Nat → Nat → Nat → List (Nat × Nat)
  | 0, _, _ => []
  | fuel + 1, a, len =>
    if len = 0 then [] else
    let n := min len (1024 - a % 1024)
    (a, n) :: splitKib fuel (a + n) (len - n)

def pieces (a len : Nat) : List (Nat × Nat) := splitKib (len / 1024 + 2) a len



/-! Caps and tags (R225, R228, R229). Issuers: 80 k + core, 80 k + 64 + e, 320 + i. -/

def countAt (s : State) (t : Nat) : Nat := Tbl.get 0 s.mem.counts t
def capOf (s : State) (t : Nat) : Nat :=
  if t < 2 ^ 16 then s.fld (dmaBlk (t / 128)) 0 8 else s.fld dmaUdBlk 0 6

def issuerDie (i : Nat) : Nat := if i < 320 then i / 80 else 4
def issuerLimit (s : State) (i : Nat) : Nat :=
  if i < 320 then
    if i % 80 < 64 then s.fld (dmaBlk (i / 80) + 0x100 + 4 * (i % 80)) 0 13
    else s.fld (dmaBlk (i / 80) + 0x400 + 4 * (i % 80 - 64)) 0 12
  else 1024

/-- Same tag pool: the DMA queues of a die, the gather engines of a die, the update die. -/
def samePool (i j : Nat) : Bool :=
  if 320 ≤ i then decide (320 ≤ j)
  else decide (j < 320) && i / 80 == j / 80 && (decide (i % 80 < 64) == decide (j % 80 < 64))
def poolSize (i : Nat) : Nat := if 320 ≤ i then 1024 else if i % 80 < 64 then 4096 else 2048

/-- The issuer of a fabric request that holds no mover's tag. -/
def noIssuer : Nat := 2 ^ 64

/-- Issuers of the tags in use: of admitted requests, and of requests to other devices or to the
lead's host (R227). -/
def tagHolders (s : State) : List Nat :=
  s.mov.flight.map (·.issuer) ++ (s.mov.remote.map (·.issuer)).filter (· != noIssuer)

def tagsOf (s : State) (i : Nat) : Nat := ((tagHolders s).filter (· == i)).length
def poolUsed (s : State) (i : Nat) : Nat := ((tagHolders s).filter (samePool i)).length

def tagFree (s : State) (i : Nat) : Bool :=
  decide (tagsOf s i < issuerLimit s i) && decide (poolUsed s i < poolSize i)

/-- Control path of an issuer. -/
def issuerCpath (i : Nat) : Nat :=
  if 320 ≤ i then dieCpath 4 0x22
  else if i % 80 < 64 then coreCpath (64 * (i / 80) + i % 80) 6
  else dieCpath (i / 80) (0x10 + (i % 80 - 64))

/-! The slow-tier read cache (R270, R271). Lines are DPA / 1024, ways 0–15. -/

def cacheOn (s : State) : Bool := bit (s.reg ddrBlk) 1
def cacheHas (s : State) (line : Nat) : Bool := s.mem.cache.any (·.1 == line)

def cacheTouch (s : State) (line : Nat) : State :=
  s.onMem fun m => match m.cache.find? (·.1 == line) with
    | some e => { m with cache := e :: m.cache.erase e }
    | none => m

/-- Place a line in the least recently used of the paddock's ways of its set. -/
def cachePlace (s : State) (ways line : Nat) : State :=
  if ways = 0 || !cacheOn s || cacheHas s line then s
  else
    let set := line % 2048
    let used := s.mem.cache.filter fun e => e.1 % 2048 == set && bit ways e.2
    let free := (bitsOf ways 16).filter fun w => !(used.any (·.2 == w))
    s.onMem fun m =>
      match free.head?, used.getLast? with
      | some w, _ => { m with cache := (line, w) :: m.cache }
      | none, some e => { m with cache := (line, e.2) :: m.cache.erase e }
      | none, none => m

def cacheDrop (s : State) (line : Nat) : State :=
  s.onMem fun m => { m with cache := m.cache.filter (·.1 != line) }

/-- A request at no target: a host access, or a read-cache hit. -/
def noTarget : Nat := 2 ^ 32
/-- The command and job of a request that belongs to none (read-ahead). -/
def noCmd : Nat := 2 ^ 64
/-- The update die's issuers (R225): the vector engine, cache fills, offload drains, host spills. -/
def issUpdate : Nat := 320
def issCache : Nat := 321
def issOffload : Nat := 322
def issSpill : Nat := 323

def takeId (s : State) : Nat × State :=
  (s.mov.nextId, s.onMov fun m => { m with nextId := m.nextId + 1 })

def addReq (s : State) (r : Req) : State :=
  let (id, s) := takeId s
  s.onMov fun m => { m with waiting := m.waiting ++ [{ r with id := id }] }

/-- The line is served by the read cache (R270). -/
def cacheHit (s : State) (pa : Nat) (write : Bool) : Bool :=
  !write && isDdr pa && cacheOn s && cacheHas s (pa / 1024)

/-- A read-ahead request for the line at `va` (R249, R271). -/
def aheadReq (s : State) (x va line : Nat) : Req where
  id := 0
  cmd := noCmd
  ctx := x
  gen := s.gen x
  issuer := issCache
  job := noCmd
  write := false
  add := false
  host := false
  fn := 0
  va := va
  len := 1024
  data := []
  dst := .cache line
  target := 0
  pa := 0
  bad := false
  runAhead := true
  stopped := false

/-- Read-ahead of `n` lines from `va` for context x after a miss by issuer `i` (R249, R250, R271). -/
def readAhead (i x : Nat) : Nat → Nat → State → State
  | 0, _, s => s
  | n + 1, va, s =>
    let stop := if i < 320 then s.count64 (dmaBlk (i / 80) + 0x8) 1 else s
    let ok := va % 2 ^ 21 ≠ 0 || (match walk s x (va % 2 ^ 48) with
      | .pte e => bit e 2
      | .bad _ _ => false)
    let (c, pa) := peek s 4 x va false
    if !ok || c ≠ 0 || !isDdr pa then stop
    else
      readAhead i x n (va + 1024)
        (if cacheHas s (pa / 1024) then s else addReq s (aheadReq s x va (pa / 1024)))

/-- Count a slow-tier read at the cache, and start read-ahead on a demand miss (R270, R271). -/
def cacheRead (s : State) (i x va pa : Nat) (write ahead : Bool) : State :=
  if !isDdr pa || !cacheOn s || (ctxRes s x).cacheWays = 0 then s
  else if write then cacheTouch s (pa / 1024)
  else if cacheHas s (pa / 1024) then cacheTouch (s.count64 (ddrBlk + 0x28) 1) (pa / 1024)
  else
    let s := s.count64 (ddrBlk + 0x30) 1
    if ahead then s else readAhead i x (s.fld ddrBlk 24 4) (va / 1024 * 1024 + 1024) s

/-! Accesses of a unit that take place within the unit's own step: each piece is admitted and lands
there, so its tag is held no longer than the step (R225 to R228; assumption log 36). -/

/-- A request reaches a unit that is not ready: it starts, or asks for, the unit's exit (R278). -/
def wakeUnit (s : State) (u : Nat) : State :=
  setSr s u fun x =>
    if x.st = 2 then { x with
      st := 3
      since := s.nowUs }
    else { x with exitAfter := true }

/-- Physical addresses of the pieces of a span that reach a target. -/
def spanTargets (s : State) (mmu x va len : Nat) (write : Bool) : List Nat :=
  (pieces va len).filterMap fun p =>
    let (c, pa) := peek s mmu x p.1 write
    if c ≠ 0 || cacheHit s pa write then none else some pa

/-- Issuer `i` may make the span's requests now: a tag is free, and every target is ready and below
its cap (R228, R278). -/
def spanReady (s : State) (i x va len : Nat) (write : Bool) : Bool :=
  tagFree s i && (spanTargets s (issuerDie i) x va len write).all fun pa =>
    (srUnit s (addrUnit pa)).st == 0 && decide (countAt s (targetOf s pa) < capOf s (targetOf s pa))

/-- A span that waits starts the exit of the units that are not ready. -/
def wakeSpan (s : State) (i x va len : Nat) (write : Bool) : State :=
  (dedupNat ((spanTargets s (issuerDie i) x va len write).map addrUnit)).foldl
    (fun s u => if (srUnit s u).st = 0 then s else wakeUnit s u) s

/-- One piece reaches its target and completes there (R270, R271, R280). -/
def atTarget (s : State) (mmu x va pa len : Nat) (write : Bool) : State :=
  let s := chargeMem s x pa len
  let hit := cacheHit s pa write
  let s := cacheRead s (if mmu < 4 then 80 * mmu else issUpdate) x va pa write false
  if hit then s
  else
    let s := (setSr s (addrUnit pa) fun r => { r with lastUse := s.nowUs }).beat (unitCpath (addrUnit pa))
    if write || !isDdr pa then s else cachePlace s (ctxRes s x).cacheWays (pa / 1024)

/-- Read device virtual memory of a context: the bytes, or a cause; an uncorrectable word is latched
and answers 6. -/
def vaRead (s : State) (mmu x va len : Nat) : State × Nat × List Byte :=
  (pieces va len).foldl (fun (acc : State × Nat × List Byte) p =>
    let (s, c, l) := acc
    if c ≠ 0 then acc else
    let (s, c, pa) := translate s mmu x p.1 false
    if c ≠ 0 then (xlateFault s mmu x p.1 c false, c, l)
    else
      let (s, bad) := checkWords (atTarget s mmu x p.1 pa p.2 false) pa p.2 (some x)
      if bad then (s, 6, l) else (s, 0, l ++ dpaRead s pa p.2)) (s, 0, [])

/-- Read words that were saved (R275): one that reads uncorrectable is zeros, and `UE` is set. -/
def readSaved (s : State) (mmu x va len : Nat) : State × List Byte :=
  (pieces va len).foldl (fun (acc : State × List Byte) p =>
    let (s, l) := acc
    let (s, c, pa) := translate s mmu x p.1 false
    if c ≠ 0 then (xlateFault s mmu x p.1 c false, l ++ List.replicate p.2 0#8)
    else
      let bs := (List.range p.2).map fun i => if wordUe s (pa + i) then 0#8 else memRead s.mem.dpa (pa + i)
      ((checkWords (atTarget s mmu x p.1 pa p.2 false) pa p.2 (some x)).1, l ++ bs)) (s, [])

/-- Write device virtual memory; 6 when a partial word was dropped. -/
def vaWrite (s : State) (mmu x va : Nat) (d : List Byte) : State × Nat :=
  (pieces va d.length).foldl (fun (acc : State × Nat) p =>
    let (s, c) := acc
    if c ≠ 0 && c ≠ 6 then acc else
    let (s, c', pa) := translate s mmu x p.1 true
    if c' ≠ 0 then (xlateFault s mmu x p.1 c' true, c')
    else
      let (s, bad) := dpaPut (atTarget s mmu x p.1 pa p.2 true) pa (slice d (p.1 - va) p.2) (some x)
      (s, if bad then 6 else c)) (s, 0)

end Sys2Proof.Machine
end

