-- ==== Sys2Proof/Machine/FabricOps.lean ====
section
/-! DEFINITION. Operations of the trace fabric (chapter 11): packets and their header checks,
routes, route-change marks, egress queues, receive queues, credits. -/
namespace Sys2Proof.Machine

open Sys2Proof

/-! Ports and tables. -/

def portOf (s : State) (p : Nat) : Port := Tbl.get Port.down s.fab.ports p
def updPort (s : State) (p : Nat) (f : Port → Port) : State :=
  s.onFab fun x => { x with ports := Tbl.upd Port.down x.ports p f }

def protoHigh (s : State) : Nat := bits s.boot.featureLevel 8 8
def protoLow (s : State) : Nat := bits s.boot.featureLevel 16 8

def rpLocal : Nat := 30
def rpAbsent : Nat := 31

/-- Entry d of the active table; a device with no active table holds none (R377, R381). -/
def actEntry (s : State) (d : Nat) : Nat :=
  if s.fab.activeValid then s.reg (trcBlk + 0x8000 + 4 * (d % 4096)) else rpAbsent
def actPort (s : State) (d : Nat) : Nat := bits (actEntry s d) 0 5
def pendEntry (s : State) (d : Nat) : Nat := s.reg (trcBlk + 0x4000 + 4 * (d % 4096))

/-- The highest level this device shares with the device a routing entry describes (R393 to
R395). -/
def commonLevel (s : State) (e : Nat) : Option Nat :=
  let hi := min (protoHigh s) (bits e 8 8)
  if max (protoLow s) (bits e 16 8) ≤ hi then some hi else none

def levelShared (s : State) (d : Nat) : Bool :=
  actPort s d == rpLocal || (actPort s d != rpAbsent && (commonLevel s (actEntry s d)).isSome)

/-- The link dies run: not in Halt (R556). -/
def linkRuns (s : State) (p : Nat) : Bool := dieRuns s (5 + p % 24 / 12)

/-! Packets (R368, R369). -/

/-- The virtual channels on which a type is defined. -/
def typeVcs (t : Nat) : List Nat :=
  if t = 0x0E || t = 0x0F then [0, 1, 2]
  else if 0x01 ≤ t && t ≤ 0x06 then [0]
  else if 0x11 ≤ t && t ≤ 0x1D then [1]
  else if 0x21 ≤ t && t ≤ 0x24 then [2]
  else if 0x31 ≤ t && t ≤ 0x39 then [3]
  else []

def FPkt.size (p : FPkt) : Nat := 32 + 16 * p.len
/-- Length in credits of 64 bytes (R362). -/
def FPkt.units (p : FPkt) : Nat := ceilDiv p.size 64

def encodePkt (p : FPkt) : List Byte :=
  toLE 2 p.dest ++ toLE 2 p.src ++ toLE 1 p.type ++ toLE 1 p.vc ++ toLE 1 p.hops ++ toLE 1 p.level
    ++ toLE 2 p.job ++ toLE 1 p.gen ++ toLE 1 p.ctx ++ toLE 2 p.len ++ toLE 2 0
    ++ toLE 4 p.tag ++ toLE 8 p.addr ++ toLE 4 p.aux ++ padTo p.pay (16 * p.len)

def decodePkt (b : List Byte) : FPkt where
  dest := fieldLE b 0 2 % 4096
  src := fieldLE b 2 2 % 4096
  type := fieldLE b 4 1
  vc := fieldLE b 5 1 % 4
  hops := fieldLE b 6 1
  level := fieldLE b 7 1
  job := fieldLE b 8 2
  gen := fieldLE b 10 1
  ctx := fieldLE b 11 1 % 64
  len := fieldLE b 12 2 % 512
  tag := fieldLE b 16 4
  addr := fieldLE b 20 8
  aux := fieldLE b 28 4
  rsv := fieldLE b 0 2 / 4096 != 0 || fieldLE b 2 2 / 4096 != 0 || fieldLE b 5 1 / 4 != 0
    || fieldLE b 11 1 / 64 != 0 || fieldLE b 12 2 / 512 != 0 || fieldLE b 14 2 != 0
  pay := slice b 32 (16 * (fieldLE b 12 2 % 512))

/-- A packet as its originator forms it; source, hops and level are filled in on sending. -/
def mkPkt (type vc dest : Nat) (pay : List Byte) : FPkt where
  dest := dest
  src := 0
  type := type
  vc := vc
  hops := 0
  level := 0
  job := 0
  gen := 0
  ctx := 0
  len := ceilDiv pay.length 16
  tag := 0
  addr := 0
  aux := 0
  rsv := false
  pay := padTo pay (16 * ceilDiv pay.length 16)

/-- The answer to a request: VC1 names the requesting context, copied from it (R368). -/
def answer (q : FPkt) (type : Nat) (pay : List Byte) : FPkt :=
  { mkPkt type 1 q.src pay with job := q.job, gen := q.gen, ctx := q.ctx, tag := q.tag, addr := q.addr }

/-- The VC3 types that a port in MGMT_ONLY or HELD carries (R367). -/
def mgmtType (t : Nat) : Bool := t == 0x32 || t == 0x33 || t == 0x34 || t == 0x38

def portCarries (s : State) (p : Nat) (k : FPkt) : Bool :=
  (portOf s p).st == 2 || (((portOf s p).st == 3 || (portOf s p).st == 4) && mgmtType k.type)

/-! Drops and receive space. -/

def hdrDrop (s : State) (p : Nat) : State :=
  let s := s.count64 (trcBlk + 0x18) 1
  if p < 24 then s.latch (linkBlk p + 0x18) 5 else s

/-- Receive-buffer space is freed: its credits are owed to the peer (R362). -/
def freeRx (s : State) (p vc n : Nat) : State :=
  if p < 24 then updPort s p fun q => { q with owed := q.owed.set vc (q.owed.getD vc 0 + n) } else s

/-! Egress and routes (R367, R371, R372). `i` is the port a packet came from, 24 for this
device. -/

/-- Queue a packet at port `p`: it waits while the port is TRAINING, and is dropped while the
port is in any other state that does not carry it. -/
def enqueue (s : State) (p : Nat) (x : Nat × FPkt) : State :=
  if portCarries s p x.2 || (portOf s p).st == 1 then updPort s p fun q => { q with egress := q.egress ++ [x] }
  else freeRx (hdrDrop s p) x.1 x.2.vc x.2.units

def markKey (vc d : Nat) : Nat := 8192 * vc + d
def heldFor (s : State) (vc d : Nat) : List (Nat × FPkt) := Tbl.get [] s.fab.held (markKey vc d)

/-- The route-change mark outstanding for a destination and channel. -/
def markOf (s : State) (vc d : Nat) : Option Mark :=
  s.fab.marks.find? fun m => m.vc == vc && m.dest == d

/-- The port a packet for `d` takes now: a destination for which no mark was free keeps its old
port. -/
def routePort (s : State) (d : Nat) : Nat :=
  match s.fab.oldPorts.find? (·.1 == d) with
  | some (_, p) => p
  | none => actPort s d

def markPkt (s : State) (vc d : Nat) : FPkt :=
  { mkPkt 0x0E vc d [] with src := s.devId, hops := s.fld trcBlk 8 8, level := (commonLevel s (actEntry s d)).getD 0 }

/-- Bytes held on a channel by the hold queue of link die `ld`: that of the old port. -/
def heldBytes (s : State) (ld vc : Nat) : Nat :=
  sumNat ((s.fab.held.filter fun e => e.1 / 8192 == vc
      && (markOf s vc (e.1 % 8192)).any fun m => m.oldPort / 12 == ld).map fun e => sumNat (e.2.map (·.2.size)))

/-- A packet goes toward its destination: to the hold queue while a mark for it is outstanding
(sent on the old port behind the held ones where the queue would overflow), else to its port's
queue. A held packet that came from a port is kept as from 25: it holds no buffer and is not limited. -/
def sendOut (s : State) (i : Nat) (k : FPkt) : State :=
  match (if k.vc < 3 then markOf s k.vc k.dest else none) with
  | some m =>
    if heldBytes s (m.oldPort / 12) k.vc + k.size ≤ 32768 then
      freeRx (s.onFab fun f => { f with
        held := Tbl.upd [] f.held (markKey k.vc k.dest) (· ++ [(if i < 24 then 25 else 24, k)]) }) i k.vc k.units
    else
      let out := heldFor s k.vc k.dest ++ [(i, k)]
      let s := out.foldl (fun s x => enqueue s m.oldPort x) s
      let s := enqueue s m.oldPort (24, markPkt s k.vc k.dest)
      s.onFab fun f => { f with
        held := Tbl.erase f.held (markKey k.vc k.dest)
        marks := f.marks.map fun a => if a = m then { a with us := s.nowUs } else a }
  | none => enqueue s (routePort s k.dest) (i, k)

/-! Destination (R381, R382). -/

def genKey (die src ctx : Nat) : Nat := 2 ^ 18 * die + 64 * src + ctx
def genRec (s : State) (die src ctx : Nat) : Option Nat × Nat :=
  Tbl.get (none, 0) s.fab.gens (genKey die src ctx)
def setGenRec (s : State) (die src ctx : Nat) (r : Option Nat × Nat) : State :=
  s.onFab fun f => { f with gens := Tbl.set (none, 0) f.gens (genKey die src ctx) r }

/-- Packet generation `g` is stale against a record. -/
def genStale (r : Option Nat) (g : Nat) : Bool :=
  match r with
  | none => false
  | some r => decide (128 ≤ (g + 256 - r) % 256)

/-- Raise the record of a pair to `g` unless `g` is behind it. -/
def raiseGen (s : State) (die src ctx g : Nat) : State :=
  let (r, n) := genRec s die src ctx
  if genStale r g then s else setGenRec s die src ctx (some g, n)

def rxKey (p vc : Nat) : Nat := 4 * p + vc
def rxOf (s : State) (p vc : Nat) : List FPkt := Tbl.get [] s.fab.rxq (rxKey p vc)

def toRx (s : State) (p : Nat) (k : FPkt) : State :=
  s.onFab fun f => { f with rxq := Tbl.upd [] f.rxq (rxKey p k.vc) (· ++ [k]) }

/-- The link die of a port; a packet the device sends to itself uses LD_0. -/
def portDie (p : Nat) : Nat := if p < 24 then p / 12 else 0

/-! Reduction unit events (R321 to R323): cluster unit g at g, unit of trace port p at 32 + p. -/

def redBlk (u : Nat) : Nat := if u < 32 then redClusterBlk u else redPortBlk (u - 32)
def redCpath (u : Nat) : Nat := if u < 32 then clusterRedCpath u else portRedCpath (u - 32)

/-- Latch event `b` of a unit; the first since the latches were clear is recorded. -/
def redEvent (s : State) (u b serial job group kind chunk : Nat) : State :=
  let a := redBlk u
  let s := if s.reg (a + 0x8) = 0 then
      s.setReg (a + 0x10) (serial + job * 2 ^ 32 + group * 2 ^ 48 + kind * 2 ^ 52 + b * 2 ^ 54 + chunk % 256 * 2 ^ 56)
    else s
  s.latch (a + 0x8) b

/-- A stale chunk is dropped (R299). -/
def staleChunk (s : State) (p : Nat) (k : FPkt) : State :=
  if k.type = 0x21 && p < 24 then
    redEvent s (32 + p) 3 (fieldLE k.pay 4 4) (fieldLE k.pay 0 2) 0 (fieldLE k.pay 3 1 % 4) (fieldLE k.pay 8 4)
  else s

/-- A packet has arrived at its destination by port `p` (24: from this device). Bytes are charged
to the context it is delivered to: for VC0 and VC2 the one its JOB maps to, for VC1 the
requester (R475). In Walk it is a wake event (R555, R571). A route-change mark serves no context and
is never stale. -/
def deliver (s : State) (p : Nat) (k : FPkt) : State :=
  if k.type == 0x0E then toRx s p k
  else if k.vc == 0 || k.vc == 2 then
    let r := genRec s (portDie p) k.src k.ctx
    if genStale r.1 k.gen then
      let s := setGenRec s (portDie p) k.src k.ctx (r.1, r.2 + 1)
      freeRx (staleChunk (s.count64 (trcBlk + 0x20) 1) p k) p k.vc k.units
    else
      let s := raiseGen s (portDie p) k.src k.ctx k.gen
      let s := match ctxOfJob s k.job with
        | some x => s.charge x acFabric k.size
        | none => s
      let s := if s.pwr.gait = 3 then wakeEvent s 6 else s
      toRx s p k
  else
    let s := if k.vc == 1 && s.gen k.ctx == k.gen then s.charge k.ctx acFabric k.size else s
    toRx s p k

/-- Originate a packet (R381, R383): false, and nothing sent, when its destination is ABSENT or
there is no active table. -/
def originate (s : State) (k : FPkt) : Bool × State :=
  let k := { k with src := s.devId, hops := s.fld trcBlk 8 8,
                    level := (commonLevel s (actEntry s k.dest)).getD (protoHigh s) }
  let p := actPort s k.dest
  if p = rpAbsent then (false, s)
  else
    let s := if k.vc == 0 || k.vc == 2 then
        s.onFab fun f => { f with sentTo := Tbl.upd [] f.sentTo k.ctx (insertAsc k.dest) }
      else s
    if p = rpLocal then (true, deliver s 24 k)
    else
      let s := if k.vc == 0 || k.vc == 2 then s.charge k.ctx acFabric k.size
        else if k.vc == 1 then (ctxOfJob s k.job).elim s fun x => s.charge x acFabric k.size
        else s
      (true, sendOut s 24 k)

/-- Send a packet whose loss has no consequence at its sender. -/
def sendPkt (s : State) (k : FPkt) : State := (originate s k).2

/-- A packet for a neighbour, sent out of a port whatever the tables say (R374, R378, R390). -/
def sendPort (s : State) (p : Nat) (k : FPkt) : State :=
  enqueue s p (24, { k with src := s.devId, hops := s.fld trcBlk 8 8, level := protoHigh s })

/-- The header checks on a packet that arrived from port `p` (R381); `DIRECTED` and the exchange
between neighbours are exempt from the first two. -/
def hdrOk (s : State) (k : FPkt) : Bool :=
  (typeVcs k.type).contains k.vc && decide (k.len ≤ 274) && !k.rsv
    && (k.type == 0x32 || k.type == 0x36
        || (actPort s k.dest != rpAbsent && actPort s k.src != rpAbsent && k.src != s.devId))

/-- A packet has arrived whole on port `p`. -/
def receivePkt (s : State) (p : Nat) (k : FPkt) : State :=
  let s := (s.beat (portCpath p)).count64 (linkBlk p + 0x58) k.size
  if !hdrOk s k then freeRx (hdrDrop s p) p k.vc k.units
  else if k.type == 0x32 || k.type == 0x36 then toRx s p k
  else if actPort s k.dest = rpLocal then deliver s p k
  else if k.hops ≤ 1 then freeRx (hdrDrop s p) p k.vc k.units
  else sendOut s p { k with hops := k.hops - 1 }

/-- Lift the meaning of a received packet to its row: it takes the oldest packet accepted on the
port (24: from this device) and channel `vc`, when that packet has the row's type, the link die
runs, and `ready` holds. Its buffer space is freed. -/
def onRx (type vc p : Nat) (s : State) (ready : FPkt → Bool) (f : FPkt → State → State) : Out :=
  withUnit (decide (p ≤ 24)) <|
    match (rxOf s p vc).head? with
    | some k =>
      if k.type = type && linkRuns s p && ready k then
        f k (freeRx (s.onFab fun x => { x with rxq := Tbl.upd [] x.rxq (rxKey p vc) (·.drop 1) })
          p vc k.units)
      else s
    | none => s

/-- The device processes VC0 and VC2 packets: not in Walk, where they wait (R555). -/
def awake (s : State) : Bool := decide (s.pwr.gait < 3)

/-- A row of a VC1 answer: it is dropped where its generation is not the current one of the
requesting context (R381). -/
def onAnswer (type p : Nat) (s : State) (f : FPkt → State → State) : Out :=
  onRx type 1 p s (fun _ => true) fun k s => if k.gen = s.gen k.ctx then f k s else s

end Sys2Proof.Machine
end

