-- ==== Sys2Proof/Machine/Link.lean ====
section
/-! DEFINITION. The link layer of the trace ports (R360 to R367, R370, R384, R393): flits, credits,
replay, training, and the egress of packets. -/
namespace Sys2Proof.Machine

open Sys2Proof

/-! Flits (R361). -/

def crcBit (c : W32) : W32 := if c.getLsbD 0 then (c >>> 1) ^^^ 0x82F63B78#32 else c >>> 1

def crcByte (c : W32) (b : Byte) : W32 :=
  crcBit (crcBit (crcBit (crcBit (crcBit (crcBit (crcBit (crcBit (c ^^^ b.setWidth 32))))))))

/-- CRC-32C, polynomial 0x1EDC6F41 in its reflected form. -/
def crc32c (l : List Byte) : W32 := ~~~ (l.foldl crcByte 0xFFFFFFFF#32)

def ftIdle : Nat := 0
def ftData : Nat := 1
def ftControl : Nat := 2

def flitPayload (f : List Byte) : List Byte := f.take 242
def flitFirst (f : List Byte) : Nat := fieldLE f 242 1
def flitSeq (f : List Byte) : Nat := fieldLE f 244 2 % 4096
def flitType (f : List Byte) : Nat := fieldLE f 244 2 / 4096
def flitAck (f : List Byte) : Nat := fieldLE f 246 2 % 4096
def flitNak (f : List Byte) : Bool := bit (fieldLE f 246 2) 12
def flitCrcOk (f : List Byte) : Bool := fieldLE f 252 4 == (crc32c (f.take 252)).toNat

/-- The first channel that owes credits. -/
def owedVc (q : Port) : Option Nat := (List.range 4).find? fun v => q.owed.getD v 0 != 0

/-- Send one flit: its acknowledgement, NAK and credits are the port's own; DATA and CONTROL
flits are numbered and kept for replay (R363). -/
def sendFlit (s : State) (p type : Nat) (payload : List Byte) (first : Nat) : State :=
  let q := portOf s p
  let (vc, n) := match owedVc q with
    | some v => (v, min 4095 (q.owed.getD v 0))
    | none => (0, 0)
  let body := padTo payload 242 ++ toLE 1 first ++ toLE 1 0 ++ toLE 2 (q.txSeq + 4096 * type)
    ++ toLE 2 ((q.rxSeq + 4095) % 4096 + (if q.nakOut then 4096 else 0)) ++ toLE 4 (vc + 4 * n)
  let flit := body ++ toLE 4 (crc32c body).toNat
  updPort s p fun q => { q with
    owed := q.owed.set vc (q.owed.getD vc 0 - n)
    lastFlit := flit
    replay := if type = ftIdle then q.replay else q.replay ++ [(q.txSeq, flit)]
    ackUs := if type != ftIdle && q.replay.isEmpty then s.nowUs else q.ackUs
    txSeq := if type = ftIdle then q.txSeq else (q.txSeq + 1) % 4096 }

/-- Cut the next DATA flit from the stream of started packets. -/
def cutFlit (s : State) (p : Nat) : State :=
  let q := portOf s p
  let first := match q.txFirst with
    | some o => if o < 242 then o else 255
    | none => 255
  let s := sendFlit s p ftData (q.txStream.take 242) first
  updPort s p fun q => { q with
    txStream := q.txStream.drop 242
    txFirst := match q.txFirst with
      | some o => if o < 242 then none else some (o - 242)
      | none => none }

/-- Send every whole flit that the replay buffer has room for. -/
def pumpFlits : Nat → State → Nat → State
  | 0, s, _ => s
  | fuel + 1, s, p =>
    let q := portOf s p
    if 242 ≤ q.txStream.length && decide (q.replay.length < 512) then pumpFlits fuel (cutFlit s p) p else s

def pump (s : State) (p : Nat) : State := pumpFlits 20 s p

/-! Training (R365 to R367). -/

/-- The port leaves UP and trains; the replay buffer and queued packets are kept. -/
def retrainPort (s : State) (p : Nat) : State :=
  let s := updPort s p fun q => { q with st := 1, trainUs := s.nowUs, failed := 0, replays := 0 }
  let s := (s.count32 (linkBlk p + 0x40) 1).latch (linkBlk p + 0x18) 2
  logEvent s clsLink 2 (portCpath p) none 0

def linkUpish (q : Port) : Bool := q.st == 2 || q.st == 3 || q.st == 4

/-- Replay from the flit after ACK; a 65th consecutive replay retrains instead (R363, R364). -/
def replayPort (s : State) (p : Nat) : State :=
  let q := portOf s p
  if q.replay.isEmpty then s
  else if 64 ≤ q.replays then retrainPort s p
  else (updPort s p fun q => { q with
      replays := q.replays + 1
      ackUs := s.nowUs
      lastFlit := (q.replay.getLast?.map (·.2)).getD q.lastFlit }).count64 (linkBlk p + 0x38) 1

/-! The packet stream (R361). Between packets, a unit of zeros is fill: no packet type is 0
(assumption log 20). -/

/-- Take the whole packets at the front of a stream: the packets, and the bytes that remain. -/
def parseStream : Nat → List Byte → List FPkt × List Byte
  | 0, l => ([], l)
  | fuel + 1, l =>
    if l.length < 32 then ([], l)
    else if fieldLE l 4 1 = 0 then ([], [])
    else
      let k := decodePkt l
      if l.length < k.size then ([], l)
      else
        let (ks, r) := parseStream fuel (l.drop k.size)
        (k :: ks, r)

/-- Feed one flit's payload: (aligned, partial packet) before, and after, with the packets. -/
def feedStream (aligned : Bool) (part payload : List Byte) (first : Nat) :
    Bool × List Byte × List FPkt :=
  let fresh := if first < 242 then payload.drop first else []
  if !aligned then
    if first < 242 then
      let (ks, r) := parseStream 10 fresh
      (true, r, ks)
    else (false, [], [])
  else
    let l := if part.isEmpty || (first = 0 && allZero part) then fresh else part ++ payload
    let (ks, r) := parseStream 10 l
    (true, r, ks)

/-- Packets that the flits of a replay buffer hold, whole or in part: one begun before the first
flit counts too (R366). -/
def countStream : Bool → List Byte → List (List Byte) → Nat
  | _, part, [] => if part.isEmpty || allZero part then 0 else 1
  | al, part, f :: t =>
    let (al, part, ks) := feedStream al part (flitPayload f) (flitFirst f)
    ks.length + countStream al part t

def discardedPkts (q : Port) : Nat :=
  let data := (q.replay.map (·.2)).filter fun f => flitType f == ftData
  let lead := match data.head? with
    | some f => if flitFirst f = 0 then 0 else 1
    | none => 0
  lead + countStream false [] data + (if allZero q.rxStream then 0 else 1)

/-- Flush (R366): replay buffers and partial packets are discarded and counted, credits and
sequence numbers set afresh. -/
def flushPort (s : State) (p : Nat) : State :=
  let n := discardedPkts (portOf s p)
  let s := s.count32 (linkBlk p + 0x44) n
  updPort s p fun q => { q with
    replay := []
    txStream := []
    txFirst := none
    rxStream := []
    rxAligned := false
    txSeq := 0
    rxSeq := 0
    nakOut := false
    replays := 0
    credits := [1536, 1536, 3072, 256]
    owed := [0, 0, 0, 0] }

/-! The hello (R366, R393); its layout is the model's (assumption log 21): bytes 0–1 device ID
and [12] valid, 2 port, 3 `PROTO_HIGH`, 4 `PROTO_LOW`, 5 feature, 6–7 session, 8–9 last session
seen of the peer and byte 10 whether one was, 16–23 serial number. -/

def helloLevel (s : State) (h : List Byte) : Option Nat :=
  let hi := min (protoHigh s) (fieldLE h 3 1)
  if max (protoLow s) (fieldLE h 4 1) ≤ hi then some hi else none

/-- Sessions of both sides are those held before retraining. -/
def sessionKept (q : Port) (h : List Byte) : Bool :=
  q.peerSession == fieldLE h 6 2 + 1 && fieldLE h 10 1 == 1 && fieldLE h 8 2 == q.session

/-- The hello `h` of the peer is taken at port `p` at the end of training. -/
def takeTraining (p : Nat) (h : List Byte) (s : State) : State :=
  let q := portOf s p
  let kept := sessionKept q h
  let seen := q.peerSession != 0
  let s := if kept then s else flushPort s p
  let s := if !kept && seen then
      logEvent (s.latch (linkBlk p + 0x18) 4) clsLink 4 (portCpath p) none 0 else s
  let id := fieldLE h 0 2 % 4096
  let valid := bit (fieldLE h 0 2) 12
  let s := if seen && (q.peer != id || q.peerSerial != fieldLE h 16 8) then
      s.latch (linkBlk p + 0x18) 6 else s
  let chk := Tbl.get 0 s.fab.checkedPeer p
  let held := s.fab.activeValid && chk != 0 && chk != id + 1
  updPort s p fun q => { q with
    st := if (helloLevel s h).isNone then 3 else if held then 4 else 2
    failed := 0
    replays := 0
    level := (helloLevel s h).getD 0
    peerSession := fieldLE h 6 2 + 1
    peer := id
    peerValid := valid
    peerPort := fieldLE h 2 1 % 32
    peerHigh := fieldLE h 3 1
    peerLow := fieldLE h 4 1
    peerFeature := fieldLE h 5 1
    peerSerial := fieldLE h 16 8
    ackUs := s.nowUs
    tokenUs := s.nowUs }

/-- TRAINING_COMPLETE (R365, R366, R367, R380, R393). -/
def execTrainingComplete (p : Nat) (h : List Byte) (s : State) : Out :=
  withUnit (decide (p < 24)) <|
    s.when (linkRuns s p && (portOf s p).st == 1 && (portOf s p).signal && bit (s.reg (linkBlk p)) 0) (takeTraining p h)

/-- TRAINING_TIMEOUT (R365): only while signal is detected. -/
def execTrainingTimeout (p : Nat) (s : State) : Out :=
  withUnit (decide (p < 24)) <|
    s.when (linkRuns s p && (portOf s p).st == 1 && (portOf s p).signal) fun s =>
      let n := (portOf s p).failed + 1
      if n < 3 then updPort s p fun q => { q with failed := n, trainUs := s.nowUs }
      else
        let s := updPort s p fun q => { q with failed := n, st := 5 }
        fenceEvent (logEvent (s.latch (linkBlk p + 0x18) 3) clsLink 3 (portCpath p) none 0) (fuPort p)

/-- SIGNAL_DETECT (R365). -/
def execSignalDetect (p : Nat) (on : Bool) (s : State) : Out :=
  withUnit (decide (p < 24)) <| s.when (linkRuns s p) fun s => updPort s p fun q => { q with signal := on }

/-- FEC_ALIGN_LOSS (R365). -/
def execFecAlignLoss (p : Nat) (s : State) : Out :=
  withUnit (decide (p < 24)) <| s.when (linkRuns s p && linkUpish (portOf s p)) fun s => retrainPort s p

/-- REPLAY_TIMEOUT (R363): 4 µs with flits unacknowledged and ACK unchanged. -/
def execReplayTimeout (p : Nat) (s : State) : Out :=
  withUnit (decide (p < 24)) <| s.when (linkRuns s p && linkUpish (portOf s p)) fun s => replayPort s p

/-! Receiving (R361 to R364). -/

/-- Acknowledgement, NAK and credits of an accepted flit. -/
def takeAck (s : State) (p : Nat) (f : List Byte) : State :=
  let q := portOf s p
  let rest := match q.replay.findIdx? (·.1 == flitAck f) with
    | some i => q.replay.drop (i + 1)
    | none => q.replay
  let s := if rest.length < q.replay.length then
      updPort s p fun q => { q with replay := rest, replays := 0, ackUs := s.nowUs } else s
  let vc := fieldLE f 248 4 % 4
  let cap := [1536, 1536, 3072, 256].getD vc 0
  let s := updPort s p fun q => { q with
    credits := q.credits.set vc (min cap (q.credits.getD vc 0 + bits (fieldLE f 248 4) 2 12)) }
  if flitNak f then replayPort s p else s

/-- The hello that port p sends. -/
def helloBytes (s : State) (p : Nat) : List Byte :=
  let q := portOf s p
  toLE 2 (s.boot.devId + 4096 * b2n s.boot.devIdValid) ++ toLE 1 p ++ toLE 1 (protoHigh s) ++ toLE 1 (protoLow s)
    ++ toLE 1 (bits s.boot.featureLevel 0 8) ++ toLE 2 q.session ++ toLE 2 (q.peerSession - 1)
    ++ toLE 1 (b2n (q.peerSession != 0)) ++ List.replicate 5 0#8 ++ toLE 8 Config.fuseSerial.toNat

/-- Send a hello without retraining (R514). -/
def sendHello (s : State) (p : Nat) : State := sendFlit s p ftControl (toLE 8 1 ++ helloBytes s p) 255

/-- The link level follows the levels of both sides (R393): a link with none in common carries
management only. -/
def relevel (s : State) (p : Nat) : State :=
  let q := portOf s p
  let hi := min (protoHigh s) q.peerHigh
  let ok := decide (max (protoLow s) q.peerLow ≤ hi)
  let chk := Tbl.get 0 s.fab.checkedPeer p
  let held := s.fab.activeValid && chk != 0 && chk != q.peer + 1
  updPort s p fun q => { q with
    level := if ok then hi else 0
    st := if !ok then 3 else if q.st = 3 then (if held then 4 else 2) else q.st }

/-- A hello that comes without retraining. -/
def takeHello (s : State) (p : Nat) (h : List Byte) : State :=
  relevel (updPort s p fun q => { q with
    peer := fieldLE h 0 2 % 4096
    peerValid := bit (fieldLE h 0 2) 12
    peerHigh := fieldLE h 3 1
    peerLow := fieldLE h 4 1
    peerFeature := fieldLE h 5 1 }) p

/-- The link message of a CONTROL flit (layout of assumption log 21): payload byte 0 is 1 for a hello,
from byte 8 on, 2 for retraining and 3 for credit initialisation; the hello of a training is taken by
TRAINING_COMPLETE. -/
def takeControl (s : State) (p : Nat) (f : List Byte) : State :=
  let m := fieldLE f 0 1
  if m = 1 then takeHello s p (slice f 8 24)
  else if m = 2 then retrainPort s p
  else if m = 3 then updPort s p fun q => { q with credits := [1536, 1536, 3072, 256] }
  else s

def takeData (s : State) (p : Nat) (f : List Byte) : State :=
  let q := portOf s p
  let (al, part, ks) := feedStream q.rxAligned q.rxStream (flitPayload f) (flitFirst f)
  let s := updPort s p fun q => { q with rxAligned := al, rxStream := part }
  ks.foldl (fun s k => receivePkt s p k) s

/-- A flit is refused: a NAK goes out in an idle flit. -/
def nakFlit (p : Nat) (s : State) : State :=
  sendFlit (updPort s p fun q => { q with nakOut := true }) p ftIdle [] 255

/-- The next numbered flit is taken: its acknowledgement, then its payload, and an idle flit answers it. -/
def takeFlit (p : Nat) (f : List Byte) (s : State) : State :=
  let s := updPort s p fun q => { q with rxSeq := (q.rxSeq + 1) % 4096, nakOut := false }
  let s := takeAck s p f
  let s := if flitType f = ftData then takeData s p f else takeControl s p f
  if linkUpish (portOf s p) then sendFlit (pump s p) p ftIdle [] 255 else s

/-- FLIT_RECEIVE (R361 to R364, R381, R382): `fec` counts the symbols the FEC corrected, or is
65,536 for an uncorrectable codeword. -/
def execFlitReceive (p : Nat) (f : List Byte) (fec : Nat) (s : State) : Out :=
  withUnit (decide (p < 24)) <|
    s.when (linkRuns s p && linkUpish (portOf s p) && f.length == 256) fun s =>
      let b := linkBlk p
      if 65536 ≤ fec then nakFlit p ((s.count64 (b + 0x28) 1).latch (b + 0x18) 0)
      else
        let s := s.count64 (b + 0x20) fec
        if !flitCrcOk f then nakFlit p ((s.count64 (b + 0x30) 1).latch (b + 0x18) 1)
        else if flitType f = ftIdle then pump (takeAck s p f) p
        else if (flitType f = ftData || flitType f = ftControl) && flitSeq f == (portOf s p).rxSeq then takeFlit p f s
        else nakFlit p s

/-! Egress (R362, R370, R384). -/

/-- Bytes per µs that port `p` lets the device originate on channel `vc`. -/
def ratePerUs (s : State) (p vc : Nat) : Nat :=
  if vc < 3 then s.fld (linkBlk p + 0x60) (9 * vc) 9 * 250 else 2000

def bucketOf (vc : Nat) : Nat := if vc < 3 then 65536 else 16384

/-- Fill the token buckets up to now. -/
def fillTokens (s : State) (p : Nat) : State :=
  let q := portOf s p
  let dt := s.nowUs - q.tokenUs
  updPort s p fun q => { q with
    tokens := (List.range 4).map fun v => min (bucketOf v) (q.tokens.getD v 0 + dt * ratePerUs s p v)
    tokenUs := s.nowUs }

/-- The packet at position `i` may start: the port carries it, it holds credits, and a packet of
this device tokens; no earlier packet of its channel, source and destination waits (R371), and before a mark none
of its channel and destination (R372). -/
def mayStart (s : State) (p : Nat) (i : Nat) (x : Nat × FPkt) : Bool :=
  let q := portOf s p
  let (src, k) := x
  portCarries s p k && decide (k.units ≤ q.credits.getD k.vc 0)
    && (src != 24 || decide (k.size ≤ q.tokens.getD k.vc 0))
    && !((q.egress.take i).any fun y =>
        y.2.vc == k.vc && (y.2.src == k.src || k.type == 0x0E) && y.2.dest == k.dest)

/-- The position of the packet to start: a VC3 packet that may, else the oldest that may. -/
def pickEgress (s : State) (p : Nat) : Option Nat :=
  let l := (portOf s p).egress
  let ok := (List.range l.length).filter fun i =>
    match l[i]? with
    | some x => mayStart s p i x
    | none => false
  match ok.find? (fun i => (l[i]?.map (·.2.vc)) == some 3) with
  | some i => some i
  | none => ok.head?

/-- Start the packet at position `i`: credits and tokens are spent, its bytes join the stream. -/
def startPkt (s : State) (p i : Nat) : State :=
  match (portOf s p).egress[i]? with
  | none => s
  | some (src, k) =>
    let s := ((s.beat (portCpath p)).count64 (linkBlk p + 0x50) k.size)
    let s := freeRx s src k.vc k.units
    updPort s p fun q => { q with
      egress := q.egress.eraseIdx i
      credits := q.credits.set k.vc (q.credits.getD k.vc 0 - k.units)
      tokens := if src = 24 then q.tokens.set k.vc (q.tokens.getD k.vc 0 - k.size) else q.tokens
      txFirst := if q.txFirst.isNone then some q.txStream.length else q.txFirst
      txStream := q.txStream ++ encodePkt k }

/-- Packets the port's state does not carry are dropped, unless it is TRAINING (R367). -/
def dropUncarried (s : State) (p : Nat) : State :=
  let l := (portOf s p).egress
  let out := l.filter fun x => !portCarries s p x.2
  let s := updPort s p fun q => { q with egress := l.filter fun x => portCarries s p x.2 }
  out.foldl (fun s x => freeRx (hdrDrop s p) x.1 x.2.vc x.2.units) s

/-- PACKET_EGRESS (R362, R367, R370, R384): a port starts the next packet; with none to start,
the bytes left of the last are sent in a filled flit. With nothing to send, or a full replay buffer
(R363), an idle flit returns the credits owed. -/
def execPacketEgress (p : Nat) (s : State) : Out :=
  withUnit (decide (p < 24)) <| s.when (linkRuns s p && (portOf s p).st != 1 && !inRecovery s 4 p) fun s =>
    let s := fillTokens (dropUncarried s p) p
    let q := portOf s p
    if !linkUpish q then s
    else if 242 ≤ q.txStream.length then pump s p
    else match pickEgress s p with
      | some i => pump (startPkt s p i) p
      | none =>
        if q.txStream.isEmpty || 512 ≤ q.replay.length then
          s.when (owedVc q).isSome fun s => sendFlit s p ftIdle [] 255
        else cutFlit s p

/-! Control of a port (R365, R400). -/

/-- A write of `TRC_LINK_CTL_p`: ENABLE starts training or disables the port, RETRAIN retrains it,
a FAILED one as well. A fenced port stays DISABLED (R543). -/
def linkCtl (s : State) (p v : Nat) : State :=
  let s := s.setReg (linkBlk p) (b2n (bit v 0))
  if !bit v 0 then updPort s p fun q => { q with st := 0 }
  else
    let s := if (portOf s p).st = 0 && s.boot.imageOk && !fenced s (fuPort p) then
        updPort s p fun q => { q with st := 1, trainUs := s.nowUs, failed := 0 }
      else s
    if bit v 1 && (portOf s p).st != 0 && (portOf s p).st != 1 then retrainPort s p else s

/-- A host write to an OW register takes effect: from the PF, which holds the rein (R11). -/
def owWrite (s : State) (fn : Nat) : Bool := alive s && fn == 0 && holdsRein s Master.pf

/-- RETRAIN (R365): a write of RETRAIN. -/
def execRetrain (fn p : Nat) (v : W64) (s : State) : Out :=
  withUnit (decide (p < 24)) <|
    (touchReg s fn (linkBlk p)).when (linkRuns s p && owWrite s fn && bit v.toNat 1) fun s => linkCtl s p v.toNat

/-- LINK_ENABLE (R400): a write of ENABLE. -/
def execLinkEnable (fn p : Nat) (v : W64) (s : State) : Out :=
  withUnit (decide (p < 24)) <|
    (touchReg s fn (linkBlk p)).when (linkRuns s p && owWrite s fn) fun s => linkCtl s p v.toNat

end Sys2Proof.Machine
end

