-- ==== Sys2Proof/Machine/CmdOps.lean ====
section
/-! DEFINITION. Scale slots, narrowing, version references, and the life of a command's work from
issue to its completion (chapters 2, 6 and 12). -/
namespace Sys2Proof.Machine

open Sys2Proof

/-! Scale slots (R55 to R57, R62): the table lies at the start of the context's region on its home
die, and the home die CP reads and writes it through the context's page table. -/

def scaleVa (s : State) (x n : Nat) : Nat := (s.ctx x).regions.getD (homeDie s x) 0 + 128 * n

/-- Where slot n lies: none where its page does not translate for writing (assumption log 37). -/
def slotPa (s : State) (x n : Nat) : Option Nat :=
  let (c, pa) := peek s (homeDie s x) x (scaleVa s x n) true
  if c = 0 then some pa else none


/-- A slot is written; where its page does not translate the change is dropped (assumption log 37). -/
def writeSlot (s : State) (x n : Nat) (b : List Byte) : State :=
  match slotPa s x n with
  | some pa => (dpaWrite s pa b).1
  | none => s

/-- `n` open bytes. -/
def freeBytes (s : State) (n : Nat) : State × List Byte :=
  ({ s with free := s.free + n }, (List.range n).map fun i => (Config.freeBits (s.free + i)).setWidth 8)

/-- The image of a slot, with the check of its words (R274): the bytes of a word that reads
uncorrectable are open values. A slot whose page does not translate reads zero (assumption log 37). -/
def readSlot (s : State) (x n : Nat) : State × List Byte :=
  match slotPa s x n with
  | none => (s, List.replicate 128 0#8)
  | some pa =>
    let (s, bad) := checkWords s pa 128 (some x)
    let b := dpaRead s pa 128
    if !bad then (s, b)
    else (List.range 4).foldl (fun (a : State × List Byte) i =>
      if wordUe a.1 (pa + 32 * i) then
        let (s, d) := freeBytes a.1 32
        (s, patch a.2 (32 * i) d)
      else a) (s, b)

def slotCtl (b : List Byte) : Nat := fieldLE b 64 4
def ctlExp (c : Nat) : Int := signed 8 (bits c 0 8)
def ctlTfmt (c : Nat) : Nat := bits c 8 4
def ctlMargin (c : Nat) : Nat := bits c 12 3
def ctlFixed (c : Nat) : Bool := bit c 15
def ctlHead (c : Nat) : Nat := bits c 16 4
def ctlCount (c : Nat) : Nat := bits c 20 5

/-- The exponent of a slot; slot 0 is the identity (R49). A word that reads uncorrectable is
latched, and its exponent is an open value. -/
def readExp (s : State) (x n : Nat) : State × Int :=
  if n = 0 then (s, 0)
  else match slotPa s x n with
    | none => (s, 0)
    | some pa =>
      let (s, bad) := checkWords s (pa + 64) 4 (some x)
      if !bad then (s, ctlExp (slotCtl (dpaRead s pa 128)))
      else
        let (v, s) := takeFree s
        (s, signed 8 (v.toNat % 256))

/-- The largest of the `count` ring entries most recently written. -/
def ringMax (b : List Byte) (head count : Nat) : Nat :=
  (List.range count).foldl (fun a i => max a (fieldLE b (4 * ((head + 15 - i) % 16)) 4)) 0

/-- Push a maximum and add the counts of a command to a slot (R59, R62, R63, R79). -/
def pushBytes (b : List Byte) (st : SlotStat) : List Byte :=
  let c := slotCtl b
  let ovf := toLE 4 (satAdd 32 (fieldLE b 72 4) st.sat) ++ toLE 4 (satAdd 32 (fieldLE b 76 4) st.nonfin)
  let b := patch b 72 ovf
  if !st.any then b
  else
    let b := patch b (4 * ctlHead c) (toLE 4 st.maxMag)
    let head := (ctlHead c + 1) % 16
    let count := min 16 (ctlCount c + 1)
    let e := if ctlFixed c then ctlExp c
      else deriveExp (ringMax b head count) (ctlTfmt c) (ctlMargin c) (ctlExp c)
    patch b 64 (toLE 4 (unsigned 8 e + bits c 8 8 * 2 ^ 8 + head * 2 ^ 16 + count * 2 ^ 20))

/-- Push to a slot of a context; slot 0 keeps its overflow word only (R49, R58). -/
def pushSlot (s : State) (x n : Nat) (st : SlotStat) : State :=
  let (s, b) := readSlot s x n
  writeSlot s x n (pushBytes b (if n = 0 then { st with any := false } else st))

/-! Numeric words (R47) and narrowing (R70, R76 to R78). -/

def numFmt (n : Nat) : Nat := bits n 0 4
def numSto (n : Nat) : Bool := bit n 4
def numSlot (n : Nat) : Nat := bits n 8 12
/-- Reserved bits 0, format not reserved, and integer formats name slot 0 (R47, R49). -/
def numOk (n : Nat) : Bool :=
  bits n 5 3 == 0 && bits n 20 12 == 0 && !fmtReserved (numFmt n)
    && ((numFmt n != 5 && numFmt n != 7) || numSlot n == 0)

/-- The exponent a command read at issue for a slot (R64). -/
def Cmd.exp (c : Cmd) (slot : Nat) : Int := 
  if slot = 0 then 0 else ((Tbl.get 128 c.exps slot : Nat) : Int) - 128

/-- Read the exponents of the slots a command names (R64). -/
def readExps (s : State) (id x : Nat) (slots : List Nat) : State :=
  (dedupNat slots).foldl (fun s n =>
    if n = 0 then s else
    let (s, e) := readExp s x n
    s.updCmd id fun c => { c with exps := Tbl.insert c.exps n (e + 128).toNat }) s

def Cmd.stat (c : Cmd) (n : Nat) (f : SlotStat → SlotStat) : Cmd :=
  { c with slots := Tbl.insert c.slots n (f (Tbl.get SlotStat.empty c.slots n)) }

def Cmd.count (c : Cmd) (slot : Nat) (sat nonfin : Bool) : Cmd :=
  let c := { c with ovfSat := satAdd 32 c.ovfSat (b2n sat), ovfNonfin := satAdd 32 c.ovfNonfin (b2n nonfin) }
  c.stat slot fun t => { t with sat := satAdd 32 t.sat (b2n sat), nonfin := satAdd 32 t.nonfin (b2n nonfin) }

/-- Record that a value enters a narrowing through a slot (R58). -/
def Cmd.record (c : Cmd) (slot : Nat) (x : FVal) : Cmd :=
  if slot = 0 then c else c.stat slot fun t => { t with any := true, maxMag := max t.maxMag (maxBits x) }

/-- One narrowing of the real value `x`: to format `fmt` through `slot` scaled by 2^e, on lane
`lane`. -/
def narrowElem (c : Cmd) (fmt slot : Nat) (sto : Bool) (e : Int) (lane : Nat) (x : FVal) : Cmd × Nat :=
  let c := c.record slot x
  let n := Tbl.get 0 c.draws lane
  let rnd := if sto then .sto (draw c.seed c.serial lane n) else .rne
  let c := if sto then { c with draws := Tbl.insert c.draws lane (n + 1) } else c
  let r := narrowTo fmt rnd (fscale x e)
  (c.count slot r.sat r.nonfin, r.out)

/-- Narrow with a numeric word at the exponent the command read. -/
def narrowNum (c : Cmd) (num lane : Nat) (x : FVal) : Cmd × Nat :=
  narrowElem c (numFmt num) (numSlot num) (numSto num) (c.exp (numSlot num)) lane x

/-- The delivery of a lane of a reduced result (R71, R80): a lane marked non-finite is written as the
canonical NaN; its element was counted where it entered, and is not counted again. A stochastic
delivery draws for it as for every element (R76). -/
def narrowDelivered (c : Cmd) (num lane : Nat) (nf : Bool) (x : FVal) : Cmd × Nat :=
  if !nf then narrowNum c num lane x
  else
    let c := if numSto num then { c with draws := Tbl.insert c.draws lane (Tbl.get 0 c.draws lane + 1) } else c
    (if numSlot num = 0 then c else c.stat (numSlot num) fun t => { t with any := true }, canonNaN (numFmt num))

/-- Narrow a list of values, the i-th on lane `lane i`. -/
def narrowList (c : Cmd) (num : Nat) (lane : Nat → Nat) (xs : List FVal) : Cmd × List Nat :=
  let r := xs.foldl (fun (a : Cmd × Nat × List Nat) x =>
    let (c, v) := narrowNum a.1 num (lane a.2.1) x
    (c, a.2.1 + 1, v :: a.2.2)) (c, 0, [])
  (r.1, r.2.2.reverse)

/-- Elements as bytes in format `fmt`, and back. -/
def elemBytes (fmt : Nat) (l : List Nat) : List Byte := l.flatMap fun v => toLE (fmtBytes fmt) v
def bytesElems (fmt : Nat) (b : List Byte) : List Nat :=
  (List.range (b.length / fmtBytes fmt)).map fun i => fieldLE b (fmtBytes fmt * i) (fmtBytes fmt)

/-! Version records (R216 to R220). -/

structure VRec where
  layer : Nat
  cur : Nat
  prev : Nat
  bufA : Nat
  bufB : Nat
  inB : Bool
  prevValid : Bool
  reserved : Bool
  curRefs : Nat
  prevRefs : Nat
  deriving DecidableEq, Repr

def readVRec (s : State) (pa : Nat) : VRec :=
  let b := dpaRead s pa 32
  { layer := bits (fieldLE b 0 4) 0 20, cur := fieldLE b 4 2, prev := fieldLE b 6 2,
    bufA := fieldLE b 8 8, bufB := fieldLE b 16 8, inB := bit (fieldLE b 24 4) 0,
    prevValid := bit (fieldLE b 24 4) 1, reserved := bit (fieldLE b 24 4) 2,
    curRefs := fieldLE b 28 2, prevRefs := fieldLE b 30 2 }

/-- Write a record's changing fields: versions, state bits and counts. -/
def writeVRec (s : State) (pa : Nat) (v : VRec) : State :=
  let s := (dpaWrite s (pa + 4) (toLE 2 v.cur ++ toLE 2 v.prev)).1
  (dpaWrite s (pa + 24) (toLE 4 (b2n v.inB + 2 * b2n v.prevValid + 4 * b2n v.reserved)
    ++ toLE 2 v.curRefs ++ toLE 2 v.prevRefs)).1

def VRec.curBuf (v : VRec) : Nat := if v.inB then v.bufB else v.bufA
def VRec.otherBuf (v : VRec) : Nat := if v.inB then v.bufA else v.bufB

/-- Reach a record through the page table of the context that names it (R217): its physical
address, or the status of the refusal. -/
def reachVRec (s : State) (x va : Nat) : State × (Nat ⊕ Nat) :=
  if va % 64 ≠ 0 then (s, .inr stBadParam)
  else
    let m := homeDie s x
    let (s, c, pa) := translate s m x va true
    if c ≠ 0 then (xlateFault s m x va c true, .inr stAborted)
    else
      let (s, bad) := checkWords s pa 64 (some x)
      (s, if bad then .inr stAborted else .inl pa)

/-- A reservation waits on a record. -/
def resvWaits (s : State) (pa : Nat) : Bool := s.upd.resvs.any (·.vrec == pa)

/-- What an acquire of version `ver` finds (R218): 0 acquire the current version, 1 the previous,
2 wait, 3 refuse. -/
def acquireCase (s : State) (pa ver : Nat) : Nat :=
  let v := readVRec s pa
  if ver = v.cur then (if v.curRefs < 65535 then 0 else 3)
  else if ver = v.prev && v.prevValid then
    (if resvWaits s pa then 2 else if v.prevRefs < 65535 then 1 else 3)
  else if v.reserved && ver == (v.cur + 1) % 65536 then 2
  else 3

def acquireRef (s : State) (pa ver : Nat) : State :=
  let v := readVRec s pa
  if ver = v.cur then writeVRec s pa { v with curRefs := v.curRefs + 1 }
  else writeVRec s pa { v with prevRefs := v.prevRefs + 1 }

/-- The buffer that holds a version on which a reference is held. -/
def bufOf (s : State) (pa ver : Nat) : Nat :=
  let v := readVRec s pa
  if ver = v.cur then v.curBuf else v.otherBuf

def releaseRef (s : State) (r : Nat × Nat) : State :=
  let v := readVRec s r.1
  if r.2 = v.cur then writeVRec s r.1 { v with curRefs := v.curRefs - 1 }
  else if r.2 = v.prev && v.prevValid then writeVRec s r.1 { v with prevRefs := v.prevRefs - 1 }
  else s

/-! The work of a command. -/

/-- Jobs, requests, products, passes, and every other unit of work of command `id`. -/
def workLeft (s : State) (id : Nat) : Bool :=
  (s.mov.jobs.any fun e => e.2.any (·.cmd == id))
    || (s.mov.gatherWait.any fun e => e.2.any (·.cmd == id))
    || s.mov.waiting.any (·.cmd == id) || s.mov.flight.any (·.cmd == id)
    || s.mov.remote.any (·.cmd == id)
    || s.core.products.any (·.cmd == id) || s.core.running.any (·.cmd == id)
    || s.core.vuq.any (·.cmd == id) || s.core.drains.any (·.cmd == id)
    || s.pad.claims.any (·.cmd == id)
    || s.cp.batches.any (fun b => b.cmds.contains id)
    || s.blk.runs.any (fun r => r.cmd == id || r.batch.any (·.1 == id)) || s.blk.offloads.any (fun o => o.cmd == id && o.st != 1)
    || s.red.colls.any (fun c => c.cmd == id && !c.done) || s.red.lrs.any (·.cmd == id)
    || s.upd.cmds.any (·.cmd == id)
    || s.sch.pdks.any (fun p => p.2.change.any (·.1 == id))
    || s.sch.ctxs.any (fun c => c.2.down.any (·.cmd == id))
    || (s.grm.cur.toList ++ s.grm.claims.map (·.msg) ++ s.grm.forwards.map (·.1)
        ++ s.grm.activating.map (·.1)).any (fun m => m.cmd == some id)

/-- Bytes of device memory whose contents are left undefined take open values. -/
def openVa (s : State) (x va len : Nat) : State :=
  (pieces va len).foldl (fun s p =>
    let (c, pa) := peek s (homeDie s x) x p.1 true
    if c ≠ 0 then s
    else
      let (s, d) := freeBytes s p.2
      (dpaWrite s pa d).1) s

def openRegions (s : State) (x : Nat) (l : List (Nat × Nat)) : State :=
  l.foldl (fun s o => if o.1 = 0 then s else openVa s x o.1 o.2) s

/-- The output regions of an aborted block command or collective are undefined over their full
extents (R224, R306). -/
def openOutputs (s : State) (id : Nat) : State :=
  let s := (s.blk.runs.filter (·.cmd == id)).foldl (fun s r => openRegions s r.ctx r.outRegions) s
  (s.red.colls.filter fun c => c.cmd == id && !c.done).foldl (fun s c => openRegions s c.ctx c.outRegions) s

/-- Installs that the command's entries hold reservations for are abandoned (R220). -/
def abandonInstalls (s : State) (id : Nat) : State :=
  (s.upd.entries.filter fun e => e.cmd == id && e.ownGranted && !e.committed).foldl
    (fun s e => writeVRec s e.pa { readVRec s e.pa with reserved := false }) s

/-- Everything a batch's first command holds for the batch passes to command `b`. -/
def renameCmd (s : State) (a b : Nat) : State :=
  let ren := fun (c : Nat) => if c = a then b else c
  let s := s.onBlk fun k => { k with
    runs := k.runs.map fun r => { r with cmd := ren r.cmd }
    tens := k.tens.map fun t => { t with cmd := ren t.cmd, key := t.key % 2 ^ 29 + 2 ^ 29 * ren (t.key / 2 ^ 29) }
    panels := k.panels.map fun t => { t with cmd := ren t.cmd }
    seqs := k.seqs.map fun t => { t with cmd := ren t.cmd } }
  let s := s.onCore fun k => { k with
    products := k.products.map fun t => { t with cmd := ren t.cmd }
    running := k.running.map fun t => { t with cmd := ren t.cmd }
    acc := k.acc.map fun t => { t with cmd := ren t.cmd }
    drains := k.drains.map fun t => { t with cmd := ren t.cmd }
    vuq := k.vuq.map fun t => { t with cmd := ren t.cmd } }
  let s := s.onPad fun k => { k with
    handles := k.handles.map fun e => (e.1, { e.2 with owner := ren e.2.owner })
    claims := k.claims.map fun t => { t with cmd := ren t.cmd } }
  match s.cmd? a with
  | none => s
  | some c => (s.updCmd b fun k => { k with outs := k.outs ++ c.outs, ins := k.ins ++ c.ins }).updCmd a
      fun k => { k with outs := [], ins := [] }

/-- A command of a dispatched batch that ends early leaves the others' rows to run on (R101): the run
passes to the next of its commands. -/
def leaveBatch (s : State) (id : Nat) : State :=
  match s.blk.runs.find? fun r => r.cmd == id && decide (1 < r.batch.length) with
  | none => s
  | some r =>
    match r.batch.find? fun b => b.1 != id && (s.cmd? b.1).any (!·.ended) with
    | some b => renameCmd s id b.1
    | none => s

/-- The command issues nothing further (R89, R178, R190, R233, R473 step 2, R525): its work that has
not been issued is discarded; passes and admitted requests run to their end. -/
def abortWork (s : State) (id : Nat) : State :=
  let s := leaveBatch (abandonInstalls (openOutputs s id) id) id
  let s := s.onMov fun m => { m with
    jobs := (m.jobs.map fun e => (e.1, e.2.filter (·.cmd != id))).filter (!·.2.isEmpty)
    gatherWait := (m.gatherWait.map fun e => (e.1, e.2.filter (·.cmd != id))).filter (!·.2.isEmpty)
    waiting := m.waiting.filter (·.cmd != id)
    remote := m.remote.filter (·.cmd != id) }
  let s := s.onCore fun c => { c with
    products := c.products.filter (·.cmd != id)
    vuq := c.vuq.filter (·.cmd != id)
    drains := c.drains.filter (·.cmd != id) }
  let s := s.onPad fun p => { p with claims := p.claims.filter (·.cmd != id) }
  let s := s.onCp fun c => { c with
    batches := (c.batches.map fun b => { b with cmds := b.cmds.filter (· != id) }).filter (!·.cmds.isEmpty) }
  let s := s.onBlk fun b => { b with
    runs := b.runs.filter (·.cmd != id)
    seqs := b.seqs.filter (·.cmd != id)
    sums := b.sums.filter (·.cmd != id)
    stored := b.stored.filter (·.cmd != id)
    offloads := b.offloads.filter (·.cmd != id) }
  let s := s.onRed fun r => { r with
    colls := r.colls.filter (·.cmd != id)
    retain := r.retain.filter (·.cmd != id)
    sendq := r.sendq.filter (·.cmd != id)
    lrs := r.lrs.filter (·.cmd != id) }
  s.onUpd fun u => { u with
    cmds := u.cmds.filter (·.cmd != id)
    entries := u.entries.filter (·.cmd != id)
    tasks := u.tasks.filter (·.cmd != id)
    running := u.running.filter fun t => !(u.tasks.any fun k => k.id == t && k.cmd == id)
    resvs := u.resvs.filter fun r => !(u.entries.any fun e => e.id == r.entry && e.cmd == id) }

/-- End a command early with status `st`. -/
def endCmd (s : State) (id st : Nat) : State :=
  match s.cmd? id with
  | none => s
  | some _ => abortWork ((s.raise id st).updCmd id fun c => { c with ended := true }) id

/-! Completion (R31, R36, R59, R60, R130, R219, R416, R419, R437, R467). -/

def cmdDies (c : Cmd) : List Nat := dedupNat ((bitsOf c.clusters 32).map (· / 8))

/-- µs by which a command of a run that has ended overruns it, by the local counter (R467). -/
def overrunUs (s : State) (c : Cmd) : Nat :=
  match c.runEnd with
  | some (_, us) => if c.overrun then s.nowUs - us else 0
  | none => 0

/-- The handles of a command that completes: an aborted command's outputs are DIRTY, every other
command's writers let go, and readers release. -/
def settleHandles (s : State) (c : Cmd) : State :=
  let s := c.ins.foldl (fun s k => updHnd s (k / 64) (k % 64) releaseReader) s
  c.outs.foldl (fun s k => updHnd s (k / 64) (k % 64) fun e =>
    if 0x10 ≤ c.status then dirty e
    else if e.owner = c.id then { e with claimed := false } else e) s

/-- The handles that a command bound for itself are unbound (R169, R224). -/
def unbindOwn (s : State) (id : Nat) : State :=
  let own := (s.blk.tens.filter fun t => t.cmd == id && t.park.isNone).map (fun t => (t.core, t.h))
    ++ (s.blk.panels.filter (·.cmd == id)).map fun p => (p.core, p.h)
  (own.foldl (fun s k => unbind s k.1 k.2) s).onBlk fun b => { b with
    tens := b.tens.filter (·.cmd != id)
    panels := b.panels.filter (·.cmd != id) }

/-- A run's overrun is charged once, when the last of its commands completes, and becomes the
context's debit. -/
def chargeOverrun (s : State) (c : Cmd) (extra : Nat) : State :=
  if extra = 0 || (s.cp.cmds.any fun k => k.id != c.id && k.ctx == c.ctx && k.overrun && k.runEnd == c.runEnd)
  then s
  else
    let s := (s.charge c.ctx acHeld extra).charge c.ctx acOverrun extra
    s.updCtx c.ctx fun x => { x with debitUs := x.debitUs + extra }

def pushAll (s : State) (c : Cmd) : State :=
  if 0x10 ≤ c.status then s
  else c.slots.foldl (fun s e =>
    let st := match Tbl.get? c.pushOver e.1 with
      | some m => { e.2 with maxMag := m }
      | none => e.2
    pushSlot s c.ctx e.1 st) s

/-- Form the completion of command `c0`, whose work has ended. -/
def finishCmd (s : State) (c0 : Cmd) : State :=
  let extra := overrunUs s c0
  let c := { c0 with status := if extra ≠ 0 then max c0.status stOverrun else c0.status }
  let s := if isContextQueue c.pkt.q then unbindOwn (settleHandles (pushAll s c) c) c.id else s
  let s := c.refs.foldl releaseRef s
  let s := chargeOverrun s c extra
  let s := (cmdDies c).foldl (fun s k => s.beat (dieCpath k 0)) s
  let s := s.onCp fun p => { p with cmds := p.cmds.filter (·.id != c.id) }
  s.addCpl c.pkt.q {
    serial := c.serial
    status := c.status
    op := c.op
    ctx := c.ctx
    gen := c.gen
    ovf := c.ovfSat + 2 ^ 32 * c.ovfNonfin
    csw := c.csw
    runUs := min (2 ^ 32 - 1) (s.nowUs - c.issueUs)
    overrunUs := extra
    src := s.devId
    noIrq := bit c.pkt.hflags 2
    lead := c.pkt.lead
    fn := c.pkt.fn }

/-- Form the completion of the command of a number. -/
def finish (s : State) (id : Nat) : State :=
  match s.cmd? id with
  | none => s
  | some c => finishCmd s c

/-- A command that ends in the cycle in which it issues. -/
def completeNow (s : State) (q : Nat) (p : Packet) (st csw : Nat) : State :=
  finishCmd (issue s q p []).1 { newCmd s q p with status := st, csw := csw }

/-! Batches of thin matmuls (R99 to R101). -/

/-- The packet is a MATMUL that the die CP holds for batching. -/
def batchable (p : Packet) : Bool :=
  p.op == 0x20 && bit p.hflags 0 && !bit (p.par 27 1) 0 && decide (p.par 28 4 ≤ 63)

/-- What the commands of a batch share: the weight operand and the numeric words. -/
def batchKey (p : Packet) : List Nat :=
  [p.par 16 8, p.par 24 2, p.par 26 1, p.par 32 4, p.par 36 4, p.par 40 4, p.par 44 4, p.par 48 4, p.par 64 4, p.par 68 4]

/-- The slots that a MATMUL names. -/
def mmSlots (p : Packet) : List Nat := [numSlot (p.par 40 4), numSlot (p.par 44 4), numSlot (p.par 48 4)]

/-- Rows of a slice, and columns of the result, that a memory-form MATMUL of `total` rows holds in a pad at a time: all of
them where X, Y and the panel buffers fit, else the columns of one round of panels and as many rows as
fit (assumption log 44). -/
def mmGeom (p : Packet) (total : Nat) : Nat × Nat :=
  let words := fun n num => ceilDiv (n * fmtBytes (numFmt num)) 1024
  let x := words (p.par 32 4) (p.par 40 4)
  let y := fun n => words n (p.par 48 4)
  let fits := fun r n => decide (r * (x + y n) + 64 * ceilDiv (1024 * fmtBytes (numFmt (p.par 44 4))) 1024 ≤ 2048)
  let n := p.par 36 4
  let cols := if fits (min 128 total) n then n else min n 512
  (([128, 64, 32, 16, 8, 4, 2].find? fun r => fits r cols).getD 1, cols)

/-- The steps of a memory-form MATMUL of `total` rows in `rounds` rounds (R429). -/
def mmSteps (p : Packet) (total rounds : Nat) : List BStep :=
  let (rows, cols) := mmGeom p total
  (List.range rounds).flatMap fun n => (List.range (ceilDiv (min 128 total) rows)).flatMap fun q =>
    .mmLoad n q :: (List.range (ceilDiv (p.par 36 4) cols)).flatMap fun c => [.mm n q c, .mmStore n q c]

/-- A batch is dispatched: it runs as one product on the first core of the first command's
clusters (R100, R101). Its commands go to their cores now, and read their exponents (R64). -/
def startBatch (b : Batch) (s : State) : State :=
  let s := s.onCp fun c => { c with
    batches := c.batches.filter (· != b)
    cmds := c.cmds.map fun k => if b.cmds.contains k.id then { k with batched := false } else k }
  let s := (b.cmds.filterMap s.cmd?).foldl (fun s k => readExps s k.id k.ctx (mmSlots k.pkt)) s
  match b.cmds.filterMap s.cmd? with
  | [] => s
  | c :: t => s.onBlk fun k => { k with
      runs := k.runs ++ [{
        cmd := c.id
        ctx := b.ctx
        kind := 3
        pkt := c.pkt
        layers := []
        parts := [⟨8 * ((bitsOf (c.pkt.par 52 4) 32).headD 0), 0, 0, 0⟩]
        steps := mmSteps c.pkt (sumNat ((c :: t).map fun k => k.pkt.par 28 4)) 1
        pos := [0]
        begun := [0]
        sub := [0]
        pol := []
        sweep := []
        decided := []
        copied := []
        demoted := 0
        rebuilds := 0
        stashUe := 0
        spilled := 0
        offUsed := 0
        spillUsed := 0
        batch := (c :: t).map fun k => (k.id, k.pkt.par 28 4)
        wbuf := (c.refs.head?).elim 0 (fun r => bufOf s r.1 r.2)
          + (if c.pkt.par 26 1 = 1 then ceilDiv (2 * c.pkt.par 64 4 * c.pkt.par 68 4) 4096 * 4096 else 0)
        lost := []
        outRegions := [] }] }

/-- Packet p of context x arrives: held batches it does not belong to are dispatched (R100 item 4). -/
def arriveBatches (x : Nat) (p : Packet) (s : State) : State :=
  (s.cp.batches.filter fun b => b.ctx == x && !(batchable p && b.key == batchKey p)).foldl
    (fun s b => startBatch b s) s

/-! Remote and relayed requests (R245, R247, R387, R396, R425). kind: 0 a routed row, 1 a returned
row, 2 a SIGNAL, 3 a host read, 4 a host write, 5 a count word. The layouts of `AUX` that the
specification leaves open are the model's (assumption log 22): in REMOTE_WRITE bits [31:16] give the
bytes written; in HOST_REQ [0] write, [5:1] function, [31:16] bytes, and `ADDR` the host address;
in HOST_RESP [7:0] the status. -/

/-- The mover job of a remote request that none made. -/
def noJob : Nat := 2 ^ 64

/-- Send a request that command `cmd` waits for; `mover` and `issuer` name the job and the issuer
whose tag it holds (R227). -/
def sendRemote (s : State) (cmd x dest kind slot len : Nat) (dst : Dst) (k : FPkt) (mover : Nat := noJob)
    (issuer : Nat := noIssuer) : State :=
  let tag := s.mov.nextTag
  let (ok, s) := originate (s.onMov fun m => { m with nextTag := (m.nextTag + 1) % 2 ^ 32 })
    { k with tag := tag, ctx := x, gen := s.gen x }
  if ok then
    s.onMov fun m => { m with remote := m.remote ++ [
      { tag := tag, issuer := issuer, cmd := cmd, job := mover, dest := dest, slot := slot, ctx := x, gen := s.gen x,
        kind := kind, dst := dst, len := len, sentUs := s.nowUs }] }
  else endCmd s cmd stAborted

def leadOf (s : State) : Nat := s.devId / 64 * 64

/-- The writes of a relayed command's drain of layer i (R183). -/
def drainJob (i : Nat) : Nat := noJob + 1 + i

/-- A write to host memory for a command: checked against the windows of its function here, or by
the lead for a relayed command (R387, R440). -/
def hostPut (s : State) (c : Cmd) (fn addr : Nat) (d : List Byte) (issuer : Nat := noIssuer) (mover : Nat := noJob) :
    State :=
  if c.pkt.lead.isSome then
    let k := { mkPkt 0x05 0 (leadOf s) d with addr := addr, aux := 1 + 2 * fn + 65536 * d.length }
    (sendRemote s c.id c.ctx (leadOf s) 4 0 d.length .none k mover issuer).charge c.ctx acHost d.length
  else if hostOk s fn addr d.length true then
    (hostWrite s addr d).charge c.ctx acHost d.length
  else endCmd s c.id stWindow

end Sys2Proof.Machine
end

