-- ==== Sys2Proof/Machine/HostCmds.lean ====
section
/-! DEFINITION. The host interface and the control and numerics commands (chapter 12; R66 to R69,
R600, R601): doorbells, rings, packet fetch and checks, completion entries, windows, and the
commands that complete as they issue. -/
namespace Sys2Proof.Machine

open Sys2Proof

/-! Doorbells and rings (R405 to R410, R444 to R446). -/

/-- The queue of page n of function fn, when that function reaches it (R403, R446). -/
def ringOf (s : State) (fn n : Nat) : Option Nat :=
  if !s.vfEnabled fn || 17 ≤ fn then none
  else if n = 64 then some (64 + fn)
  else if n < 64 && ringFn s n == fn then some n
  else none

/-- The device CP reaches host memory: the package runs and the PCIe link is up. -/
def hostUp (s : State) : Bool := alive s && s.host.linkUp

def ringFetching (r : Ring) : Bool := r.enabled && !r.draining && !r.err

/-- A doorbell write of any function is a wake event while `WAKE_DOORBELL` is 1 (R571). -/
def doorbellWake (s : State) : State := if bit (s.reg powerBlk) 3 then wakeEvent s 4 else s

/-- Slots of ring q that hold commands not yet fetched. -/
def ringAvail (s : State) (q : Nat) : Nat := ((s.ring q).sqTail + 2 ^ 32 - (s.ring q).sqHead) % 2 ^ 32

/-- Ring q asks for its next packet to be fetched, after the rings that already ask (R33). -/
def queueRing (q : Nat) (s : State) : State :=
  s.onCp fun c => { c with
    order := if c.order.contains q || ringAvail s q == 0 then c.order else c.order ++ [q] }

/-- SQ_TAIL (R407). -/
def execSqTail (fn n v : Nat) (s : State) : Out :=
  .next ((touchReg s fn (doorbellKey n 0)).when (hostUp s) fun s =>
    match ringOf s fn n with
    | none => s
    | some q =>
      let s := doorbellWake s
      let r := s.ring q
      let v := v % 2 ^ 32
      if !ringFetching r then s
      else if sqSize r < (v + 2 ^ 32 - r.sqHead) % 2 ^ 32 then ringError s q 1
      else queueRing q (s.updRing q fun r => { r with sqTail := v }))

/-- CQ_HEAD (R407, R408). -/
def execCqHead (fn n v : Nat) (s : State) : Out :=
  .next ((touchReg s fn (doorbellKey n 4)).when (hostUp s) fun s =>
    match ringOf s fn n with
    | none => s
    | some q =>
      let s := doorbellWake s
      let r := s.ring q
      let v := v % 2 ^ 32
      if !r.enabled && !r.draining then s
      else if (r.cqTail + 2 ^ 32 - r.cqHead) % 2 ^ 32 < (v + 2 ^ 32 - r.cqHead) % 2 ^ 32 then ringError s q 4
      else s.updRing q fun r => { r with cqHead := v })

/-- The ring lies wholly inside one window that grants its direction. -/
def ringInWindow (s : State) (f base bytes : Nat) (write : Bool) : Bool := hostOk s f base bytes write

/-- The cause for which ENABLE is refused, 0 for none (R405). -/
def enableCause (s : State) (f : Nat) (r : Ring) : Nat :=
  let sq := bits r.ctl 8 5
  let cq := bits r.ctl 16 5
  if r.sqBase % 4096 ≠ 0 || r.cqBase % 4096 ≠ 0 then 5
  else if sq < 6 || 16 < sq || cq < 6 || 16 < cq then 3
  else if !ringInWindow s f r.sqBase (64 * 2 ^ sq) false || !ringInWindow s f r.cqBase (32 * 2 ^ cq) true then 2
  else 0

/-- The ring holds fetched commands whose entries are not written. -/
def ringBusy (s : State) (q : Nat) : Bool :=
  !(s.waitingOf q).isEmpty || !(runningOf s q).isEmpty || !(Tbl.get [] s.cp.done q).isEmpty
    || s.fab.relayed.any (·.q == q)

/-- The control fields that a write changes: sizes only while ENABLE is 0, the vector in the
function's range. -/
def ctlFields (r : Ring) (f v : Nat) : Nat :=
  let c := if r.enabled then r.ctl else putBits (putBits r.ctl 8 5 (bits v 8 5)) 16 5 (bits v 16 5)
  if f = 0 || bits v 24 8 < 112 then putBits c 24 8 (bits v 24 8) else c

/-- A write of a ring control register. -/
def ringCtlWrite (s : State) (q f v : Nat) : State :=
  let r := s.ring q
  let s := s.updRing q fun r => { r with ctl := ctlFields r f v }
  if bit v 0 then
    if r.enabled then s
    else
      let c := enableCause s f (s.ring q)
      if c ≠ 0 then s.updRing q fun r => { r with err := true, errCause := c }
      else s.updRing q fun r => { r with
        enabled := true, draining := false, err := false, errCause := 0,
        sqTail := 0, sqHead := 0, cqTail := 0, cqHead := 0 }
  else if r.enabled then s.updRing q fun r => { r with enabled := false, draining := ringBusy s q }
  else s

/-- The control register of ring n of function fn. -/
def ringCtlReg (fn n : Nat) : Nat := fnBlk fn + (if n < 64 then 0x2010 + 64 * n else 0x1010)

/-- RING_ENABLE (R405): a write of 1 to ENABLE. -/
def execRingEnable (fn n v : Nat) (s : State) : Out :=
  .next ((touchReg s fn (ringCtlReg fn n)).when (hostUp s && bit v 0) fun s =>
    match ringOf s fn n with
    | none => s
    | some q => ringCtlWrite s q fn v)

/-- RING_DISABLE (R410): a write of 0 to ENABLE. -/
def execRingDisable (fn n v : Nat) (s : State) : Out :=
  .next ((touchReg s fn (ringCtlReg fn n)).when (hostUp s && !bit v 0) fun s =>
    match ringOf s fn n with
    | none => s
    | some q => ringCtlWrite s q fn v)

/-! Packet fetch and the checks of the header (R411 to R414, R422). -/

/-- The parameter lengths an opcode accepts (R422); none for an undefined opcode. -/
def plens (op : Nat) : List Nat :=
  if op ≤ 0x06 then [0]
  else if (0x10 ≤ op && op ≤ 0x15) || op = 0x34 then [1, 2, 3, 4, 5, 6, 7]
  else if op = 0x20 then [2]
  else if 0x21 ≤ op && op ≤ 0x23 then [3]
  else if op = 0x24 || op = 0x25 then [1]
  else if op = 0x30 || op = 0x31 then [2]
  else if op = 0x32 || op = 0x33 then [1]
  else if (0x40 ≤ op && op ≤ 0x43) || (0x50 ≤ op && op ≤ 0x53) || (0x60 ≤ op && op ≤ 0x62) then [1]
  else if 0x80 ≤ op then [1, 2, 3, 4, 5, 6, 7]
  else []

def ringAccepts (q op : Nat) : Bool :=
  if isContextQueue q then decide (op < 0x50) || (decide (0x60 ≤ op) && decide (op < 0x70))
  else op == 0 || op == 1 || op == 0x50 || op == 0x51
    || (q % 64 == 0 && (op == 0x52 || op == 0x53 || decide (0x80 ≤ op)))

/-- The listed bits of `INLINE`, as (byte, mask) pairs with 0xFF for whole bytes (R423). -/
def inlineMask (op b : Nat) : Nat :=
  let full (lo n : Nat) := if lo ≤ b && b < lo + n then 0xFF else 0
  if op = 2 then orNat (full 16 8) (if b = 24 then 1 else 0)
  else if op = 3 then orNat (orNat (full 16 17) (full 34 2)) (if b = 33 then 0xCF else if b = 36 then 1 else 0)
  else if op = 4 then orNat (full 16 20) (if b = 36 then 1 else 0)
  else if op = 5 then orNat (orNat (full 16 9) (full 28 8)) (if b = 25 then 3 else if b = 26 then 0xFF else 0)
  else if op = 6 then orNat (full 16 1) (full 24 8)
  else 0

def inlineOk (p : Packet) : Bool :=
  (List.range 48).all fun i =>
    andNat (p.hdr (16 + i) 1) (0xFF - inlineMask p.op (16 + i)) == 0

/-- Step 2 of R413. -/
def headerOk (p : Packet) : Bool :=
  decide (p.plen < 8) && p.hflags < 16 && p.hdr 4 2 < 4096 && p.ctx < 64
    && (plens p.op).contains p.plen && inlineOk p

/-- A seat of this lead's own hitch (R385). -/
def hitchSeat (s : State) (d : Nat) : Bool :=
  s.boot.devIdValid && s.devId % 64 == 0 && d / 64 == s.devId / 64 && d != s.devId
    && actPort s d != rpAbsent

/-- Steps 4 and 5 of R413; they are a seat's for a relayed packet. -/
def contextCheck (s : State) (q : Nat) (p : Packet) : Nat :=
  let x := p.ctx % 64
  let stale := !(s.ctx x).live || p.gen != s.gen x
  if isContextQueue q then
    (if x != q % 64 then stBadParam else if stale then stStale else 0)
  else if p.op = 0x51 && stale then stStale else 0

/-- The checks of R413 in order; 0 for a packet that waits at issue. -/
def packetCheck (s : State) (q : Nat) (p : Packet) : Nat :=
  if (plens p.op).isEmpty || !ringAccepts q p.op then stBadOpcode
  else if !headerOk p then stBadParam
  else if forSeat s p || (!bit p.hflags 3 && !s.boot.devIdValid) then
    (if hitchSeat s (p.hdr 4 2) then 0 else stBadParam)
  else contextCheck s q p

/-- The bytes of slots `h` to `h + n − 1`, wrapping past the end of the ring (R406). -/
def slotBytes (s : State) (r : Ring) (h : Nat) : Nat → List Byte
  | 0 => []
  | n + 1 => hostRead s (r.sqBase + 64 * (h % sqSize r)) 64 ++ slotBytes s r (h + 1) n

def slotsOk (s : State) (f : Nat) (r : Ring) (h n : Nat) : Bool :=
  (List.range n).all fun i => hostOk s f (r.sqBase + 64 * ((h + i) % sqSize r)) 64 false

def chargeRing (s : State) (q n : Nat) : State :=
  if isContextQueue q then s.charge (q % 64) acHost n else s

/-- The packet at the head of ring q, of `plen` parameter words past its header. -/
def fetchedPkt (s : State) (q plen : Nat) : Packet where
  bytes := slotBytes s (s.ring q) (s.ring q).sqHead (1 + plen)
  q := q
  fn := ringFn s q
  lead := none
  us := s.nowUs
  stride := s.nowStride

/-- A fetched packet is taken from its ring: it is checked, and waits at issue or is refused (R407, R413). -/
def takePacket (q plen : Nat) (p : Packet) (s : State) : State :=
  let s := dcpBeat (chargeRing s q (64 * (1 + plen)))
  let s := s.updRing q fun r => { r with sqHead := (r.sqHead + 1 + plen) % 2 ^ 32 }
  let s := queueRing q (s.onCp fun c => { c with order := c.order.erase q })
  let st := packetCheck s q p
  if st ≠ 0 then s.addCpl q (refusalCpl s p st 0)
  else
    let s := if isContextQueue q then arriveBatches (q % 64) p s else s
    s.onCp fun c => { c with waiting := Tbl.upd [] c.waiting q (· ++ [p]) }

/-- Ring q may be fetched from. -/
def mayFetch (s : State) (q : Nat) : Bool :=
  hostUp s && dieRuns s 5 && s.cp.fetching && !inRecovery s 6 0 && ringFetching (s.ring q) && s.vfEnabled (ringFn s q)
    && decide (0 < ringAvail s q) && !(isContextQueue q && (s.ctx (q % 64)).down.isSome)

/-- PLEN of the packet at the head of ring q. -/
def headPlen (s : State) (q : Nat) : Nat := fieldLE (slotBytes s (s.ring q) (s.ring q).sqHead 1) 1 1 % 8

/-- No ring that asked before q can be fetched from: its packet is not yet whole, or fetching is
stopped there (R33). -/
def oldestRing (s : State) (q : Nat) : Bool :=
  (s.cp.order.takeWhile (· != q)).all fun o =>
    !(mayFetch s o && (!slotsOk s (ringFn s o) (s.ring o) (s.ring o).sqHead 1
        || decide (1 + headPlen s o ≤ ringAvail s o)))

/-- PACKET_FETCH (R407, R413). -/
def execPacketFetch (q : Nat) (s : State) : Out :=
  withUnit (decide (q < 128)) <| s.when (mayFetch s q && oldestRing s q) fun s =>
    let r := s.ring q
    let f := ringFn s q
    if !slotsOk s f r r.sqHead 1 then ringError s q 2
    else
      let plen := headPlen s q
      if ringAvail s q < 1 + plen then s
      else if !slotsOk s f r r.sqHead (1 + plen) then ringError s q 2
      else takePacket q plen (fetchedPkt s q plen) s

/-! Completion entries (R408, R409, R416, R419 to R421). -/

def cplBytes (c : Cpl) (phase : Nat) : List Byte :=
  toLE 4 c.serial ++ toLE 1 c.status ++ toLE 1 c.op ++ toLE 1 c.ctx ++ toLE 1 c.gen ++ toLE 8 c.ovf
    ++ toLE 4 c.csw ++ toLE 4 c.runUs ++ toLE 4 c.overrunUs ++ toLE 2 c.src ++ toLE 1 0 ++ toLE 1 phase

def popDone (s : State) (q : Nat) : State :=
  s.onCp fun p => { p with
    done := Tbl.upd [] p.done q (·.drop 1)
    doneOrder := p.doneOrder.erase q }

/-- A disabled ring whose last entry has been written no longer drains (R410). -/
def settleRing (s : State) (q : Nat) : State :=
  if (s.ring q).draining && !ringBusy s q then s.updRing q fun r => { r with draining := false } else s

def chargeCpl (s : State) (q : Nat) : State :=
  if isContextQueue q then (s.charge (q % 64) acCommands 1).charge (q % 64) acHost 32 else s

/-- A relayed command's entry goes to its lead (R385). -/
def relayEntry (q : Nat) (c : Cpl) (lead epoch : Nat) (s : State) : State :=
  let k := { mkPkt 0x15 1 lead (cplBytes c 0) with aux := epoch + 65536 * (q % 128) }
  popDone (chargeCpl (sendPkt s k) q) q

/-- The place of the next entry in the completion ring of queue q. -/
def entryAddr (s : State) (q : Nat) : Nat := (s.ring q).cqBase + 32 * ((s.ring q).cqTail % cqSize (s.ring q))

/-- The entry is written with its phase, and signalled (R408, R419, R421). -/
def writeEntry (q : Nat) (c : Cpl) (s : State) : State :=
  let r := s.ring q
  let phase := (r.cqTail / cqSize r + 1) % 2
  let s := hostWrite s (entryAddr s q) (cplBytes c phase)
  let s := s.updRing q fun r => { r with cqTail := (r.cqTail + 1) % 2 ^ 32 }
  let s := settleRing (popDone (chargeCpl s q) q) q
  if c.noIrq then s else signalVector s (ringFn s q) (ringVector r)

/-- The next entry of queue q can be written, or sent to the lead. -/
def entryGoes (s : State) (q : Nat) : Bool :=
  match Tbl.get [] s.cp.done q with
  | [] => false
  | c :: _ => c.lead.isSome
      || (!cqFull s q && hostUp s && ((s.ring q).enabled || (s.ring q).draining)
        && hostOk s (ringFn s q) (entryAddr s q) 32 true)

/-- No entry formed before the next one of queue q can be written (R33). -/
def oldestDone (s : State) (q : Nat) : Bool :=
  (s.cp.doneOrder.takeWhile (· != q)).all fun o => !entryGoes s o

/-- COMPLETION_WRITE (R408, R419, R421); a seat sends a relayed command's entry to its lead
(R385). -/
def execCompletionWrite (q : Nat) (s : State) : Out :=
  withUnit (decide (q < 256)) <| s.when (alive s && dieRuns s 5 && oldestDone s q) fun s =>
    match Tbl.get [] s.cp.done q with
    | [] => s
    | c :: _ =>
      match c.lead with
      | some (lead, epoch) => relayEntry q c lead epoch s
      | none =>
        let r := s.ring q
        if cqFull s q || !hostUp s || !(r.enabled || r.draining) then s
        else if !hostOk s (ringFn s q) (entryAddr s q) 32 true then (if r.err then s else ringError s q 2)
        else writeEntry q c s

/-! Control commands (R422 to R427). -/

/-- NOP (R422). -/
def execNop (q : Nat) (s : State) : Out :=
  onHead 0x00 q s fun p s => completeNow s q p stOk 0

/-- FENCE (R424): waits at issue until every earlier command of the ring has completed. -/
def execFence (q : Nat) (s : State) : Out :=
  onHead 0x01 q s fun p s => if ringClear s q then completeNow s q p stOk 0 else s

/-- The stride a WAIT_STRIDE waits for. -/
def waitTarget (p : Packet) : Nat :=
  (p.hdr 16 8 + (if bit (p.hdr 24 1) 0 then p.stride else 0)) % 2 ^ 64

/-- WAIT_STRIDE (R424). -/
def execWaitStride (q : Nat) (s : State) : Out :=
  onHead 0x02 q s fun p s =>
    if waitTarget p ≤ s.nowStride then completeNow s q p stOk 0 else s

/-- Write or add 8 bytes in the device memory of context x (R425): the status. -/
def signalVa (s : State) (x va v : Nat) (add : Bool) : State × Nat :=
  let m := homeDie s x
  let (s, c, old) := if add then vaRead s m x va 8 else (s, 0, [])
  if c ≠ 0 then (s, stAborted)
  else
    let (s, c) := vaWrite s m x va (toLE 8 ((v + leNat old) % 2 ^ 64))
    (s, if c = 0 then stOk else stAborted)

/-- SIGNAL to this device's memory: it is written as the command issues. -/
def signalLocal (q : Nat) (p : Packet) (s : State) : State :=
  let i := issue s q p []
  let r := signalVa i.1 (q % 64) (p.hdr 16 8) (p.hdr 24 8) (bit (p.hdr 36 1) 0)
  finish (r.1.raise i.2 r.2) i.2

/-- SIGNAL to host memory: through the lead for a relayed command, else through the windows of its
function. -/
def signalHost (q : Nat) (p : Packet) (s : State) : State :=
  let x := q % 64
  let va := p.hdr 16 8
  let v := p.hdr 24 8
  let add := bit (p.hdr 36 1) 0
  let f := p.fn
  let i := issue s q p []
  let id := i.2
  let s := i.1
  if p.lead.isSome then
    let k := { mkPkt 0x05 0 (leadOf s) (toLE 8 v) with
               addr := va, aux := 1 + 2 * f + 64 * b2n add + 65536 * 8 }
    (sendRemote s id x (leadOf s) 4 0 8 .none k).charge x acHost 8
  else if hostOk s f va 8 true && (!add || hostOk s f va 8 false) then
    let old := if add then leNat (hostRead s va 8) else 0
    finish ((hostWrite s va (toLE 8 ((v + old) % 2 ^ 64))).charge x acHost 8) id
  else finish (s.raise id stWindow) id

/-- SIGNAL to another device: a REMOTE_WRITE that the command waits for. -/
def signalRemote (q : Nat) (p : Packet) (s : State) : State :=
  let t := p.hdr 32 2
  let i := issue s q p []
  let k := { mkPkt 0x01 0 (t % 4096) (toLE 8 (p.hdr 24 8)) with
             job := p.hdr 34 2, addr := p.hdr 16 8, aux := b2n (bit (p.hdr 36 1) 0) + 65536 * 8 }
  sendRemote i.1 i.2 (q % 64) (t % 4096) 2 0 8 .none k

/-- SIGNAL (R425). -/
def execSignal (q : Nat) (s : State) : Out :=
  onHead 0x03 q s fun p s =>
    let t := p.hdr 32 2
    if !ringClear s q then s
    else if bit t 14 && bit t 15 then completeNow s q p stBadParam 0
    else if bit t 15 then signalLocal q p s
    else if bit t 14 then signalHost q p s
    else signalRemote q p s

/-- The awaited value meets the condition (R426). -/
def waitMet (p : Packet) (v : Nat) : Bool :=
  if bit (p.hdr 36 1) 0 then v == p.hdr 24 8 else decide (p.hdr 24 8 ≤ v)

/-- Read the awaited value: issue when it meets the condition; a fault or an uncorrectable word
ends the wait without issue (R426). -/
def waitRead (q : Nat) (p : Packet) (s : State) : State :=
  let x := q % 64
  let (s, c, b) := vaRead s (homeDie s x) x (p.hdr 16 8) 8
  if c ≠ 0 then refuseAtIssue s q p stAborted
  else if waitMet p (leNat b) then completeNow s q p stOk 0
  else s

/-- WAIT_VALUE (R426). -/
def execWaitValue (q : Nat) (s : State) : Out := onHead 0x04 q s (waitRead q)

/-- WAIT_VALUE_RECHECK (R426): the value is read again. -/
def execWaitValueRecheck (q : Nat) (s : State) : Out := onHead 0x04 q s fun p s => waitRead q p s

/-- WAIT_VALUE_TIMEOUT (R426, R29): a landing that meets the condition in the cycle of expiry
wins. -/
def execWaitValueTimeout (q : Nat) (s : State) : Out :=
  withUnit (decide (q < 256)) <|
    match s.headPkt q with
    | some p =>
      if p.op = 0x04 && !forSeat s p && dieRuns s 5 && p.hdr 32 4 != 0 then
        let x := q % 64
        let (c, pa) := peek s (homeDie s x) x (p.hdr 16 8) false
        if c = 0 && (ueWords s pa 8).isEmpty && waitMet p (leNat (dpaRead s pa 8)) then
          (if mayIssue s q p then completeNow s q p stOk 0 else s)
        else refuseAtIssue s q p stTimeout
      else s
    | none => s

/-- The handle entry that HANDLE_BIND names (R126, R423). -/
def bindEntry (s : State) (x : Nat) (p : Packet) : Handle :=
  { Handle.unbound with
    base := p.hdr 18 2, rows := p.hdr 20 2, width := p.hdr 22 2, fmt := p.hdr 24 1,
    retain := bit (p.hdr 25 1) 0, aliased := bit (p.hdr 25 1) 1, aliasOf := p.hdr 26 1,
    col0 := p.hdr 28 4, cols := p.hdr 32 4, ctx := x, gen := s.gen x }

/-- HANDLE_BIND (R128, R427). -/
def execHandleBind (q : Nat) (s : State) : Out :=
  onHead 0x05 q s fun p s =>
    let c := p.hdr 16 1
    let h := p.hdr 17 1
    let e := bindEntry s (q % 64) p
    if diesIssue s [coreDie c] then
      if ctxOwnsCore s (q % 64) c && decide (h < 64) && !fmtReserved e.fmt && decide (e.aliasOf < 64)
          && !(hnd s c h).bound && bindOk s c h e then
        completeNow (wakeGroups (updHnd (s.beat (dieCpath (coreDie c) 0)) c h fun _ => e) c e) q p stOk 0
      else completeNow s q p stBadParam 0
    else s

/-- HANDLE_RELEASE (R427, R129): waits until every bound handle of the mask can be released. -/
def execHandleRelease (q : Nat) (s : State) : Out :=
  onHead 0x06 q s fun p s =>
    let x := q % 64
    let c := p.hdr 16 1
    let hs := (bitsOf (p.hdr 24 8) 64).filter fun h => (hnd s c h).bound
    if !diesIssue s [coreDie c] then s
    else if !ctxOwnsCore s x c then completeNow s q p stBadParam 0
    else if hs.any fun h => !ownedBy (hnd s c h) x (s.gen x) then completeNow s q p stStale 0
    else if hs.all fun h => canRelease (hnd s c h) then
      completeNow (hs.foldl (fun s h => unbind s c h) (s.beat (dieCpath (coreDie c) 0))) q p stOk 0
    else s

/-! Numerics commands (R66 to R69, R600, R601). -/

def tfmtOk (t : Nat) : Bool := t == 0 || t == 1 || t == 2 || t == 3 || t == 4 || t == 6

/-- The conditions of R67. -/
def scaleSetOk (p : Packet) : Bool :=
  let first := p.par 0 2
  let n := p.par 2 2
  let ctl := p.par 4 4
  let fl := p.par 8 4
  n != 0 && decide (first + n ≤ 4096) && decide (fl < 8) && allZero (slice p.params 12 52)
    && decide (ctl < 2 ^ 16) && !(first == 0 && (bit fl 0 || bit fl 1))
    && (!bit fl 0 || (bits ctl 0 8 != 128 && tfmtOk (ctlTfmt ctl)))

/-- One slot under SCALE_SET (R66). -/
def scaleSetBytes (b : List Byte) (ctl fl : Nat) : List Byte :=
  let c := slotCtl b
  let c := if bit fl 0 then c / 2 ^ 16 * 2 ^ 16 + ctl % 2 ^ 16 else c
  let c := if bit fl 1 then c % 2 ^ 16 else c
  let b := if bit fl 1 then patch b 0 (List.replicate 64 0#8) else b
  let b := patch b 64 (toLE 4 c)
  if bit fl 2 then patch b 72 (List.replicate 8 0#8) else b

/-- SCALE_SET (R66, R67). -/
def execScaleSet (q : Nat) (s : State) : Out :=
  onHead 0x60 q s fun p s =>
    if !scaleSetOk p then completeNow s q p stBadParam 0
    else
      let x := q % 64
      let s := (List.range (p.par 2 2)).foldl (fun s i =>
        let n := p.par 0 2 + i
        let (s, b) := readSlot s x n
        writeSlot s x n (scaleSetBytes b (p.par 4 4) (p.par 8 4))) s
      completeNow s q p stOk 0

/-- The images of `n` slots, in slot order. -/
def slotImages (s : State) (x first n : Nat) : State × List Byte :=
  (List.range n).foldl (fun (a : State × List Byte) i =>
    let (s, b) := readSlot a.1 x (first + i)
    (s, a.2 ++ b)) (s, [])

def scaleReadOk (p : Packet) : Bool :=
  p.par 2 2 != 0 && decide (p.par 0 2 + p.par 2 2 ≤ 4096) && decide (p.par 4 4 < 2)
    && allZero (slice p.params 16 48)

/-- SCALE_READ to the host of a relayed command: the lead checks the whole destination first; the
images follow once it answers (R387, R601; assumption log 22). -/
def scaleReadAsk (q : Nat) (p : Packet) (s : State) : State :=
  let (s, id) := issue s q p []
  let k := { mkPkt 0x05 0 (leadOf s) [] with
    addr := p.par 8 8, aux := 1 + 2 * p.fn + 128 + 65536 * p.par 2 2 }
  sendRemote s id (q % 64) (leadOf s) 6 0 0 .none k

/-- The lead granted the destination: each slot's image is sent (R68, R601). -/
def scaleReadSend (c : Cmd) (s : State) : State :=
  let (s, img) := slotImages s c.ctx (c.pkt.par 0 2) (c.pkt.par 2 2)
  (List.range (c.pkt.par 2 2)).foldl (fun s i =>
    hostPut s c c.pkt.fn (c.pkt.par 8 8 + 128 * i) (slice img (128 * i) 128)) s

/-- SCALE_READ (R601, R68). A translation fault leaves the destination undefined. -/
def execScaleRead (q : Nat) (s : State) : Out :=
  onHead 0x61 q s fun p s =>
    let n := p.par 2 2
    let x := q % 64
    let a := p.par 8 8
    if !scaleReadOk p then completeNow s q p stBadParam 0
    else if bit (p.par 4 4) 0 then
      if p.lead.isSome then scaleReadAsk q p s
      else if hostOk s p.fn a (128 * n) true then
        let (s, img) := slotImages s x (p.par 0 2) n
        completeNow ((hostWrite s a img).charge x acHost (128 * n)) q p stOk 0
      else completeNow s q p stWindow 0
    else
      let (s, img) := slotImages s x (p.par 0 2) n
      let (s, c) := vaWrite s (homeDie s x) x a img
      if c = 0 then completeNow s q p stOk 0
      else completeNow (if c = 6 then s else openVa s x a (128 * n)) q p stAborted 0

/-- SEED_SET (R69, R601). -/
def execSeedSet (q : Nat) (s : State) : Out :=
  onHead 0x62 q s fun p s =>
    if !allZero (slice p.params 8 56) then completeNow s q p stBadParam 0
    else completeNow (s.updCtx (q % 64) fun c => { c with seed := BitVec.ofNat 64 (p.par 0 8) }) q p stOk 0

/-! TLB invalidation (R259, R260). -/

/-- A write of `PCI_TLB_INV` by function fn: the named entries are dropped from every MMU; BUSY
stays until the requests translated through them have ended. -/
def tlbInvalidate (s : State) (fn n : Nat) : State :=
  let x := bits n 48 6
  let all := bit n 63
  if (Tbl.get none s.host.tlbInv fn).isSome || ringFn s x ≠ fn || bits n 27 5 ≠ 0 || bits n 54 9 ≠ 0
      || (!all && bits n 32 16 == 0) then s
  else
    let lo := bits n 0 27
    let hi := lo + bits n 32 16
    let named := fun (c vpn : Nat) => c == x && (all || (decide (lo ≤ vpn) && decide (vpn < hi)))
    let reqs := (s.mov.flight.filter fun r => !r.host && named r.ctx (r.va / 2 ^ 21)).map (·.id)
    let s := s.onMem fun m => { m with tlb := m.tlb.filter fun t => !named t.ctx t.vpn }
    s.onHost fun h => { h with
      tlbInv := Tbl.insert h.tlbInv fn (some ⟨x, all, lo, bits n 32 16, reqs⟩) }

/-- TLB_INVALIDATE. -/
def execTlbInvalidate (fn : Nat) (v : W64) (s : State) : Out :=
  .next ((touchReg s fn (fnBlk fn + 0x1100)).when (hostUp s && s.vfEnabled fn && decide (fn < 17)) fun s =>
    tlbInvalidate s fn v.toNat)

/-- TLB_INV_DONE (R260). -/
def execTlbInvDone (fn : Nat) (s : State) : Out :=
  .next (s.when (alive s) fun s =>
    match Tbl.get none s.host.tlbInv fn with
    | some i =>
      if s.mov.flight.any fun r => i.reqs.contains r.id then s
      else s.onHost fun h => { h with tlbInv := Tbl.erase h.tlbInv fn }
    | none => s)

/-! Windows and ATS (R439 to R442). -/

/-- Host requests made for function f that have not completed. -/
def hostInFlight (s : State) (f : Nat) : List Nat :=
  (s.mov.flight.filter fun r => r.host && r.fn == f).map (·.id)

/-- A window write by the PF: window n of function f. -/
def writeWindow (s : State) (f n : Nat) (v : W128) : State :=
  let v := v &&& ((BitVec.ofNat 128 (2 ^ 106 - 1)) &&& ~~~ (BitVec.ofNat 128 (2 ^ 12 - 1)))
  let reqs := hostInFlight s f
  s.onHost fun h => { h with
    windows := Tbl.set 0#128 h.windows (16 * f + n) v
    winBusy := Tbl.insert h.winBusy f (some (dedupNat ((Tbl.get none h.winBusy f).getD [] ++ reqs))) }

/-- The register through which the PF writes window n of function f. -/
def windowReg (f n : Nat) : Nat := if f = 0 then 0x3000 + 16 * n else 0x4000 + 256 * (f - 1) + 16 * n

/-- WINDOW_WRITE (R439, R441). -/
def execWindowWrite (fn f n : Nat) (v : W128) (s : State) : Out :=
  .next ((touchReg s fn (windowReg f n)).when (hostUp s && fn == 0 && decide (f < 17) && decide (n < 16)) fun s => writeWindow s f n v)

/-- WIN_BUSY_CLEAR (R441). -/
def execWinBusyClear (f : Nat) (s : State) : Out :=
  .next (s.when (alive s) fun s =>
    match Tbl.get none s.host.winBusy f with
    | some l =>
      if s.mov.flight.any fun r => l.contains r.id then s
      else s.onHost fun h => { h with winBusy := Tbl.erase h.winBusy f }
    | none => s)

/-- ATS invalidations whose requests have all completed are answered (R442). -/
def settleAts (s : State) : State :=
  let done := s.host.atsInv.filter fun a => !(s.mov.flight.any fun r => a.2.2.2.contains r.id)
  s.onHost fun h => { h with
    atsAnswered := h.atsAnswered + done.length
    atsInv := h.atsInv.filter fun a => !done.contains a }

/-- ATS_INVALIDATION (R442): pages of 4 KiB of function fn; requests in flight that touch them
complete first. -/
def execAtsInvalidation (fn page pages : Nat) (s : State) : Out :=
  .next (s.when (hostUp s && s.vfEnabled fn && decide (fn < 17)) fun s =>
    let reqs := (s.mov.flight.filter fun r => r.host && r.fn == fn
      && meets (r.va / 4096) ((r.va + r.len + 4095) / 4096 - r.va / 4096) page pages).map (·.id)
    settleAts (s.onHost fun h => { h with atsInv := h.atsInv ++ [(fn, page, pages, reqs)] }))

/-- DOE_DISCOVERY (R401): the mailbox carries DOE discovery and CMA/SPDM (the data objects of the
PCIe specification, assumption log 23). -/
def execDoeDiscovery (idx : Nat) (s : State) : Out :=
  .next (s.when (hostUp s) fun s =>
    let body := if idx % 256 = 0 then 0x0001 + 0x00 * 2 ^ 16 + 1 * 2 ^ 24
      else if idx % 256 = 1 then 0x0001 + 0x01 * 2 ^ 16
      else 0xFFFF
    s.onHost fun h => { h with doeOut := toLE 4 0x0001 ++ toLE 4 3 ++ toLE 4 body })

/-! The debug window (R404). -/

def dbgCtl : Nat := fnBlk 0 + 0x5000

/-- BAR4_READ: answers the bytes, or all ones poisoned where a word is uncorrectable. -/
def execBar4Read (off len : Nat) (s : State) : Out :=
  .next (s.when (hostUp s && decide (off + len ≤ 2 ^ 36)) fun s =>
    let a := s.fld dbgCtl 0 3 * 2 ^ 36 + off
    let (s, bad) := checkWords s a len none
    if !bad then s.onRegs fun r => { r with out := dpaRead s a len, outPoisoned := false }
    else s.onRegs fun r => { r with out := List.replicate len 0xFF#8, outPoisoned := true })

/-- BAR4_WRITE: dropped unless WRITE_EN is 1 and the PF holds the rein. -/
def execBar4Write (off : Nat) (d : List Byte) (s : State) : Out :=
  .next (s.when (hostUp s && decide (off + d.length ≤ 2 ^ 36) && bit (s.reg dbgCtl) 3
      && holdsRein s Master.pf) fun s =>
    (dpaPut s (s.fld dbgCtl 0 3 * 2 ^ 36 + off) d none).1)

/-- VF_ENABLE (R403). -/
def execVfEnable (f : Nat) (on : Bool) (s : State) : Out :=
  withUnit (decide (1 ≤ f) && decide (f ≤ 16)) <| s.when (hostUp s) fun s =>
    s.onHost fun h => { h with vfEn := setBit h.vfEn f on }

/-! The lead's relay (R385, R386, R395). -/

def relayKey (seat x : Nat) : Nat := 128 * (seat % 64) + x

/-- Relay credits in use for a seat and a ring's context (an admin ring counts as one). -/
def relayUsed (s : State) (seat q : Nat) : Nat :=
  (s.fab.relayed.filter fun r => r.seat == seat && r.q == q).length

/-- The relay packet that carries `p` from queue q to its seat. -/
def relayPkt (s : State) (q : Nat) (p : Packet) : FPkt :=
  let d := p.hdr 4 2
  let epoch := Tbl.get 0 s.fab.epoch d
  let prefx := toLE 1 p.fn ++ toLE 1 (16 * epoch) ++ toLE 2 (if q < 64 then q else 64) ++ List.replicate 12 0#8
  let x := if q < 64 then q else 0
  { mkPkt 0x04 0 d (prefx ++ p.bytes) with ctx := x, gen := s.gen x }

/-- The lead keeps a record of the packet it has relayed. -/
def noteRelayed (q : Nat) (p : Packet) (s : State) : State :=
  dcpBeat ((s.popPkt q).onFab fun f => { f with relayed := f.relayed ++ [
    { seat := p.hdr 4 2, ctx := q, q := q, fn := p.fn, serial := p.serial, op := p.op, gen := p.gen,
      pctx := p.ctx % 64, noIrq := bit p.hflags 2 }] })

/-- A packet that must not issue before the earlier commands of its ring have completed: it is relayed
once those left run on its own seat, which keeps its own order (R418, R424, R425). -/
def relayWaits (s : State) (q d : Nat) (p : Packet) : Bool :=
  (bit p.hflags 1 || p.op == 0x01 || p.op == 0x03)
    && (!(runningOf s q).isEmpty || s.fab.relayed.any fun r => r.q == q && r.seat != d)

/-- RELAY_SEND (R385, R386, R395). -/
def execRelaySend (q : Nat) (s : State) : Out :=
  withUnit (decide (q < 128)) <|
    match s.headPkt q with
    | none => s
    | some p =>
      let d := p.hdr 4 2
      if !forSeat s p || !dieRuns s 5 || cqFull s q || relayWaits s q d p then s
      else if !levelShared s d then refuseAtIssue s q p stLevel
      else if 8 ≤ relayUsed s d q || s.fab.purging.contains d then s
      else if (originate s (relayPkt s q p)).1 then noteRelayed q p (originate s (relayPkt s q p)).2
      else refuseAtIssue (originate s (relayPkt s q p)).2 q p stBadParam

end Sys2Proof.Machine
end

