-- ==== Sys2Proof/Machine/Strides.lean ====
section
/-! DEFINITION. The stride (R447 to R450), gait-table slots and runs (R459 to R468), and
accounting snapshots (R475 to R478). -/
namespace Sys2Proof.Machine

open Sys2Proof

/-! Time. -/

/-- A context of a paddock in open mode with a command running is charged for the time that passes
(R475). -/
def chargeOpen (n : Nat) (s : State) (x : Nat) : State :=
  if (s.pdk (s.ctx x).pdk).loaded || (runningInCtx s x).isEmpty then s else s.charge x acHeld n

/-- `n` µs pass: the local counter and fabric time advance together (R388, R479). -/
def advanceUs (n : Nat) (s : State) : State :=
  let s := (s.sch.ctxs.map (·.1)).foldl (chargeOpen n) s
  s.onTim fun t => { t with localUs := t.localUs + n, fabricNs := t.fabricNs + 1000 * n }

/-- The next boundary the counter takes: the first stride of the active values above the count
(R449). -/
def nextStride (s : State) : Nat := max (s.tim.count + 1) s.tim.baseStride

/-- Let time pass until a fabric time. -/
def waitUntil (s : State) (ns : Nat) : State := advanceUs (ceilDiv (ns - s.tim.fabricNs) 1000) s

/-- The last boundary at or before the present fabric time. -/
def lastStride (s : State) : Nat :=
  s.tim.baseStride + (s.tim.fabricNs - s.tim.baseNs) / (1000 * s.tim.period)

/-! Gait tables (R461, R463). -/

def tableQ (l : List Slot) : Nat := sumNat (l.map (·.len))

/-- The slot that holds offset `o` of a period, and its first offset. -/
def slotAt : List Slot → Nat → Nat → Nat → Nat × Nat
  | [], _, i, b => (i, b)
  | a :: t, o, i, b => if o < b + a.len then (i, b) else slotAt t o (i + 1) (b + a.len)

/-- The index of the slot of paddock p at stride n, and the stride at which it begins. -/
def slotOf (p : Pdk) (n : Nat) : Nat × Nat :=
  let o := (n - p.anchor) % tableQ p.table
  let (i, b) := slotAt p.table o 0 0
  (i, n - (o - b))

/-- The live context a slot resolves to (R463). -/
def resolveSlot (s : State) (p : Nat) (a : Slot) : Option Nat :=
  let x := if a.byJob then ctxOfJob s a.name else some (a.name % 64)
  match x with
  | some x => if (s.ctx x).live && (s.ctx x).pdk == p && decide (s.pwr.gait < 3) then some x else none
  | none => none

/-- Strides of the consecutive slots from index `i` that resolve to context x, over at most one
period; none when every slot does. -/
def runSlots (s : State) (p x : Nat) (l : List Slot) : Nat → Nat → Option Nat
  | 0, _ => none
  | fuel + 1, i =>
    match l[i % l.length]? with
    | some a =>
      if resolveSlot s p a = some x then (runSlots s p x l fuel (i + 1)).map (· + a.len) else some 0
    | none => some 0

/-- The stride that ends the run beginning with the slot at index `i` at stride `n`. -/
def runEndStride (s : State) (p x i n : Nat) : Nat :=
  match runSlots s p x (s.pdk p).table ((s.pdk p).table.length) i with
  | some k => n + k
  | none => 2 ^ 64

/-! The boundary (R448, R450). -/

/-- A multiple of `k` lies among the strides above `lo` up to `hi`. -/
def crossed (lo hi k : Nat) : Bool := decide (k ≠ 0) && decide (lo / k < hi / k)

/-- The stride `c` named by a commit register is among those taken at this boundary. -/
def commits (lo hi c : Nat) : Bool := decide (c ≠ 0) && decide (lo < c) && decide (c ≤ hi)

/-- The part of a run's debit that falls in its first `k` strides, in µs. -/
def debitIn (r : Run) (k per : Nat) : Nat := min r.debitUs (k * per)

/-- Charge `m` strides of table time of paddock p (R475, R477), from stride `lo`. -/
def chargeStrides (lo m : Nat) (s : State) (p : Nat) : State :=
  let d := s.pdk p
  if !d.loaded then s
  else
    let us := m * s.tim.period
    let s := s.accAdd (accPdk p acElapsed) us
    match d.run with
    | some r =>
      let deb := debitIn r (lo + m - r.startStride) s.tim.period - debitIn r (lo - r.startStride) s.tim.period
      (s.charge r.ctx acHeld (us - deb)).accAdd (accPdk p acDebit) deb
    | none => s.accAdd (accPdk p acIdle) us

/-- A change of gait is to be considered at this boundary (R552, R553, R559, R571). -/
def gaitDue (s : State) (n : Nat) : Bool :=
  (s.pwr.wake && s.pwr.gait == 3) || s.pwr.pending.any (fun p => decide (p.2 ≤ n))
    || (s.pwr.phase == 0 && wantedGait s != s.pwr.gait) || s.pwr.rails.any (·.again)

def tableDue (p : Pdk) (n : Nat) : Bool :=
  match p.pend with
  | some (l, a) => l.isEmpty || (decide (a ≤ n) && (n - a) % tableQ l == 0)
  | none => false

/-- A slot of paddock p begins at a boundary that takes the count from `lo` to `hi`. -/
def slotDue (p : Pdk) (lo hi : Nat) : Bool :=
  if tableDue p hi then p.pend.any (fun q => !q.1.isEmpty)
  else p.loaded && decide (p.anchor ≤ hi) && decide (lo < (slotOf p hi).2)

def runEnded (p : Pdk) (hi : Nat) : Bool :=
  p.run.any fun r => decide (r.endStride ≤ hi) || tableDue p hi

def overrunLimitReg (s : State) : Nat := s.fld (timBlk + 0x50) 0 8

/-- Context x has a command whose run ended `LIMIT` strides ago (R468). -/
def limitDue (s : State) (x hi : Nat) : Bool :=
  (runningInCtx s x).any fun c =>
    c.overrun && c.runEnd.any fun e => decide (e.1 + overrunLimitReg s ≤ hi)

/-- The events due at a boundary, in the order of R450. -/
def dueList (s : State) (lo hi : Nat) : List Due :=
  let pdks := List.range 16
  (if crossed lo hi (s.fld accBlk 0 12) then [.snapshot] else [])
    ++ (if crossed lo hi (s.fld healthBlk 0 13) then [.hoofbeat] else [])
    ++ (if s.pwr.full then [.capStep] else [])
    ++ (if gaitDue s hi then [.gait] else [])
    ++ (if s.pwr.phase = 2 && s.pwr.target == 3 then [.walkGate] else [])
    ++ (if s.pwr.gait = 4 && s.pwr.wake && s.pwr.phase == 0 then [.haltExit] else [])
    ++ (if s.tim.loadNow || commits lo hi (s.reg (timBlk + 0x18)) then [.strideValues] else [])
    ++ (if commits lo hi (s.reg (trcBlk + 0x8)) then [.routeTable] else [])
    ++ (pdks.filter fun p => tableDue (s.pdk p) hi).map .gaitTable
    ++ (pdks.filter fun p => runEnded (s.pdk p) hi).map .runEnd
    ++ (pdks.filter fun p => slotDue (s.pdk p) lo hi).map .slotBegin
    ++ (if crossed lo hi (s.fld (groomBlk + 0x18) 0 12) then [.telemetry] else [])
    ++ (if s.grm.holder.cls ≠ 0 && s.grm.expiry ≤ hi then [.reinLease] else [])
    ++ ((List.range (s.grm.nonces.filter fun n => n.stride + 1000 ≤ hi).length).map .nonce)
    ++ ((s.hlt.fenceCount.filter fun f => f.2.2 + s.fld (healthBlk + 0x8) 8 24 ≤ hi).map fun f => .fenceWindow f.1)
    ++ (pdks.filter fun p => (s.pdk p).change.any (!·.2.2)).map .paddockSet
    ++ ((List.range 64).filter fun x => limitDue s x hi).map .overrunLimit

/-- What still happens at a boundary after a thermal trip (R567): the always-on block and the Groom run. -/
def aonDue : Due → Bool
  | .snapshot | .strideValues | .telemetry | .reinLease | .nonce _ => true
  | _ => false

/-- Time passes to the next stride boundary unless it has come; the counter advances to the last boundary
reached, the strides are charged, and the events of the boundary fall due. -/
def takeBoundary (s : State) : State :=
  let s := waitUntil s (boundaryNs s (nextStride s))
  let lo := s.tim.count
  let hi := lastStride s
  let s := (List.range 16).foldl (chargeStrides lo (hi - lo)) s
  let s := if leaseFrozen s then s.onGrm fun g => { g with expiry := g.expiry + (hi - lo) } else s
  let evs := (dueList s lo hi).filter fun e => !s.pwr.trip || aonDue e
  ((retrySr s).onTim fun t => { t with count := hi, boundaryUs := t.localUs, due := evs }).onPwr fun p => { p with full := decide (stretchK s = 56) }

/-- STRIDE_BOUNDARY (R447, R448, R450): time passes until the next boundary unless it has come;
the counter advances to the last boundary reached, and what is due there becomes due. -/
def execStrideBoundary (s : State) : Out :=
  .next (s.when (aon s && s.tim.due.isEmpty) takeBoundary)

/-- STRIDE_VALUES_COMMIT (R449). -/
def execStrideValuesCommit (s : State) : Out :=
  .next <| popDue s .strideValues fun s => s.onTim fun t => { t with
    period := s.fld timBlk 0 14
    baseStride := s.reg (timBlk + 0x8)
    baseNs := s.reg (timBlk + 0x10)
    loadNow := false }

/-- TIM_COMMIT_STRIDE (R449). -/
def execTimCommitStride (fn : Nat) (v : W64) (s : State) : Out :=
  .next ((touchReg s fn (timBlk + 0x18)).when (owWrite s fn) fun s => s.setReg (timBlk + 0x18) v.toNat)

/-- LOAD_NOW (R449): the pending values become active at the next boundary. -/
def execLoadNow (fn : Nat) (v : W64) (s : State) : Out :=
  .next ((touchReg s fn (timBlk + 0x20)).when (owWrite s fn && bit v.toNat 0) fun s => s.onTim fun t => { t with loadNow := true })

/-! Slots and runs (R463 to R467). -/

/-- The commands of a context's run begin to overrun. -/
def markOverruns (s : State) (x : Nat) (e : Option (Nat × Nat)) : State :=
  s.onCp fun c => { c with
    cmds := c.cmds.map fun k =>
      if isContextQueue k.pkt.q && k.ctx == x && k.runEnd == e then { k with overrun := true } else k }

/-- End the run in progress: its running commands overrun from now (R467). -/
def endRun (s : State) (p : Nat) : State :=
  match (s.pdk p).run with
  | none => s
  | some r =>
    let e := (r.endStride, boundaryNs s r.endStride)
    let now := (s.nowStride, s.tim.boundaryUs)
    -- a run that a new table cuts short ends at this boundary (R462)
    let s := s.onCp fun c => { c with
      cmds := c.cmds.map fun k =>
        if isContextQueue k.pkt.q && k.ctx == r.ctx && k.runEnd == some e then
          { k with runEnd := some now } else k }
    let s := markOverruns s r.ctx (some now)
    s.updPdk p fun d => { d with run := none, lastCtx := if r.switched then some r.ctx else d.lastCtx }

/-- RUN_END (R463, R467). -/
def execRunEnd (p : Nat) (s : State) : Out :=
  withUnit (decide (p < 16)) (popDue s (.runEnd p) fun s => endRun s p)

/-- Begin a run of context x with the slot at index i: its debit is applied, at most its length
(R37: a debit of the whole length forfeits it), and the rest is carried. -/
def beginRun (s : State) (p x i : Nat) : State :=
  let n := s.nowStride
  let e := runEndStride s p x i n
  let len := (e - n) * s.tim.period
  let c := s.ctx x
  let deb := min c.debitUs len
  let s := s.updCtx x fun c => { c with debitUs := c.debitUs - deb }
  s.updPdk p fun d => { d with
    curIdle := false
    curCtx := x
    run := some {
      ctx := x, startStride := n, endStride := e, startNs := boundaryNs s n, debitUs := deb,
      switched := d.lastCtx == some x && c.resident && d.switch.isNone,
      switchUs := s.nowUs, issuedAny := false } }

/-- SLOT_BEGIN (R463, R37, R555). -/
def execSlotBegin (p : Nat) (s : State) : Out :=
  withUnit (decide (p < 16)) <| popDue s (.slotBegin p) fun s =>
    let d := s.pdk p
    let (i, _) := slotOf d s.nowStride
    let s := s.updPdk p fun d => { d with curSlot := i }
    match (d.table[i]?).bind (resolveSlot s p) with
    | none => s.updPdk p fun d => { d with curIdle := true, run := none }
    | some x =>
      if d.run.any fun r => r.ctx == x && decide (s.nowStride < r.endStride) then
        s.updPdk p fun d => { d with curIdle := false, curCtx := x }
      else beginRun s p x i

/-! Gait tables (R453, R459, R460, R462). -/

def slotEntry (e : Nat) : Slot := ⟨bits e 0 16, bit e 22, bits e 16 6 + 1⟩
def slotEntryOk (e : Nat) : Bool := bits e 23 9 == 0 && (bit e 22 || bits e 6 10 == 0)

/-- GAIT_LOAD. -/
def execGaitLoad (q : Nat) (s : State) : Out :=
  onHead 0x53 q s fun p s =>
    let d := p.par 0 1
    let n := p.par 2 2
    let a := p.par 16 8
    if 16 ≤ d || 256 < n || p.par 1 1 != 0 || p.par 4 4 != 0 || !allZero (slice p.params 24 40) then
      completeNow s q p stBadParam 0
    else if !holdsRein s Master.pf then completeNow s q p stNotOwner 0
    else if n = 0 then completeNow (s.updPdk d fun t => { t with pend := some ([], 0) }) q p stOk 0
    else if !hostOk s 0 a (4 * n) false then completeNow s q p stWindow 0
    else
      let es := (List.range n).map fun i => leNat (hostRead s (a + 4 * i) 4)
      if es.all slotEntryOk then
        completeNow (s.updPdk d fun t => { t with pend := some (es.map slotEntry, p.par 8 8) }) q p stOk 0
      else completeNow s q p stBadParam 0

/-! Accounting (R476, R478, R482, R483). -/

def accSet (s : State) (base key n : Nat) : State :=
  (List.range n).foldl (fun s i => s.setReg (base + 8 * i) (Tbl.get 0 s.sch.acc (key + i))) s

def accErase (s : State) (key n : Nat) : State :=
  s.onSch fun c => { c with acc := c.acc.filter fun e => !(decide (key ≤ e.1) && decide (e.1 < key + n)) }

/-- Copy every counter to the snapshot registers. -/
def snapshotAll (s : State) : State :=
  let s := (List.range 64).foldl (fun s x => accSet s (accBlk + 0x1000 + 0x80 * x) (accCtx x 0) 10) s
  let s := (List.range 16).foldl (fun s p => accSet s (accBlk + 0x4000 + 0x80 * p) (accPdk p 0) 13) s
  let s := accSet s (accBlk + 0x20) accDev 2
  s.setReg (accBlk + 0x18) s.nowStride

/-- Apply the pending clears. -/
def applyClears (s : State) : State :=
  let s := (bitsOf (s.reg (accBlk + 0x8)) 64).foldl (fun s x => accErase s (accCtx x 0) 16) s
  let pd := s.reg (accBlk + 0x10)
  let s := (bitsOf pd 16).foldl (fun s p => accErase s (accPdk p 0) 16) s
  let s := if bit pd 16 then accErase s accDev 2 else s
  (s.setReg (accBlk + 0x8) 0).setReg (accBlk + 0x10) 0

/-- ACCOUNTING_SNAPSHOT (R478). -/
def execAccountingSnapshot (s : State) : Out :=
  .next <| popDue s .snapshot fun s => applyClears (snapshotAll s)

/-- Marks for clearing accumulate (R478). -/
def markClear (s : State) (a v : Nat) : State :=
  let m := if a = accBlk + 0x8 then v % 2 ^ 64 else v % 2 ^ 17
  s.setReg a (orNat (s.reg a) m)

/-- ACC_CLEAR (R478, R482). -/
def execAccClear (fn addr : Nat) (v : W64) (s : State) : Out :=
  .next ((touchReg s fn (addr)).when (owWrite s fn && (addr == accBlk + 0x8 || addr == accBlk + 0x10)) fun s => markClear s addr v.toNat)

/-- FENCE_WINDOW_EXPIRY (R544): the counter returns to 0. -/
def execFenceWindowExpiry (u : Nat) (s : State) : Out :=
  .next <| popDue s (.fenceWindow u) fun s => s.onHlt fun h => { h with fenceCount := Tbl.erase h.fenceCount u }

/-- NONCE_EXPIRY (R498): the oldest nonce given 1,000 strides ago ceases to be valid. -/
def execNonceExpiry (k : Nat) (s : State) : Out :=
  .next <| popDue s (.nonce k) fun s =>
    match s.grm.nonces.find? fun n => n.stride + 1000 ≤ s.nowStride with
    | some n => s.onGrm fun g => { g with nonces := g.nonces.erase n }
    | none => s

end Sys2Proof.Machine
end

