-- ==== Sys2Proof/Machine/MoverOps.lean ====
section
/-! DEFINITION. The movers (chapter 7): jobs, the requests they issue, and their progress. -/
namespace Sys2Proof.Machine

open Sys2Proof

/-! Issuers (R225). -/

def dmaIssuer (core : Nat) : Nat := 80 * (core / 64) + core % 64
def gatherIssuer (k e : Nat) : Nat := 80 * k + 64 + e


def jobsOf (s : State) (i : Nat) : List Job := Tbl.get [] s.mov.jobs i
def setJobs (s : State) (i : Nat) (l : List Job) : State :=
  s.onMov fun m => { m with jobs := Tbl.set [] m.jobs i l }
def updJob (s : State) (i id : Nat) (f : Job → Job) : State :=
  setJobs s i ((jobsOf s i).map fun j => if j.id == id then f j else j)
def addJob (s : State) (i : Nat) (j : Job) : State := setJobs s i (jobsOf s i ++ [j])

def Job.empty : Job where
  id := 0
  cmd := 0
  ctx := 0
  gen := 0
  kind := .raw
  core := 0
  handle := 0
  padRow := 0
  addr := 0
  rowBytes := 0
  rows := 0
  stride := 0
  host := false
  addr2 := 0
  fn := 0
  idxAddr := 0
  idxFmt := 7
  tableRows := 0
  countBase := 0
  capacity := 0
  sources := 0
  rank := 0
  jobId := 0
  claimed := false
  row := 0
  off := 0
  idxFetched := 0
  idx := []
  counted := []

/-- The job writes its pad handle, or reads it. -/
def Job.writesPad (j : Job) : Bool := j.kind == .load || j.kind == .gather || j.kind == .ret
def Job.readsPad (j : Job) : Bool :=
  j.kind == .store || j.kind == .scatter || j.kind == .scatterAdd || j.kind == .route
/-- A job of a gather engine (R240). -/
def Job.indexed (j : Job) : Bool :=
  j.kind == .gather || j.kind == .scatter || j.kind == .scatterAdd || j.kind == .route || j.kind == .ret



/-- Claim sources of R126. -/
def claimSrcOf (k : JobKind) : Nat := if k == .load then 3 else 4

/-- A writer asks for a handle: job `job` of a mover, or `noJob`. -/
def addClaim (s : State) (core h cmd src bytes job : Nat) : State :=
  s.onPad fun p => { p with claims := p.claims ++ [⟨core, h, cmd, src, bytes, job⟩] }

/-- Give a job to an issuer: its own claim of the handle it writes begins to wait (R132). -/
def startJob (s : State) (i : Nat) (j : Job) : State :=
  let s := addJob s i j
  if j.writesPad then addClaim s j.core j.handle j.cmd (claimSrcOf j.kind) (j.rows * j.rowBytes) j.id else s

/-! Requests (R226). -/

/-- The bytes of the job's next row in its pad handle. -/
def Job.padDst (j : Job) (s : State) : Dst :=
  .pad j.core j.handle (j.padRow + j.row) j.off (rowWord (hnd s j.core j.handle) (j.padRow + j.row) j.off)

/-- A request of a job. -/
def Job.req (j : Job) (issuer va len : Nat) (dst : Dst) : Req where
  id := 0
  cmd := j.cmd
  ctx := j.ctx
  gen := j.gen
  issuer := issuer
  job := j.id
  write := false
  add := false
  host := false
  fn := j.fn
  va := va
  len := len
  data := []
  dst := dst
  target := 0
  pa := 0
  bad := false
  runAhead := false
  stopped := false

/-- Bytes from `a` to the next 1 KiB boundary, at most `len`. -/
def pieceLen (a len : Nat) : Nat := min len (1024 - a % 1024)

def waitingFor (s : State) (i : Nat) : Nat := (s.mov.waiting.filter (·.issuer == i)).length

/-- Advance past `n` bytes of the current row. -/
def Job.advance (j : Job) (n : Nat) : Job :=
  if j.rowBytes ≤ j.off + n then { j with row := j.row + 1, off := 0 } else { j with off := j.off + n }

def addIn (s : State) (id k : Nat) : State := s.updCmd id fun c => { c with ins := c.ins ++ [k] }
def delIn (s : State) (id k : Nat) : State := s.updCmd id fun c => { c with ins := c.ins.erase k }
def addOut (s : State) (id k : Nat) : State :=
  s.updCmd id fun c => { c with outs := if c.outs.contains k then c.outs else c.outs ++ [k] }

/-- A mover acquires its handle for reading (R131). -/
def jobAcquire (i : Nat) (s : State) (j : Job) : Option State :=
  let e := hnd s j.core j.handle
  if canAcquire e j.cmd && ownedBy e j.ctx j.gen && groupsReady s j.core e false then
    some (updJob (addIn (updHnd s j.core j.handle acquire) j.cmd (hKey j.core j.handle)) i j.id
      fun j => { j with claimed := true })
  else none

/-! Index streams (R240, R249): 4 KiB of indices may be fetched ahead. -/

def idxSize (j : Job) : Nat := fmtBytes j.idxFmt

/-- The next request of the index stream, when the buffer has room. -/
def idxStep (i : Nat) (s : State) (j : Job) : Option State :=
  let left := j.rows * idxSize j - j.idxFetched
  let n := min (pieceLen (j.idxAddr + j.idxFetched) left) (4096 - (j.idxFetched - j.row * idxSize j))
  -- whole indices only
  if left = 0 || 4096 ≤ j.idxFetched - j.row * idxSize j || n = 0 then none
  else some (updJob (addReq s (j.req i (j.idxAddr + j.idxFetched) n (.index j.idxFetched))) i j.id
    fun j => { j with idxFetched := j.idxFetched + n })

/-- The index at position `p`, once all its bytes have landed: `idx` holds them by byte. -/
def idxAt (j : Job) (p : Nat) : Option Nat :=
  let n := idxSize j
  let bs := (List.range n).map fun k => Tbl.get none j.idx (p * n + k)
  if bs.all (·.isSome) then some (leNat (bs.map fun b => BitVec.ofInt 8 (b.getD 0))) else none

def countOor (s : State) (j : Job) : State :=
  let s := s.updCmd j.cmd fun c => { c with csw := putBits c.csw 0 16 (satAdd 16 (bits c.csw 0 16) 1) }
  s.count64 (dmaBlk (coreDie j.core) + 0x18) 1

def countDrop (s : State) (j : Job) : State :=
  s.updCmd j.cmd fun c => { c with csw := putBits c.csw 16 16 (satAdd 16 (bits c.csw 16 16) 1) }

/-- Bytes of the job's handle have landed. -/
def landBytes (s : State) (j : Job) (n : Nat) : State :=
  if ownedBy (hnd s j.core j.handle) j.ctx j.gen then updHnd s j.core j.handle fun e => landed e n else s

/-- Land a row of zeros (R242, R247). -/
def landZeroRow (s : State) (j : Job) : State :=
  let s := (padPutRow s j.core 2 j.handle (j.padRow + j.row) 0 (List.replicate j.rowBytes 0#8) (some j.ctx)).1
  landBytes s j j.rowBytes

/-! Routing words (R245 to R247). -/

def routeDest (w : Nat) : Nat := bits w 0 12
def routeSlot (w : Nat) : Nat := bits w 12 12
def unrouted (w : Nat) : Bool := w == 0xFFFFFFFF

/-- Rows of the stream before position `p` that name the same pair. -/
def routeK (j : Job) (p : Nat) : Nat :=
  let w := (idxAt j p).getD 0
  ((List.range p).filter fun q => idxAt j q == some w).length

def routeAddr (j : Job) (w k : Nat) : Nat :=
  j.addr + ((routeSlot w * j.sources + j.rank) * j.capacity + k) * j.rowBytes



/-- Send one piece of a routed row, or ask for one of a returned row. -/
def routePiece (i : Nat) (s : State) (j : Job) (w : Nat) : Option State :=
  if !tagFree s i then none
  else
    let a := routeAddr j w (routeK j j.row) + j.off
    let n := pieceLen a (j.rowBytes - j.off)
    let d := routeDest w
    let s := updJob s i j.id fun j => j.advance n
    if j.kind == .route then
      let (s, bad, pay) := padGetRow s j.core 2 j.handle (j.padRow + j.row) j.off n (some j.ctx)
      if bad then some (endCmd s j.cmd stAborted)
      else
        let k := { mkPkt 0x01 0 d pay with job := j.jobId, addr := a, aux := 65536 * n }
        some (sendRemote s j.cmd j.ctx d 0 (routeSlot w) n .none k j.id i)
    else
      let k := { mkPkt 0x02 0 d [] with job := j.jobId, addr := a, aux := n }
      some (sendRemote s j.cmd j.ctx d 1 (routeSlot w) n (j.padDst s) k j.id i)

/-- One step of a ROUTE or RETURN job on its next row. -/
def routeStep (i : Nat) (s : State) (j : Job) (w : Nat) : Option State :=
  let next := fun (s : State) => updJob s i j.id fun j => { j with row := j.row + 1, off := 0 }
  let land := fun (s : State) => if j.kind == .ret then landZeroRow s j else s
  if unrouted w then some (next (land s))
  else if bits w 24 8 ≠ 0 then some (next (countOor (land s) j))
  else if !levelShared s (routeDest w) && actPort s (routeDest w) != rpAbsent then
    some (endCmd s j.cmd stLevel)
  else if j.capacity ≤ routeK j j.row then
    some (next (if j.kind == .route then countDrop s j else land s))
  else routePiece i s j w

/-! Table rows (R242, R243). -/

/-- An earlier write of the command to the same table row is outstanding. -/
def rowOutstanding (s : State) (j : Job) (va : Nat) : Bool :=
  (s.mov.waiting ++ s.mov.flight).any fun r =>
    r.cmd == j.cmd && r.write && decide (va ≤ r.va) && decide (r.va < va + j.rowBytes)

def tableStep (i : Nat) (s : State) (j : Job) (w : Nat) : Option State :=
  let v := signed (8 * idxSize j) w
  if v < 0 || (j.tableRows : Int) ≤ v then
    let s := if j.kind == .gather then landZeroRow s j else s
    some (updJob (countOor s j) i j.id fun j => { j with row := j.row + 1, off := 0 })
  else
    let base := j.addr + v.toNat * j.rowBytes
    let va := base + j.off
    let n := pieceLen va (j.rowBytes - j.off)
    if j.kind == .scatter && j.off == 0 && rowOutstanding s j base then none
    else
      let r := j.req i va n (j.padDst s)
      let s := addReq s { r with write := j.kind != .gather, add := j.kind == .scatterAdd }
      some (updJob s i j.id fun j => j.advance n)

/-- One unit of progress of a job, if it can make one. -/
def jobStep (i : Nat) (s : State) (j : Job) : Option State :=
  if (s.cmd? j.cmd).all (·.ended) then none
  else if j.rows ≤ j.row then none
  else if j.writesPad && !j.claimed then none
  else if j.readsPad && !j.claimed then jobAcquire i s j
  else if j.indexed then
    match idxAt j j.row with
    | some w => if j.kind == .route || j.kind == .ret then routeStep i s j w else
        (match tableStep i s j w with
        | some s => some s
        | none => idxStep i s j)
    | none => idxStep i s j
  else
    let va := j.addr + j.row * j.stride + j.off
    let n := pieceLen va (j.rowBytes - j.off)
    let dst := match j.kind with
      | .offload => if j.host then .copyHost (j.addr2 + j.row * j.rowBytes + j.off)
          else .copyVa (j.addr2 + j.row * j.rowBytes + j.off)
      | .prefetch => .cache 0
      | _ => j.padDst s
    let r := j.req i va n dst
    let s := addReq s { r with write := j.kind == .store, host := j.host && j.kind != .offload }
    some (updJob s i j.id fun j => j.advance n)

/-- The descriptor whose requests an issuer makes: the first that is not all issued (R239). -/
def headJob (s : State) (i : Nat) : Option Job :=
  (jobsOf s i).find? fun j => decide (j.row < j.rows) && !(s.cmd? j.cmd).all (·.ended)

/-- The head job of an issuer makes progress, while the issuer holds fewer than 16 waiting requests
(R231). -/
def fillIssuer : Nat → State → Nat → State
  | 0, s, _ => s
  | fuel + 1, s, i =>
    if i < 320 && 16 ≤ waitingFor s i then s
    else match (headJob s i).bind (jobStep i s) with
      | some s => fillIssuer fuel s i
      | none => s

/-- Pairs of a ROUTE job's stream that its engine has processed. -/
def routePairs (j : Job) : List Nat :=
  dedupNat ((List.range j.row).filterMap fun p =>
    match idxAt j p with
    | some w => if unrouted w || bits w 24 8 != 0 then none else some (bits w 0 24)
    | none => none)

/-- All of a job's requests have been issued, and none waits. -/
def jobIssued (s : State) (j : Job) : Bool :=
  decide (j.rows ≤ j.row) && !(s.mov.waiting.any (·.job == j.id))

/-- A reader's handle is released when its last line has left the pad; a job whose requests have
all ended leaves its issuer. -/
def settleJob (i : Nat) (s : State) (j : Job) : State :=
  if !jobIssued s j then s
  else
    let s := if j.readsPad && j.claimed then
        updJob (delIn (updHnd s j.core j.handle releaseReader) j.cmd (hKey j.core j.handle)) i j.id
          fun j => { j with claimed := false }
      else s
    let pairsLeft := j.kind == .route && decide (j.counted.length < (routePairs j).length)
    if pairsLeft || s.mov.flight.any (·.job == j.id) || s.mov.remote.any (·.job == j.id) then s
    else setJobs s i ((jobsOf s i).filter (·.id != j.id))

/-- Every issuer with jobs makes what progress it can. -/
def kickMovers (s : State) : State :=
  (s.mov.jobs.map (·.1)).foldl (fun s i =>
    let s := fillIssuer 64 s i
    (jobsOf s i).foldl (settleJob i) s) s

/-! Gather engines (R241). -/

/-- The lowest gather engine of die k that holds no descriptor and is not fenced. -/
def freeEngine (s : State) (k : Nat) : Option Nat :=
  (List.range 16).find? fun e => (jobsOf s (gatherIssuer k e)).isEmpty && !fenced s (fuGather k e)

/-- Give the oldest waiting descriptor of die k to a free engine. -/
def assignGather (k : Nat) (s : State) : State :=
  match Tbl.get [] s.mov.gatherWait k, freeEngine s k with
  | j :: t, some e =>
    startJob (s.onMov fun m => { m with gatherWait := Tbl.set [] m.gatherWait k t }) (gatherIssuer k e) j
  | _, _ => s

def assignAll : Nat → Nat → State → State
  | 0, _, s => s
  | n + 1, k, s => assignAll n k (assignGather k s)

end Sys2Proof.Machine
end

