-- ==== Sys2Proof/Machine/Movers.lean ====
section
/-! DEFINITION. The movement commands (R234 to R247, R422) and the life of their requests:
claims, admission, landing, gather engines, and count words. -/
namespace Sys2Proof.Machine

open Sys2Proof

/-! Descriptors. -/

/-- Status of the rules that hold for every mover's pad handle (R129, R237). -/
def handleStatus (s : State) (x core h row0 rows rowBytes : Nat) : Nat :=
  let e := hnd s core h
  if !ctxOwnsCore s x core || fenced s core || e.rows < row0 + rows || e.cols < rowBytes / 16 then stBadParam
  else if !ownedBy e x (s.gen x) then stStale
  else stOk

/-- Its input handle is DIRTY (R136). -/
def dirtyStatus (s : State) (core h : Nat) : Nat :=
  if (hnd s core h).state = hDirty then stAborted else stOk

/-- The job of a DMA descriptor (R234). -/
def dmaJob (kind : JobKind) (b : List Byte) : Job :=
  { Job.empty with
    kind := kind
    addr := fieldLE b 0 8
    rowBytes := fieldLE b 8 4
    rows := fieldLE b 12 4
    stride := fieldLE b 16 4
    core := fieldLE b 20 1
    handle := bits (fieldLE b 21 1) 0 6
    padRow := bits (fieldLE b 22 2) 0 12
    host := bit (fieldLE b 22 2) 12
    addr2 := fieldLE b 24 8 }

/-- Status of a DMA descriptor at issue (R234, R237). -/
def dmaStatus (s : State) (x : Nat) (j : Job) (b : List Byte) : Nat :=
  let pad := j.kind == .load || j.kind == .store
  if j.rowBytes % 16 ≠ 0 || j.rowBytes < 16 || 2097152 < j.rowBytes
      || j.rows < 1 || (if pad then 2048 else 1048576) < j.rows
      || j.stride % 16 ≠ 0 || j.stride < j.rowBytes
      || bits (fieldLE b 21 1) 6 2 ≠ 0 || bits (fieldLE b 22 2) 13 3 ≠ 0
      || (j.kind != .offload && j.addr2 != 0) then stBadParam
  else if pad then
    max (handleStatus s x j.core j.handle j.padRow j.rows j.rowBytes)
      (if j.kind == .store then dirtyStatus s j.core j.handle else stOk)
  else stOk

def gatherKind : Nat → Option JobKind
  | 0 => some .gather | 1 => some .scatter | 2 => some .scatterAdd | 3 => some .route | 4 => some .ret
  | _ => none

/-- The job of a gather descriptor (R240). -/
def gatherJob (kind : JobKind) (job : Nat) (b : List Byte) : Job :=
  let routed := kind == .route || kind == .ret
  { Job.empty with
    kind := kind
    addr := if routed then fieldLE b 40 8 else fieldLE b 0 8
    tableRows := fieldLE b 8 4
    rowBytes := fieldLE b 12 4
    rows := fieldLE b 24 4
    idxAddr := fieldLE b 16 8
    idxFmt := fieldLE b 28 1
    core := fieldLE b 30 1
    handle := bits (fieldLE b 31 1) 0 6
    padRow := bits (fieldLE b 32 2) 0 12
    countBase := fieldLE b 48 8
    capacity := fieldLE b 56 4
    sources := fieldLE b 60 2
    rank := fieldLE b 62 2
    jobId := job }

/-- The modes an opcode takes. -/
def gatherModes (op : Nat) : List Nat := if op = 0x12 then [0] else if op = 0x13 then [1, 2] else [3, 4]

/-- Status of a gather descriptor at issue (R237, R240, R243), its handle's state apart. -/
def gatherStatus (s : State) (x op : Nat) (j : Job) (b : List Byte) : Nat :=
  let routed := decide (op = 0x34)
  if !(gatherModes op).contains (fieldLE b 29 1)
      || j.rowBytes % 16 ≠ 0 || j.rowBytes < 16 || 65536 < j.rowBytes
      || j.rows < 1 || 2048 < j.rows
      || !(j.idxFmt == 7 || (j.idxFmt == 5 && !routed))
      || bits (fieldLE b 31 1) 6 2 ≠ 0 || bits (fieldLE b 32 2) 12 4 ≠ 0 || !allZero (slice b 34 6)
      || (!routed && (j.tableRows == 0 || decide (2 ^ 31 ≤ j.tableRows)))
      || (routed && (j.capacity == 0 || decide (65536 ≤ j.capacity) || j.sources == 0
            || decide (4096 < j.sources) || decide (j.sources ≤ j.rank)))
      || (j.kind == .scatterAdd && (hnd s j.core j.handle).fmt != 0) then stBadParam
  else handleStatus s x j.core j.handle j.padRow j.rows j.rowBytes

/-- The preamble and the length of movement parameters (R422): COUNT, and reserved bytes 0. -/
def moveCount (p : Packet) : Nat := p.par 0 1

def moveShape (p : Packet) (size maxCount : Nat) (jobField : Bool) : Bool :=
  let n := moveCount p
  decide (1 ≤ n) && decide (n ≤ maxCount)
    && p.plen == ceilDiv (32 + size * n) 64
    && allZero (slice p.params 1 3) && (jobField || p.par 4 2 == 0) && allZero (slice p.params 6 26)
    && allZero (p.params.drop (32 + size * n))

def moveDesc (p : Packet) (size i : Nat) : List Byte := slice p.params (32 + size * i) size

def moveDescs (p : Packet) (size : Nat) : List (List Byte) :=
  (List.range (moveCount p)).map (moveDesc p size)

/-- Status, jobs of a DMA command. -/
def dmaJobs (kind : JobKind) (p : Packet) : List Job := (moveDescs p 32).map (dmaJob kind)

def dmaCheck (s : State) (x : Nat) (kind : JobKind) (p : Packet) : Nat :=
  if !moveShape p 32 13 false then stBadParam
  else (moveDescs p 32).foldl (fun a b => max a (dmaStatus s x (dmaJob kind b) b)) 0

def Job.own (j : Job) (s : State) (id cmd x fn : Nat) : Job :=
  { j with
    id := id
    cmd := cmd
    ctx := x
    gen := s.gen x
    fn := fn }

/-- Issue a movement command whose checks passed: each job goes to its place by `put`. -/
def issueJobs (s : State) (q : Nat) (p : Packet) (dies : List Nat) (js : List Job)
    (put : State → Job → State) : State :=
  let (s, id) := issue s q p dies
  kickMovers (js.foldl (fun s j =>
    let (n, s) := takeId s
    put (if j.writesPad then addOut s id (hKey j.core j.handle) else s) (j.own s n id (q % 64) p.fn)) s)

def jobDies (js : List Job) : List Nat := dedupNat (js.map fun j => coreDie j.core)

def issueDma (kind : JobKind) (q : Nat) (p : Packet) (s : State) : State :=
  let st := dmaCheck s (q % 64) kind p
  let js := dmaJobs kind p
  let pad := kind == .load || kind == .store
  let dies := if pad then jobDies js else []
  if st ≠ 0 then refuseAtIssue s q p st
  else if !diesIssue s dies then s
  else issueJobs s q p dies js fun s j =>
    startJob s (if pad then dmaIssuer j.core else if kind == .offload then issOffload else issCache) j

/-- LOAD (R236). -/
def execLoad (q : Nat) (s : State) : Out := onHead 0x10 q s (issueDma .load q)

/-- STORE (R236). -/
def execStore (q : Nat) (s : State) : Out := onHead 0x11 q s (issueDma .store q)

/-- OFFLOAD (R236). -/
def execOffload (q : Nat) (s : State) : Out := onHead 0x14 q s (issueDma .offload q)

/-- PREFETCH (R236). -/
def execPrefetch (q : Nat) (s : State) : Out := onHead 0x15 q s (issueDma .prefetch q)

def gatherJobs (p : Packet) : List Job :=
  (moveDescs p 64).filterMap fun b => (gatherKind (fieldLE b 29 1)).map fun k => gatherJob k (p.par 4 2) b

/-- The handles of a command's input: those it reads and that none of its descriptors writes (R135). -/
def inputJobs (js : List Job) : List Job :=
  js.filter fun j => j.readsPad && !js.any fun o => o.writesPad && o.core == j.core && o.handle == j.handle

/-- No input is DIRTY (R136), and none overlaps an output (R135). -/
def inputStatus (s : State) (js : List Job) : Nat :=
  (inputJobs js).foldl (fun a j =>
    max (max a (dirtyStatus s j.core j.handle))
      (if js.any fun o => o.writesPad && o.core == j.core
          && overlaps (hnd s j.core j.handle) (hnd s o.core o.handle) then stOverlap else stOk)) 0

def gatherCheck (s : State) (x op : Nat) (p : Packet) : Nat :=
  if !moveShape p 64 6 (op == 0x34) then stBadParam
  else
    let each := (moveDescs p 64).foldl (fun a b =>
      max a (match gatherKind (fieldLE b 29 1) with
        | some k => gatherStatus s x op (gatherJob k (p.par 4 2) b) b
        | none => stBadParam)) 0
    if each ≠ 0 then each else inputStatus s (gatherJobs p)

/-- Queue a descriptor for the gather engines of its die. -/
def queueGather (s : State) (j : Job) : State :=
  s.onMov fun m => { m with gatherWait := Tbl.upd [] m.gatherWait (coreDie j.core) (· ++ [j]) }

def assignDies (s : State) : State := (List.range 4).foldl (fun s k => assignAll 16 k s) s

def issueGather (op q : Nat) (p : Packet) (s : State) : State :=
  let st := gatherCheck s (q % 64) op p
  let js := gatherJobs p
  if st ≠ 0 then refuseAtIssue s q p st
  else if !diesIssue s (jobDies js) then s
  else kickMovers (assignDies (issueJobs s q p (jobDies js) js queueGather))

/-- GATHER (R242). -/
def execGather (q : Nat) (s : State) : Out := onHead 0x12 q s (issueGather 0x12 q)

/-- SCATTER (R243). -/
def execScatter (q : Nat) (s : State) : Out := onHead 0x13 q s (issueGather 0x13 q)

/-- ROUTE_TOKENS (R245, R247). -/
def execRouteTokens (q : Nat) (s : State) : Out := onHead 0x34 q s (issueGather 0x34 q)

/-- GATHER_DESCRIPTOR_ASSIGN (R241). -/
def execGatherDescriptorAssign (die : Nat) (s : State) : Out :=
  unitStep (decide (die < 4)) die s fun s => kickMovers (assignGather die s)

/-! Claims (R130, R132). -/

/-- The job of a claim may fill its handle. -/
def claimJob (s : State) (c : Claim) : State :=
  s.onMov fun m => { m with
    jobs := m.jobs.map fun e => (e.1, e.2.map fun j => if j.id == c.job then { j with claimed := true } else j) }

/-- HANDLE_CLAIM (R132): the oldest claim of the handle succeeds. -/
def execHandleClaim (core h : Nat) (s : State) : Out :=
  unitStep (decide (core < 256) && decide (h < 64)) (coreDie core) s fun s =>
    match s.pad.claims.find? fun c => c.core == core && c.h == h with
    | none => s
    | some c =>
      let e := hnd s core h
      if !canClaim e c.cmd then s
      else if !groupsReady s core e true then wakeGroups s core e
      else
        let s := s.onPad fun p => { p with claims := p.claims.erase c }
        let s := updHnd s core h fun e => claim e c.cmd c.src c.bytes
        kickMovers (claimJob (addOut s c.cmd (hKey core h)) c)

/-! Admission (R226 to R233, R258). -/



/-- Cause of a translation fault, physical address and target of a waiting request. -/
def reqPlace (s : State) (r : Req) : Nat × Nat × Nat :=
  if r.host then (0, 0, noTarget)
  else
    let (c, pa) := peek s (issuerDie r.issuer) r.ctx r.va r.write
    (c, pa, if c ≠ 0 || cacheHit s pa r.write then noTarget else targetOf s pa)

/-- A request that its target would take now. -/
def couldAdmit (s : State) (o : Req) : Bool :=
  let (c, _, t) := reqPlace s o
  c == 0 && tagFree s o.issuer && (t == noTarget
    || ((srUnit s (targetUnit t)).st == 0 && decide (countAt s t < capOf s t)))

/-- No older request that could be admitted waits for the target (R230), and the pool has tags for
the older ones of its issuers (R33). -/
def oldestFor (s : State) (r : Req) (t : Nat) : Bool :=
  let older := (s.mov.waiting.takeWhile (·.id != r.id)).filter (couldAdmit s)
  older.all (fun o => (reqPlace s o).2.2 != t)
    && decide ((older.filter fun o => samePool r.issuer o.issuer).length + poolUsed s r.issuer < poolSize r.issuer)

def dropReq (s : State) (id : Nat) : State :=
  s.onMov fun m => { m with waiting := m.waiting.filter (·.id != id) }



/-- FP32 sums, rounded to nearest even (R243). -/
def addElems (old new : List Byte) : List Byte :=
  elemBytes 0 (List.zipWith (fun a b => toF32 (fadd (ofF32 a) (ofF32 b))) (bytesElems 0 old) (bytesElems 0 new))

/-- The bytes a pad-side write request carries, or none when a cell reads uncorrectable. -/
def padData (s : State) (r : Req) : State × Option (List Byte) :=
  match r.dst with
  | .pad c h row off _ =>
    let (s, bad, d) := padGetRow s c 2 h row off r.len (some r.ctx)
    (s, if bad then none else some d)
  | _ => (s, some r.data)

/-! Run-ahead (R249, R250). -/

/-- The row of its descriptor that a request moves. -/
def reqRow (j : Job) (r : Req) : Nat := (r.va - j.addr) / j.stride

/-- The request is run-ahead: read-ahead of the cache, indices past the one its engine needs next, or
a later row of a descriptor of which an earlier row is still to land. -/
def runsAhead (s : State) (r : Req) : Bool :=
  r.runAhead || (!r.write && match (jobsOf s r.issuer).find? (·.id == r.job) with
    | none => false
    | some j => match r.dst with
      | .index pos => decide (j.row * idxSize j < pos)
      | _ => !j.indexed && (s.mov.waiting ++ s.mov.flight).any fun o =>
          o.job == r.job && !o.write && decide (o.id < r.id) && decide (reqRow j o < reqRow j r))

/-- Run-ahead that reaches its limit stops: it is counted once, and is made later as a demand
request; read-ahead of the cache is not made at all. -/
def stopAhead (s : State) (r : Req) : State :=
  if r.runAhead then dropReq s r.id
  else if r.stopped then s
  else
    (if r.issuer < 320 then s.count64 (dmaBlk (r.issuer / 80) + 0x8) 1 else s).onMov fun m => { m with
      waiting := m.waiting.map fun o => if o.id = r.id then { o with stopped := true } else o }

/-- The request takes its tag and is performed at its target (R227, R265). -/
def admitAt (s : State) (r : Req) (pa t : Nat) (d : List Byte) : State :=
  let s := if t = noTarget then s else s.onMem fun m => { m with counts := Tbl.upd 0 m.counts t (· + 1) }
  let s := if t = noTarget then s else setSr s (targetUnit t) fun x => { x with lastUse := s.nowUs }
  let s := if t = noTarget then s else chargeMem s r.ctx pa r.len
  let s := cacheRead s r.issuer r.ctx r.va pa r.write r.runAhead
  let fly := fun (s : State) (bad : Bool) (d : List Byte) => s.onMov fun m => { m with
    flight := m.flight ++ [{ r with
      target := t
      pa := pa
      bad := bad
      data := d }] }
  if r.write then
    -- an add merges with every word it reaches (R243)
    let s := mergeSyms s pa r.len r.add (some r.ctx)
    let (s, ws) := if r.add then dpaMerge s pa (addElems (dpaRead s pa r.len) d) fun _ => false
      else dpaWrite s pa d
    fly (memUes s ws (some r.ctx)) (!ws.isEmpty) []
  else
    let (s, bad) := checkWords s pa r.len (some r.ctx)
    fly s bad (dpaRead s pa r.len)

/-- The lead makes the host access of a relayed command (R387). -/
def relayHost (s : State) (r : Req) (d : List Byte) : State :=
  let k := { mkPkt 0x05 0 (leadOf s) d with addr := r.va, aux := b2n r.write + 2 * r.fn + 65536 * r.len }
  (sendRemote s r.cmd r.ctx (leadOf s) (if r.write then 4 else 3) 0 r.len r.dst k r.job r.issuer).charge
    r.ctx acHost r.len

/-- A host access within the windows is made. -/
def makeHost (s : State) (r : Req) (d : List Byte) : State :=
  let s := s.charge r.ctx acHost r.len
  let data := if r.write then [] else hostRead s r.va r.len
  let s := if r.write then hostWrite s r.va d else s
  s.onMov fun m => { m with
    flight := m.flight ++ [{ r with
      target := noTarget
      data := data }] }

/-- A request with a host side (R238, R250, R387, R440). -/
def admitHost (s : State) (r : Req) : State :=
  match s.cmd? r.cmd with
  | none => dropReq s r.id
  | some c =>
    if c.pkt.lead.isNone && !hostOk s r.fn r.va r.len r.write then
      (if runsAhead s r then stopAhead s r else endCmd (dropReq s r.id) r.cmd stWindow)
    else
      let s := dropReq s r.id
      let (s, d) := if r.write then padData s r else (s, some [])
      match d with
      | none => endCmd s r.cmd stAborted
      | some d => if c.pkt.lead.isSome then relayHost s r d else makeHost s r d

/-- A demand request that faults aborts its command; run-ahead stops (R250, R258). -/
def faultReq (s : State) (r : Req) (cause : Nat) : State :=
  let m := issuerDie r.issuer
  if runsAhead s r then stopAhead s r
  else
    let s := (translate (dropReq s r.id) m r.ctx r.va r.write).1
    endCmd (xlateFault s m r.ctx r.va cause r.write) r.cmd stAborted

/-- Admit a request to device memory whose target is `t`. -/
def admitMem (s : State) (r : Req) (pa t : Nat) : State :=
  let s := (translate (dropReq s r.id) (issuerDie r.issuer) r.ctx r.va r.write).1
  let declined := match r.dst with
    | .cache _ => !isDdr pa || cacheHit s pa false || !cacheOn s || (ctxRes s r.ctx).cacheWays = 0
    | _ => false
  if declined then s
  else
    let (s, d) := if r.write then padData s r else (s, some [])
    match d with
    | some d => admitAt s r pa t d
    | none => endCmd s r.cmd stAborted

def admitReq (s : State) (r : Req) : State :=
  if !tagFree s r.issuer then s
  else if r.host then (if s.host.linkUp then admitHost s r else s)
  else
    let (c, pa, t) := reqPlace s r
    if c ≠ 0 then faultReq s r c
    else if t = noTarget then admitMem s r pa t
    else if (srUnit s (targetUnit t)).st ≠ 0 then wakeUnit s (targetUnit t)
    else if countAt s t < capOf s t && oldestFor s r t then admitMem s r pa t
    else s

/-- REQUEST_ADMIT (R228 to R231). -/
def execRequestAdmit (id : Nat) (s : State) : Out :=
  .next (match s.mov.waiting.find? (·.id == id) with
    | none => s
    | some r => s.when (dieRuns s (issuerDie r.issuer)) fun s => kickMovers (admitReq s r))

/-! Landing (R227, R239, R274, R275). -/

/-- The finding of a read (R274): code 0 none, 1 one symbol, 2 uncorrectable, 3 address check
mismatch, 4 uncorrectable cache segment; and the 32-byte word of the request it lies in. -/
def findingOk (r : Req) (code word : Nat) : Bool :=
  code == 0 || (!r.host && !r.write && decide ((r.pa / 32 + word) * 32 < r.pa + r.len)
    && (code == 1 || code == 2 || (code == 3 && isDdr r.pa)
        || (code == 4 && isDdr r.pa && r.target == noTarget)))

def applyFinding (s : State) (r : Req) (code word : Nat) : State :=
  let w := r.pa / 32 + word
  if code = 1 then memCe s (32 * w) false (some r.ctx)
  else if code = 2 || code = 3 then
    memUe (s.onMem fun m => { m with ue := insertAsc w m.ue }) (32 * w) (if code = 2 then 0 else 2) false
      (some r.ctx)
  else if code = 4 then
    let s := captureErr s (ddrBlk + 0x10) (memErrRec (32 * w) 1 false (some r.ctx))
    let s := (s.latch (ddrBlk + 0x8) 3).count32 (ddrBlk + 0x24) 1
    logEvent s clsUe 3 (unitCpath (addrUnit r.pa)) (some r.ctx) (32 * w)
  else s

/-- Second half of a copy: writes of the bytes that were read. -/
def copyOut (s : State) (r : Req) (host : Bool) (a : Nat) : State :=
  let ps := if host then [(a, r.len)] else pieces a r.len
  ps.foldl (fun s p => addReq s { r with
    issuer := if host then issSpill else issOffload
    write := true
    host := host
    va := p.1
    len := p.2
    data := slice r.data (p.1 - a) p.2
    dst := .none }) s

/-- Data land where the request asked for them; a fetch into the saddlebag lands by `landFetch`. -/
def landData (s : State) (r : Req) (hz : Nat) : State :=
  match r.dst with
  | .none => s
  | .pad c h row off _ =>
    let e := hnd s c h
    if ownedBy e r.ctx r.gen && e.state == hFilling && e.owner == r.cmd then
      let (s, drop) := padPutRow (hazardOn s c h 2 hz (some r.ctx)) c 2 h row off r.data (some r.ctx)
      if drop then endCmd s r.cmd stAborted else updHnd s c h fun e => landed e r.len
    else s
  | .index pos =>
    -- the rows of zeros that the indices name are written now
    let s := match (jobsOf s r.issuer).find? fun j => j.id == r.job && j.writesPad with
      | some j => hazardOn s j.core j.handle 2 hz (some r.ctx)
      | none => s
    updJob s r.issuer r.job fun j => { j with
      idx := (List.range r.len).foldl (fun t i =>
        Tbl.insert t (pos + i) (some ((r.data.getD i 0#8).toNat : Int))) j.idx }
  | .copyVa va => copyOut s r false va
  | .copyHost a => copyOut s r true a
  | .cache _ => s
  | .sth .. => s

/-- A slow-tier read that missed allocates its line (R271). -/
def allocLine (s : State) (r : Req) : State :=
  if isDdr r.pa && !r.host && !r.write && r.target != noTarget then
    let s := cachePlace s (ctxRes s r.ctx).cacheWays (r.pa / 1024)
    if r.runAhead then s.count64 (ddrBlk + 0x38) 1 else s
  else s

/-- The tag and the target's count are freed; progress is counted (R227, R251, R280). -/
def freeReq (s : State) (r : Req) : State :=
  let s := s.onMov fun m => { m with flight := m.flight.filter (·.id != r.id) }
  let s := s.beat (issuerCpath r.issuer)
  if r.target = noTarget then s
  else
    (s.onMem fun m => { m with counts := Tbl.upd 0 m.counts r.target (· - 1) }).beat
      (unitCpath (targetUnit r.target))

def landReq (s : State) (r : Req) (code word hz : Nat) : State :=
  let s := applyFinding (freeReq s r) r code word
  if r.bad || code = 2 || code = 3 then endCmd s r.cmd stAborted
  else
    let s := allocLine s r
    if (s.cmd? r.cmd).any (fun c => !c.ended) && r.gen == s.gen r.ctx && !r.write then landData s r hz else s

/-- REQUEST_LAND (R227): read data land, with what the check found (`finding` = code + 8 × word), or
a write is acknowledged; `hz` reports an alias hazard on the pad. A refresh of the target holds the
request there (R262). -/
def execRequestLand (id finding hz : Nat) (s : State) : Out :=
  .next (match s.mov.flight.find? (·.id == id) with
    | none => s
    | some r =>
      s.when (dieRuns s (issuerDie r.issuer) && !s.mem.refreshing.contains r.target
          && findingOk r (finding % 8) (finding / 8)) fun s =>
        settleAts (kickMovers (landReq s r (finding % 8) (finding / 8) hz)))

/-! Count words (R246). -/

/-- Every row of the command's ROUTE streams has been processed, and every write to the pair has been
acknowledged. -/
def pairDone (s : State) (cmd dest slot : Nat) : Bool :=
  (s.mov.jobs.all fun e => e.2.all fun j => j.cmd != cmd || j.kind != .route || decide (j.rows ≤ j.row))
    && (s.mov.gatherWait.all fun e => e.2.all fun j => j.cmd != cmd || j.kind != .route)
    && !(s.mov.remote.any fun r => r.cmd == cmd && r.dest == dest && r.slot == slot && r.kind == 0)

/-- ROUTE_COUNT_WRITE (R246): every write of the command to the pair has been acknowledged. -/
def execRouteCountWrite (job dest slot : Nat) (s : State) : Out :=
  .next (match s.mov.jobs.findSome? fun e => (e.2.find? (·.id == job)).map (e.1, ·) with
    | none => s
    | some (i, j) =>
      let pair := dest + 4096 * slot
      let due := j.kind == .route && (routePairs j).contains pair && !j.counted.contains (dest, slot)
        && pairDone s j.cmd dest slot && tagFree s i
      s.when (due && dieRuns s (issuerDie i)) fun s =>
        let n := ((List.range j.rows).filter fun p => idxAt j p == some pair).length
        let word := min n j.capacity + 65536 * min 65535 (n - j.capacity)
        let k := { mkPkt 0x01 0 dest (toLE 4 word) with
          job := j.jobId, addr := j.countBase + 4 * (slot * j.sources + j.rank), aux := 65536 * 4 }
        let s := updJob s i j.id fun j => { j with counted := j.counted ++ [(dest, slot)] }
        kickMovers (sendRemote s j.cmd j.ctx dest 5 slot 4 .none k j.id i))

end Sys2Proof.Machine
end

