-- ==== Sys2Proof/Machine/Lanes.lean ====
section
/-! DEFINITION. Groups of ALIGNED32 lanes, their residues and adders (R44, R45, R288, R290 to R297), and
the sums that the cluster reduction units form inside a block command (R165, R210, R211, R286). -/
namespace Sys2Proof.Machine

open Sys2Proof

/-! Lanes and groups. -/

def resP : Int := 65521

/-- The residue of a group's lanes (R293). -/
def residue (lanes : List Int) : Nat :=
  ((lanes.zipIdx.foldl (fun (a : Int) e => (a + (e.2 + 1) * (e.1 % resP)) % resP) 0) % resP).toNat

/-- The lane a narrowed ALIGNED32 element becomes, and its non-finite mark (R288). -/
def laneOf (raw : Nat) (x : FVal) : Int × Bool := if x.isFin then (signed 32 raw, false) else (0, true)

/-- One lane of an adder: the exact sum, or its limit (R291). -/
def addLane (sum v : Int) : Int × Bool :=
  let t := sum + v
  if 2147483647 < t then (2147483647, true)
  else if t < -2147483647 then (-2147483647, true)
  else (t, false)

/-- A received group: the lane value that no unit produces is −(2^31 − 1), and counts one saturation
each (R45). -/
def takeGroup (g : LaneGroup) : LaneGroup × Nat :=
  ({ g with lanes := g.lanes.map fun v => if v = -2147483648 then -2147483647 else v },
   (g.lanes.filter (· == -2147483648)).length)

def addGroups (a b : LaneGroup) : LaneGroup × Nat :=
  let r := List.zipWith addLane a.lanes b.lanes
  let lanes := r.map (·.1)
  let n := (r.filter (·.2)).length
  let sat := a.sat || b.sat || n != 0
  ({ lanes := lanes, nf := orNat a.nf b.nf,
     residue := if sat then residue lanes else (a.residue + b.residue) % 65521, sat := sat }, n)

/-- A group that is not SAT carries the residue of its lanes (R294). -/
def groupPasses (g : LaneGroup) : Bool := g.sat || g.residue == residue g.lanes

/-- A group of at most 64 narrowed elements (R288). -/
def groupOf64 (ls : List (Int × Bool)) (sat : Bool) : LaneGroup :=
  let lanes := ls.map (·.1) ++ List.replicate (64 - ls.length) 0
  { lanes := lanes
    nf := sumNat ((List.range ls.length).map fun j => if (ls.getD j (0, false)).2 then 2 ^ j else 0)
    residue := residue lanes
    sat := sat }

def zeroGroup : LaneGroup := ⟨List.replicate 64 0, 0, 0, false⟩

/-- Bit 0 of lane 0 flipped, by an armed or held injection (R321). -/
def flipGroup (g : LaneGroup) : LaneGroup :=
  { g with lanes := (g.lanes.head?.map fun v => signed 32 (Nat.xor (unsigned 32 v) 1)).toList ++ g.lanes.drop 1 }

/-- Groups leave unit `u`. -/
def injectGroups (s : State) (u : Nat) (gs : List LaneGroup) : State × List LaneGroup :=
  let ctl := s.reg (redBlk u)
  if gs.isEmpty then (s, gs)
  else if bit ctl 1 then (s.setReg (redBlk u) (setBit ctl 0 false), gs.map flipGroup)
  else if bit ctl 0 then
    (s.setReg (redBlk u) (setBit ctl 0 false), (gs.head?.map flipGroup).toList ++ gs.drop 1)
  else (s, gs)

/-- A chunk leaves unit `u`: a cluster unit makes progress by sending what it has entered, a port unit
counted its progress when it took the chunk (R320, R321). -/
def countOut (s : State) (u : Nat) : State :=
  let s := s.count64 (redBlk u + 0x28) 1
  if u < 32 then s.beat (redCpath u) else s
def passIn (s : State) (u : Nat) : State := (s.count64 (redBlk u + 0x20) 1).beat (redCpath u)

/-! Sums inside a command. They travel only between cluster reduction units, in chunks of up to 16
groups, and carry no job header (R286, R289). -/

def sumOf (s : State) (key : Nat) : Option BSum := s.blk.sums.find? (·.key == key)
def updSum (s : State) (key : Nat) (f : BSum → BSum) : State :=
  s.onBlk fun b => { b with sums := b.sums.map fun x => if x.key == key then f x else x }

/-- A sum over `n` contributors of each element begins. -/
def newSum (s : State) (cmd key rows cols unit left : Nat) (e : Int) (goal : SumTo) : State :=
  if (sumOf s key).isSome then s
  else s.onBlk fun b => { b with
    sums := b.sums ++ [{
      key := key
      cmd := cmd
      rows := rows
      cols := cols
      exp := e
      left := left
      unit := unit
      groups := List.replicate (rows * ceilDiv cols 64) zeroGroup
      goal := goal }] }

/-- Index of the group of row `r` that holds column `c`. -/
def BSum.at (b : BSum) (r c : Nat) : Nat := r * ceilDiv b.cols 64 + c / 64

/-- One chunk from cluster unit `u` meets the sum's adder: the groups as they arrive are added to those
held, and each result is checked (R294). Answers the sums, or the first group that failed. -/
def meetChunk (s : State) (b : BSum) (u : Nat) (idx : List Nat) (gs : List LaneGroup) :
    State × List (LaneGroup × Nat) × Option Nat :=
  let (s, gs) := if u = b.unit then (s, gs) else injectGroups (countOut s u) u gs
  let r := (List.range gs.length).map fun i =>
    let (g, bad) := takeGroup (gs.getD i zeroGroup)
    let (t, n) := addGroups (b.groups.getD (idx.getD i 0) zeroGroup) g
    (t, n + bad)
  (s, r, r.findIdx? fun g => !groupPasses g.1)

/-- A chunk is asked for again at most three times; a fourth mismatch fails the sum (R296, R297). -/
def addChunk (cmd key u serial c : Nat) (idx : List Nat) (gs : List LaneGroup) : Nat → State → State × Bool
  | 0, s => (s, false)
  | n + 1, s =>
    match sumOf s key with
    | none => (s, true)
    | some b =>
      let (s, r, bad) := meetChunk s b u idx gs
      match bad with
      | none =>
        let s := if u = b.unit then s else passIn s b.unit
        let s := s.count64 (redBlk b.unit + 0x38) (r.filter (·.2 != 0)).length
        let s := s.updCmd cmd fun m => { m with ovfSat := satAdd 32 m.ovfSat (sumNat (r.map (·.2))) }
        (updSum s key fun b => { b with
          groups := (List.range idx.length).foldl (fun l i =>
            l.set (idx.getD i 0) ((r[i]?).elim zeroGroup (·.1))) b.groups }, true)
      | some g =>
        let s := redEvent s b.unit 0 serial 0 g 0 c
        if n = 0 then ((redEvent s b.unit 1 serial 0 g 0 c).count32 (redBlk b.unit + 0x40) 1, false)
        else addChunk cmd key u serial c idx gs n (s.count64 (redBlk b.unit + 0x30) 1)

/-- Groups entered by cluster unit `u` with `elems` elements, the i-th for place `at_ i` of the sum: they
travel in chunks of 16. A sum that fails its check ends the command (R297, R303). -/
def contribute (s : State) (key u elems : Nat) (at_ : BSum → Nat → Nat) (gs : List LaneGroup) : State :=
  match sumOf s key with
  | none => s
  | some b =>
    let serial := ((s.cmd? b.cmd).map (·.serial)).getD 0
    let (s, ok) := (List.range (ceilDiv gs.length 16)).foldl (fun (a : State × Bool) c =>
      if !a.2 then a
      else
        let idx := ((List.range gs.length).drop (16 * c)).take 16
        addChunk b.cmd key u serial c (idx.map (at_ b)) (slice gs (16 * c) 16) 4 a.1) (s, true)
    if ok then updSum s key fun b => { b with left := b.left - elems } else endCmd s b.cmd stResidue

/-- Lane (r, c) of a sum: its non-finite mark, and its real value (R304). -/
def sumLane (b : BSum) (r c : Nat) : Bool × FVal :=
  let g := b.groups.getD (b.at r c) zeroGroup
  (bit g.nf (c % 64), fscale (.ofInt (g.lanes.getD (c % 64) 0)) b.exp)

end Sys2Proof.Machine
end

