-- ==== Sys2Proof/Machine/Tens.lean ====
section
/-! DEFINITION. The tensors that block commands, ATTN and memory-form MATMUL hold on cores (R168, R169,
R427): their pad handles, the frames they are bound in, and their elements. -/
namespace Sys2Proof.Machine

open Sys2Proof

/-! Names of tensors: role + 2^12 × (layer + 2^8 × (core + 2^9 × command)). A sum or feed of a column
group or slice g stands at core 256 + g. -/

def tkey (cmd core layer role : Nat) : Nat := role + 2 ^ 12 * (layer + 2 ^ 8 * (core + 2 ^ 9 * cmd))
def tRole (k : Nat) : Nat := k % 2 ^ 12
def tLayer (k : Nat) : Nat := k / 2 ^ 12 % 2 ^ 8

/-- X_i. -/
def rX : Nat := 0
/-- Forward output of stage k. -/
def rOut (k : Nat) : Nat := 1 + k
/-- Recomputed output of stage k in sweep sw, and the gradient of that output. -/
def rRe (k sw : Nat) : Nat := 16 + k + 8 * sw
def rGr (k sw : Nat) : Nat := 32 + k + 8 * sw
/-- Rows of sweep sw: of X_i, of the incoming gradient, and of the gradient of X_i. -/
def rXs (sw : Nat) : Nat := 48 + sw
def rGs (sw : Nat) : Nat := 50 + sw
def rGx (sw : Nat) : Nat := 52 + sw
/-- A buffer that is EMPTY and may be bound again (R169). -/
def rSpare : Nat := 54
/-- Bands of the working frames of attention: scores, p, row statistics, dp, ds. -/
def rScore : Nat := 55
def rProb : Nat := 56
def rStat : Nat := 57
def rDp : Nat := 58
def rDs : Nat := 59
/-- The gradient of X_i between two layers (R203). -/
def rDx : Nat := 62
/-- Panel buffers. -/
def rPanel (b : Nat) : Nat := 60 + b
/-- Sums: over the clusters of a slice (forward; backward), over a column group, and of attention. -/
def rSum (k : Nat) : Nat := 64 + k
def rSumB (k sw : Nat) : Nat := 80 + k + 8 * sw
def rSumW (k : Nat) : Nat := 96 + k
def rSumA (k e : Nat) : Nat := 104 + 2 * k + e
def rSumH (head v : Nat) : Nat := 128 + 2 * head + v

/-! Pad words (R115, R168). -/

/-- Cells of a row of `cols` elements in format `f`. -/
def cellsOf (cols f : Nat) : Nat := ceilDiv (cols * fmtBytes f) 16

/-- Words of a buffer of `rows` rows of `cols` elements in format `f`. -/
def padWords (rows cols f : Nat) : Nat := rows * ceilDiv (cellsOf cols f) 64

/-! Tensors. -/

def tenOf (s : State) (k : Nat) : Option Ten := s.blk.tens.find? (·.key == k)
def updTen (s : State) (k : Nat) (f : Ten → Ten) : State :=
  s.onBlk fun b => { b with tens := b.tens.map fun t => if t.key == k then f t else t }
/-- The tensor takes another name, and its elements another numeric word. -/
def renameTen (s : State) (k k' num : Nat) : State := updTen s k fun t => { t with key := k', num := num }

def tenH (s : State) (k : Nat) : Nat := (tenOf s k).elim 0 (·.h)
def tenNum (s : State) (k : Nat) : Nat := (tenOf s k).elim 0 (·.num)
def Ten.handle (t : Ten) (s : State) : Handle := hnd s t.core t.h

/-- The tensor is whole and in the pad. -/
def tenReady (s : State) (k : Nat) : Bool :=
  (tenOf s k).any fun t => t.park.isNone && ((t.handle s).state == hReady || (t.handle s).state == hInUse)

/-- Words of a tensor (R115). -/
def tenWords (t : Ten) : Nat := padWords t.rows t.cols (numFmt t.num)

/-- Exponent of a numeric word's slot, as the command read it at issue (R64). -/
def expOf (s : State) (cmd num : Nat) : Int := ((s.cmd? cmd).map fun c => c.exp (numSlot num)).getD 0

/-! Binding (R126, R128, R169). A frame holds one band, or several (panel buffers, working frames), or
lies over the frame of another tensor (R432). -/

structure Band where
  key : Nat
  num : Nat
  cols : Nat
  col0 : Nat
  retain : Bool
  deriving DecidableEq, Repr

structure Frame where
  rows : Nat
  width : Nat
  bands : List Band
  /-- the tensor whose frame it shares -/
  onto : Option Nat
  deriving DecidableEq, Repr

/-- The frame of one tensor. -/
def plainFrame (key num rows cols : Nat) (retain : Bool) : Frame :=
  ⟨rows, max 1 (ceilDiv (cellsOf cols (numFmt num)) 64), [⟨key, num, cols, 0, retain⟩], none⟩

/-- The lowest base at which `n` words are free on core `c`. -/
def freeBase (s : State) (c n : Nat) : Option Nat :=
  let es := (boundOn s c).map (·.2)
  let ok := (0 :: es.map fun e => e.base + e.rows * e.width).filter fun b =>
    decide (b + n ≤ 2048) && es.all fun e => !meets b n e.base (e.rows * e.width)
  ok.foldl (fun a b => match a with
    | none => some b
    | some x => some (min x b)) none

def freeHandle (s : State) (c : Nat) : Option Nat := (List.range 64).find? fun h => !(hnd s c h).bound

/-- Release a tensor of the command: its handle is unbound. -/
def freeTen (s : State) (k : Nat) : State :=
  match tenOf s k with
  | none => s
  | some t => (if t.park.isNone then unbind s t.core t.h else s).onBlk fun b => { b with
      tens := b.tens.filter (·.key != k) }

/-- Unbind the EMPTY buffers that the command keeps on a core for its next producers. -/
def freeSpares (s : State) (cmd c : Nat) : State :=
  let l := s.blk.tens.filter fun t => t.cmd == cmd && t.core == c && tRole t.key == rSpare
  (l.foldl (fun s t => unbind s t.core t.h) s).onBlk fun b => { b with tens := b.tens.filter (!l.contains ·) }

/-- Own frames of a command on a core, by base. -/
def ownFrames (s : State) (cmd c : Nat) : List (Nat × Nat) :=
  let hs := (s.blk.tens.filter fun t => t.cmd == cmd && t.core == c && t.park.isNone).map (·.h)
  let fs := hs.map fun h => ((hnd s c h).base, (hnd s c h).rows * (hnd s c h).width)
  (fs.foldl (fun l f => insertAsc f.1 l) []).filterMap fun b => fs.find? (·.1 == b)

/-- New places of frames, each at the lowest base that is free: (old base, words, new base). -/
def replan (fixed : List (Nat × Nat)) : List (Nat × Nat) → List (Nat × Nat × Nat)
  | [] => []
  | (b, n) :: t =>
    let ok := (0 :: fixed.map fun f => f.1 + f.2).filter fun x => fixed.all fun f => !meets x n f.1 f.2
    let b' := ok.foldl min b
    (b, n, b') :: replan ((b', n) :: fixed) t

/-- Words move within a pad: contents, errors, and the bases of the handles there. Words that no handle
covers are cleared. -/
def moveFrames (s : State) (c : Nat) (plan : List (Nat × Nat × Nat)) : State :=
  let place := fun (w : Nat) => (plan.find? fun p => decide (p.1 ≤ w) && decide (w < p.1 + p.2.1)).map fun p => w - p.1 + p.2.2
  let kept := fun (w : Nat) => (boundOn s c).any fun (_, e) => decide (e.base ≤ w) && decide (w < e.base + e.rows * e.width)
  let mine := s.pad.mem.filter fun (a, _) => a / 2 ^ 21 == c
  let rest := s.pad.mem.filter fun (a, _) => a / 2 ^ 21 != c
  let mem := mine.foldl (fun m (a, v) =>
    let w := a % 2 ^ 21 / 1024
    match place w with
    | some w' => memWrite m (padWordAddr c w' + a % 1024) v
    | none => if kept w then memWrite m a v else m) rest
  let move := fun (l : List Nat) => l.foldl (fun l k =>
    if k / 2 ^ 17 != c then insertAsc k l
    else match place (k / 64 % 2048) with
      | some w' => insertAsc (2 ^ 17 * c + 64 * w' + k % 64) l
      | none => insertAsc k l) []
  s.onPad fun p => { p with
    mem := mem
    ue := move p.ue
    sym := move p.sym
    handles := p.handles.map fun (k, e) =>
      if k / 64 == c then (k, (plan.find? (·.1 == e.base)).elim e fun q => { e with base := q.2.2 }) else (k, e) }

/-- The command's frames on a core are moved together, so that the words between them lie free. -/
def repack (s : State) (cmd c : Nat) : State :=
  let own := ownFrames s cmd c
  let fixed := ((boundOn s c).map fun (_, e) => (e.base, e.rows * e.width)).filter fun f => !(own.any (·.1 == f.1))
  moveFrames s c (replan fixed own)

/-- Bind one band of a frame (R128): in state EMPTY, for the command's context. -/
def bindBand (cmd c base rows width : Nat) (onto : Option Nat) (s : State) (b : Band) : Option State :=
  match s.cmd? cmd, freeHandle s c with
  | some k, some h =>
    let e := { Handle.unbound with
      base := base
      rows := rows
      width := width
      fmt := numFmt b.num
      retain := b.retain
      aliased := onto.isSome
      aliasOf := onto.getD 0
      ctx := k.ctx
      gen := k.gen
      col0 := b.col0
      cols := max 1 (cellsOf b.cols (numFmt b.num)) }
    if bindOk s c h e then
      some ((s.onPad fun p => { p with handles := Tbl.set Handle.unbound p.handles (hKey c h) e }).onBlk fun k => { k with
        tens := k.tens ++ [⟨b.key, cmd, c, b.num, rows, b.cols, h, none⟩] })
    else none
  | _, _ => none

def bindBands (cmd c base rows width : Nat) (onto : Option Nat) : List Band → State → Option State
  | [], s => some s
  | b :: t, s => (bindBand cmd c base rows width onto s b).bind (bindBands cmd c base rows width onto t)

/-- What binding a frame comes to: it waits for a bank group or a scrub; a gated group begins to wake;
no place is left; or it is bound. -/
inductive Bind where
  | wait
  | wake (s : State)
  | fail
  | ok (s : State)
  deriving DecidableEq, Repr

/-- The groups a bind reaches (R146): a pending gate of a covered group ends (R145). -/
def bindGroups (s0 s : State) (c : Nat) (gs : List Nat) : Bind :=
  if scrubHolds s0 c || gs.any (fun g => (groupOf s0 c g).st == 3) then .wait
  else if gs.any fun g => (groupOf s0 c g).st == 2 then .wake (gs.foldl (wakeGroup c) s0)
  else .ok (gs.foldl (fun s g => if (groupOf s c g).st = 1 then setGroup s c g 0 else s) s)

/-- Bind a frame where it fits, after giving back EMPTY buffers and moving the command's own frames
together where it does not. -/
def bindFrame (cmd c : Nat) (f : Frame) (s : State) : Bind :=
  match f.onto with
  | some k =>
    match tenOf s k with
    | none => .fail
    | some t =>
      let e := t.handle s
      (bindBands cmd c e.base e.rows e.width (some t.h) f.bands s).elim .fail fun s' => .ok s'
  | none =>
    let n := f.rows * f.width
    let s1 := if (freeBase s c n).isSome then s else freeSpares s cmd c
    let tight := (freeBase s1 c n).isNone
    let s2 := if tight then repack s1 cmd c else s1
    match freeBase s2 c n with
    | none => .fail
    | some b =>
      match bindBands cmd c b f.rows f.width none f.bands s2 with
      | none => .fail
      | some s' => bindGroups s s' c (if tight then List.range 8
          else (List.range 8).filter fun g => meets b n (256 * g) 256)

/-- An EMPTY buffer of the same shape serves the next producer (R169). -/
def spareFor (s : State) (cmd c : Nat) (f : Frame) : Option Ten :=
  match f.onto, f.bands with
  | none, [b] => s.blk.tens.find? fun t =>
      t.cmd == cmd && t.core == c && tRole t.key == rSpare && !b.retain && t.rows == f.rows
        && (t.handle s).width == f.width && (t.handle s).fmt == numFmt b.num && t.cols == b.cols
  | _, _ => none

def takeSpare (s : State) (t : Ten) (b : Band) : State :=
  s.onBlk fun k => { k with
    tens := k.tens.map fun u => if u = t then { u with key := b.key, num := b.num } else u }

/-- Bind frames in order; frames that are bound already stay. -/
def bindAll (cmd c : Nat) : List Frame → State → Bind
  | [], s => .ok s
  | f :: t, s =>
    if (f.bands.head?).any fun b => (tenOf s b.key).isSome then bindAll cmd c t s
    else match spareFor s cmd c f, f.bands.head? with
      | some u, some b => bindAll cmd c t (takeSpare s u b)
      | _, _ =>
        match bindFrame cmd c f s with
        | .ok s' => bindAll cmd c t s'
        | r => r

/-- Words that binding a frame takes. -/
def Frame.words (f : Frame) : Nat := if f.onto.isSome then 0 else f.rows * f.width

/-! Claims and readers of a command's own tensors. -/

/-- The writer of a tensor claims its handle (R130). -/
def claimTen (s : State) (cmd key src : Nat) : State :=
  match tenOf s key with
  | none => s
  | some t =>
    (addOut s cmd (hKey t.core t.h)).onPad fun p => { p with
      handles := Tbl.upd Handle.unbound p.handles (hKey t.core t.h) fun e =>
        claim e cmd src (t.rows * t.cols * fmtBytes e.fmt) }

/-- The tensor may be claimed now (R132). -/
def mayClaimTen (s : State) (cmd key : Nat) : Bool := (tenOf s key).any fun t => canClaim (t.handle s) cmd

/-- A core operation acquires a handle for reading (R131). -/
def readHandle (s : State) (cmd c h : Nat) : State := addIn (updHnd s c h acquire) cmd (hKey c h)

def readTen (s : State) (cmd key : Nat) : State :=
  match tenOf s key with
  | none => s
  | some t => readHandle s cmd t.core t.h

/-- Nothing else lies in the frame of a handle. -/
def soleBand (s : State) (c h : Nat) : Bool :=
  let e := hnd s c h
  (boundOn s c).all fun (i, b) => i == h || b.base != e.base

/-- The last reader's release left the handle EMPTY: it is kept for the next producer, or unbound where
another band shares its frame. -/
def retireTen (s : State) (t : Ten) : State :=
  if (t.handle s).state != hEmpty then s
  else if soleBand s t.core t.h then updTen s t.key fun u => { u with key := tkey t.cmd t.core 255 rSpare }
  else freeTen s t.key

/-- A core operation releases a tensor it read (R130, R169). -/
def doneReading (s : State) (cmd key : Nat) : State :=
  match tenOf s key with
  | none => s
  | some t =>
    let s := delIn (updHnd s t.core t.h releaseReader) cmd (hKey t.core t.h)
    retireTen s t

/-! Elements. -/

/-- Element (r, c) of a tensor in its pad as a real value, its scale removed. -/
def tenVal (s : State) (cmd key r c : Nat) : FVal :=
  match tenOf s key with
  | none => .nan
  | some t =>
    let e := t.handle s
    let z := fmtBytes e.fmt
    fscale (decodeElem e.fmt ((bytesElems e.fmt (padReadRow s t.core e r (c * z) z)).headD 0)) (-(expOf s cmd t.num))

/-- Write elements of a row through a port; a tensor's last cell is filled up with zeros. Answers
whether a partial write was dropped (R140). -/
def putElems (s : State) (c port h row col : Nat) (vs : List Nat) (ctx : Option Nat) : State × Bool :=
  let e := hnd s c h
  let z := fmtBytes e.fmt
  if e.rows ≤ row then (s, false)
  else
    let bs := (elemBytes e.fmt vs).take (16 * e.cols - col * z)
    let ends := s.blk.tens.any fun t => t.core == c && t.h == h && t.park.isNone && decide (t.cols ≤ col + vs.length)
    let fill := if ends then (16 - (col * z + bs.length) % 16) % 16 else 0
    let d := bs ++ List.replicate fill 0#8
    let drop := droppedCells s c e row (col * z) d.length
    let s := padUes (padWriteRow s c e row (col * z) d) c port (some h) 1 ctx drop
    (updHnd s c h fun e => landed e bs.length, !drop.isEmpty)

/-- The cells of rows [r, r + k) of a handle. -/
def handleCells (s : State) (c h r k : Nat) : List Nat :=
  let e := hnd s c h
  (List.range (min k (e.rows - r))).flatMap fun i => rowCells c e (r + i) 0 (16 * e.cols)

/-- Rows [r, r + k) of a handle as bytes. -/
def handleBytes (s : State) (c h r k : Nat) : List Byte :=
  let e := hnd s c h
  (List.range (min k (e.rows - r))).flatMap fun i => padReadRow s c e (r + i) 0 (16 * e.cols)

/-- Row lines of rows [r, r + k) of a handle's band (R118). -/
def bandLines (e : Handle) (k : Nat) : Nat := k * lineSpan e 0 (16 * e.cols)

end Sys2Proof.Machine
end

