-- ==== Sys2Proof/Machine/CoreOps.lean ====
section
/-! DEFINITION. Operations on cores (chapter 3): operand tiles, accumulators and drains, faults,
the core-operation queue, and the conditions under which a product is taken and a pass issues. -/
namespace Sys2Proof.Machine

open Sys2Proof

def f32 (x : FVal) : FVal := ofF32 (toF32 x)

/-- One FP32 addition. -/
def add32 (a b : FVal) : FVal := f32 (fadd a b)

/-! Matrices and tiles (R117, R123, R124). -/

def panelOf (s : State) (core feed chunk : Nat) : Option PanelBuf :=
  s.blk.panels.find? fun b => b.core == core && b.feed == feed && b.chunk == some chunk

/-- The core and handle that hold a matrix. -/
def srcAt (s : State) (core : Nat) : Src → Nat × Nat
  | .pad h => (core, h)
  | .far c h => (c, h)
  | .panel f n => (core, (panelOf s core f n).elim 0 (·.h))

def srcFmt (s : State) (core : Nat) (x : Src) : Nat := (hnd s (srcAt s core x).1 (srcAt s core x).2).fmt

/-- Raw elements [c, c + n) of row r of a handle; those outside the matrix read as zero (R117). -/
def handleRow (s : State) (core h r c n : Nat) : List Nat :=
  let e := hnd s core h
  let z := fmtBytes e.fmt
  if e.rows ≤ r then List.replicate n 0
  else
    let have_ := min n (16 * e.cols / max 1 z - c)
    bytesElems e.fmt (padReadRow s core e r (c * z) (have_ * z)) ++ List.replicate (n - have_) 0

/-- Elements of a tile as its consumer places them: index 64 i + j holds T[i, j], or T[j, i] with
TURN set. -/
def tileElems (s : State) (core : Nat) (t : Tile) : List Nat :=
  let a := srcAt s core t.src
  let rows := (List.range 64).map fun i => handleRow s a.1 a.2 (64 * t.row + i) (64 * t.col) 64
  if t.turn then (List.range 64).flatMap fun i => rows.map fun r => r.getD i 0
  else rows.flatMap id

/-- Cells of a tile. -/
def tileCells (s : State) (core : Nat) (t : Tile) : List Nat :=
  let a := srcAt s core t.src
  let e := hnd s a.1 a.2
  let z := fmtBytes e.fmt
  let n := min (64 * z) (16 * e.cols - 64 * t.col * z)
  (List.range 64).flatMap fun i =>
    if 64 * t.row + i < e.rows then rowCells a.1 e (64 * t.row + i) (64 * t.col * z) n else []

/-- Rows of a tile that lie in its matrix. -/
def tileRows (s : State) (core : Nat) (t : Tile) : Nat :=
  let a := srcAt s core t.src
  min 64 ((hnd s a.1 a.2).rows - 64 * t.row)

/-- Lines a tile takes. -/
def tileLines (f : Nat) : Nat := 4 * fmtBytes f

/-- The same lines of the pad, whatever their routing. -/
def Tile.same (a b : Tile) : Bool := a.src = b.src && a.row == b.row && a.col == b.col

def distinctTiles (l : List Tile) : List Tile :=
  l.foldl (fun a t => if a.any (Tile.same t) then a else a ++ [t]) []

/-- The lines of a tile are read over an engine port, those of another core's pad after a transfer over
both X ports (R118, R431); every cell is checked (R139). Answers whether the tile is uncorrectable. -/
def readTile (s : State) (core port : Nat) (ctx : Option Nat) (t : Tile) : State × Bool :=
  let a := srcAt s core t.src
  let e := hnd s a.1 a.2
  let n := tileLines e.fmt
  let near := fun (s : State) => s.count64 (coreBlk core + 0x420 + 8 * port) n
  let k := min 64 (e.rows - 64 * t.row)
  let (s, bad) := match t.src with
    | .far c h =>
      let s := near (s.count64 (coreBlk core + 0x430) n)
      checkCells (moveLines s c 2 n e (64 * t.row) k) c 2 (some h) ctx (tileCells s core t)
    | _ => checkCells (moveLines s core port n e (64 * t.row) k) core port (some a.2) ctx (tileCells s core t)
  (s, !bad.isEmpty)

/-! A command's narrowings. -/

def State.narrow {α : Type} (s : State) (id : Nat) (d : α) (f : Cmd → Cmd × α) : State × α :=
  match s.cmd? id with
  | none => (s, d)
  | some c => let r := f c; (s.updCmd id fun _ => r.1, r.2)

/-- The context of a command. -/
def ctxOf (s : State) (id : Nat) : Option Nat := (s.cmd? id).map (·.ctx)

/-! Accumulators (R82, R86, R53). -/

/-- The exact products added to an accumulator element since it was cleared. -/
def accTerms (s : State) (cmd core arr bank half row col : Nat) : List FVal :=
  (s.core.acc.filter fun w => w.cmd == cmd && w.core == core && w.arr == arr && w.bank == bank && w.half == half
      && decide (w.row0 ≤ row) && decide (row < w.row0 + 64)).flatMap fun w =>
    (List.range 64).map fun k =>
      fmul (decodeElem w.fmtB (w.stream.getD (64 * (row - w.row0) + k) 0))
        (decodeElem w.fmtA (w.stat.getD (64 * k + col) 0))

/-- The element's value: −0 and every product, summed in FP32X in an open order. -/
def accValue (s : State) (cmd core arr bank half row col : Nat) : State × FVal :=
  let l := FVal.zero true :: accTerms s cmd core arr bank half row col
  ({ s with free := s.free + l.length }, freeSum addX s.free l)

def accRow (s : State) (cmd core arr bank half row : Nat) : Nat → State × List FVal
  | 0 => (s, [])
  | n + 1 =>
    let (s, l) := accRow s cmd core arr bank half row n
    let (s, v) := accValue s cmd core arr bank half row n
    (s, l ++ [v])

/-! Faults (R98, R102 to R104, R111, R112, R223). -/

def coreLatch (c : Nat) : Nat := coreBlk c + 0x8

/-- The halves of each array that a running pass uses. -/
def passHalves (r : RunPass) : List Nat :=
  if r.packed then [r.half]
  else if r.works.all (fun w => decide (w.1.cols ≤ 32)) then [0] else [0, 1]

/-- The running passes of the site's oldest pass: the two halves of a packed pass are one pass. -/
def oldestPass (s : State) (c site : Nat) : List RunPass :=
  let rs := s.core.running.filter fun r => r.core == c && r.site == site
  rs.filter fun r => some r.no == rs.head?.map (·.no)

/-- A command whose fault is recorded: serial, context and generation. -/
def faultWho (s : State) (id : Nat) : Nat :=
  match s.cmd? id with
  | some c => c.serial % 2 ^ 32 + c.ctx * 2 ^ 32 + c.gen * 2 ^ 38
  | none => 0

/-- Backward block commands that run on the core: a fault there aborts them (R223), but for one whose
passes share a site with the faulting half (R98). -/
def blockOn (s : State) (c : Nat) : List Nat :=
  (s.blk.runs.filter fun r => (r.kind == 1 || r.kind == 2) && r.parts.any (·.core == c)
    && !(s.core.running.any fun p => p.core == c && p.cmd == r.cmd && p.packed)).map (·.cmd)

/-- The commands that end when command `id` faults: the whole of its batch (R102). -/
def batchOf (s : State) (id : Nat) : List Nat :=
  (s.blk.runs.find? fun r => r.batch.any (·.1 == id)).elim [id] fun r => r.batch.map (·.1)

/-- Latch a fault of core `c`: latch bits, cause, site and half of the record, the commands it aborts
(the one in columns 0–31 first), and whether they are two packed ones. Their passes on the core stop
(R103); passes on other cores run to their end. -/
def latchFault (s : State) (c : Nat) (bitsSet : List Nat) (cause site half : Nat) (ids : List Nat) (both : Bool) :
    State :=
  let info := coreBlk c + 0x10
  let first := s.reg (coreLatch c) == 0
  let rec_ := faultWho s (ids.headD 0) + cause * 2 ^ 46 + site * 2 ^ 50 + half * 2 ^ 53 + b2n both * 2 ^ 54
  let s := if first then s.setReg info rec_ else s.setReg info (setBit (s.reg info) 55 true)
  let s := bitsSet.foldl (fun s b => s.latch (coreLatch c) b) s
  let s := s.count32 (coreBlk c + 0x48) 1
  let s := logEvent s clsFault (bitsSet.headD 0) (coreCpath c 5) ((ids.head?).bind (ctxOf s)) (s.reg info)
  let s := fenceEvent s c
  let all := dedupNat ((ids ++ blockOn s c).flatMap (batchOf s))
  let s := all.foldl (fun s i => endCmd s i stAborted) s
  s.onCore fun k => { k with running := k.running.filter fun r => !(r.core == c && all.contains r.cmd) }

/-- Commands with a running pass or a pending drain on array `arr` (both arrays for `none`) of engine
`site` that use one of the halves, by half, and whether each is packed. A fault before the last drain
write of a command aborts it (R104). -/
def siteCmds (s : State) (c site : Nat) (arr : Option Nat) (halves : List Nat) : List (Nat × Nat × Bool) :=
  let mine := fun (a : Nat) => arr.all (· == a)
  let run := (s.core.running.filter fun r => r.core == c && r.site == site && r.works.any (fun w => mine w.1.arr)
    && (passHalves r).any halves.contains).map fun r => (r.half, r.cmd, r.packed)
  let late := (s.core.drains.filter fun d => d.core == c && d.site == site && mine d.drain.arr
    && (halves.contains d.half || (d.half == 0 && decide (32 < d.drain.cols)))).map fun d => (d.half, d.cmd, d.half == 1)
  (run ++ late).filter (·.1 == 0) ++ (run ++ late).filter (·.1 != 0)

/-- A fault at an engine site, with the commands in the halves it reaches. -/
def siteFault (s : State) (c : Nat) (bitsSet : List Nat) (kind rec_ half : Nat) (l : List (Nat × Nat × Bool)) : State :=
  let ids := dedupNat (l.map (·.2.1))
  let both := decide (1 < ids.length) && l.any (fun e => e.1 == 1 && e.2.2) && l.any (·.1 == 0)
  latchFault s c bitsSet kind rec_ half ids both

/-- A fault of cause `kind` at array site 0–5, the VU (6), or the stationary stage of the FE (7) or
of a BE pair (8, 9). Of an unpacked pass, a fault of a delivered line or of the sequencer reaches every
half that the pass uses. Of both halves, the VU or a stage, HALF is 0 (assumption log 52). -/
def coreFaultAt (s : State) (c site kind half : Nat) : State :=
  if site < 6 then
    let packed := (oldestPass s c (site / 2)).any (·.packed)
    let used := dedupNat (((oldestPass s c (site / 2)).filter fun r => r.works.any (·.1.arr == site % 2)).flatMap passHalves)
    let halves := if (kind == 6 || kind == 1) && !packed && !used.isEmpty then used else [half]
    siteFault s c (halves.map fun h => 2 * site + h) kind site (halves.headD 0)
      (siteCmds s c (site / 2) (some (site % 2)) halves)
  else if site = 6 then
    latchFault s c [15] kind 6 0 ((s.core.vuq.find? fun v => v.core == c && v.queued).toList.map (·.cmd)) false
  else siteFault s c [12 + (site - 7)] kind 7 0 (siteCmds s c (site - 7) none [0, 1])

/-! Drains (R54, R86, R101, R125). -/

/-- The command that owns row i of a drain. -/
def rowOwner : List (Nat × Nat) → Nat → Nat → Nat
  | [], d, _ => d
  | (c, n) :: t, d, i => if i < n then c else rowOwner t d (i - n)

def engPort (site : Nat) : Nat := if site = 0 then 0 else 1

/-- Real values of a drained row: the input scales removed (R54). -/
def drainVals (p : PendDrain) (i : Nat) (s : State) : State × List FVal :=
  let d := p.drain
  let own := rowOwner d.owners p.cmd i
  let (s, vs) := accRow s p.cmd p.core (2 * p.site + d.arr) d.bank p.half (d.row0 + i) d.cols
  let e := expOf s own d.ins.1 + expOf s own d.ins.2
  (s, vs.map fun v => fscale v (-e))

/-- Narrow drained values, the j-th in lane j of its array. -/
def drainNarrow (p : PendDrain) (i : Nat) (xs : List FVal) (s : State) : State × List Nat :=
  let d := p.drain
  let lane := fun j => coreLane p.core (2 * p.site + d.arr) (32 * p.half + j)
  s.narrow (rowOwner d.owners p.cmd i) [] fun c =>
    xs.foldl (fun (a : Cmd × List Nat) x =>
      let l := lane a.2.length
      let (c, v) := match d.sink with
        | .add .. => narrowElem a.1 0 0 false 0 l x
        | _ => if d.ali then narrowElem a.1 6 (numSlot d.num) (numSto d.num) (a.1.exp (numSlot d.num) - d.room) l x
            else narrowNum a.1 d.num l x
      (c, a.2 ++ [v])) (c, [])

/-- Narrow FP32 values of elements from column `col` on through site 6 of a core (R166). A value marked
non-finite was counted where it entered a sum (R80). -/
def narrowVia (s : State) (cmd core num col : Nat) (xs : List (Bool × FVal)) : State × List Nat :=
  s.narrow cmd [] fun c => xs.foldl (fun (a : Cmd × List Nat) x =>
    let (c, v) := narrowDelivered a.1 num (coreLane core 6 ((col + a.2.length) % 128)) x.1 x.2
    (c, a.2 ++ [v])) (c, [])

/-- Add FP32 values to elements of a handle written with word `old`, and narrow the sums (R166). Answers
whether an uncorrectable cell was read. -/
def addOnto (s : State) (cmd core src row col num old : Nat) (vs : List (Bool × FVal)) : State × Bool × List Nat :=
  let e := hnd s core src
  let z := fmtBytes e.fmt
  let (s, bad) := checkCells s core 2 (some src) (ctxOf s cmd) (rowCells core e row (col * z) (vs.length * z))
  let was := handleRow s core src row col vs.length
  let ex := expOf s cmd old
  let (s, rs) := narrowVia s cmd core num col ((List.range vs.length).map fun j =>
    let v := vs.getD j (false, .nan)
    (v.1, add32 v.2 (fscale (decodeElem e.fmt (was.getD j 0)) (-ex))))
  (s, !bad.isEmpty, rs)

/-- A partial write that was dropped aborts its command (R140). -/
def dropAborts (cmd : Nat) (r : State × Bool) : State := if r.2 then endCmd r.1 cmd stAborted else r.1

/-- Drain row i of a bank into a pad. -/
def drainRow (p : PendDrain) (i : Nat) (s : State) : State :=
  let d := p.drain
  let ctx := ctxOf s p.cmd
  let (s, xs) := drainVals p i s
  let (s, rs) := drainNarrow p i xs s
  match d.sink with
  | .out h row col => dropAborts p.cmd (putElems s p.core (engPort p.site) h (row + i) col rs ctx)
  | .head h row col _ => dropAborts p.cmd (putElems s p.core (engPort p.site) h (row + i) col rs ctx)
  | .add src h row col num old =>
    let (s, bad, ws) := addOnto s p.cmd p.core src (row + i) col num old (rs.map fun w => (false, ofF32 w))
    if bad then latchFault s p.core [15] 1 6 0 [p.cmd] false
    else dropAborts p.cmd (putElems s p.core 2 h (row + i) col ws ctx)
  | .sum .. => s

def drainRows (p : PendDrain) : Nat → State → State
  | 0, s => s
  | n + 1, s => drainRow p n (drainRows p n s)

/-- Rows of a drain that enter ALIGNED32: a group for each (R288). -/
def drainGroups (p : PendDrain) : Nat → State → State × List LaneGroup
  | 0, s => (s, [])
  | n + 1, s =>
    let (s, l) := drainGroups p n s
    let (s, xs) := drainVals p n s
    let before := (s.cmd? p.cmd).elim 0 (·.ovfSat)
    let (s, rs) := drainNarrow p n xs s
    (s, l ++ [groupOf64 (List.zipWith laneOf rs xs) ((s.cmd? p.cmd).elim 0 (·.ovfSat) != before)])

/-- Column lines of a drained tile (R125). -/
def Drain.lines (s : State) (core : Nat) (d : Drain) : Nat :=
  match d.sink with
  | .out h _ _ => ceilDiv (d.cols * fmtBytes (hnd s core h).fmt) 16
  | .head h _ _ _ => ceilDiv (d.cols * fmtBytes (hnd s core h).fmt) 16
  | .add .. => ceilDiv (d.cols * 4) 16
  | .sum .. => ceilDiv (d.cols * 4) 16

/-- The lines of a drain move over its port: the engine's into a pad, the vector unit's where it adds. -/
def drainLines (p : PendDrain) (s : State) : State :=
  let d := p.drain
  match d.sink with
  | .out h row _ => moveLines s p.core (engPort p.site) (d.lines s p.core) (hnd s p.core h) row d.rows
  | .head h row _ _ => moveLines s p.core (engPort p.site) (d.lines s p.core) (hnd s p.core h) row d.rows
  | .add src h row _ _ _ =>
    let n := d.rows * ceilDiv (d.cols * fmtBytes (hnd s p.core h).fmt) 1024
    moveLines (moveLines s p.core 2 n (hnd s p.core src) row d.rows) p.core 2 n (hnd s p.core h) row d.rows
  | .sum .. => s

/-- A drain writes its rows, or enters them into a sum. -/
def runDrain (p : PendDrain) (s : State) : State :=
  match p.drain.sink with
  | .sum key row col =>
    let (s, gs) := drainGroups p p.drain.rows s
    contribute s key (coreCluster p.core) (p.drain.rows * p.drain.cols) (fun b i => b.at (row + i) col) gs
  | _ => drainRows p p.drain.rows (drainLines p s)

/-- Clear the bank rows that were drained. -/
def clearAcc (s : State) (p : PendDrain) : State :=
  let d := p.drain
  s.onCore fun c => { c with
    acc := c.acc.filter fun w => !(w.cmd == p.cmd && w.core == p.core && w.arr == 2 * p.site + d.arr && w.bank == d.bank
      && w.half == p.half && decide (d.row0 ≤ w.row0) && decide (w.row0 < d.row0 + d.rows)) }

/-! The core-operation queue (R81, R109, R110). -/

/-- Core operations in the queue whose products have not all been taken, and vector operations. -/
def queueOps (s : State) (c : Nat) : List Nat :=
  dedupNat ((s.core.products.filter fun p => p.core == c && p.queued && p.site.isNone).map (·.op))
    ++ (s.core.vuq.filter fun v => v.core == c && v.queued).map (·.id)

def queueDepth (s : State) (c : Nat) : Nat := (queueOps s c).length

/-- Core operations of the core that have not entered the queue, oldest first. -/
def waitingOps (s : State) (c : Nat) : List Nat :=
  ((s.core.products.filter fun p => p.core == c && !p.queued).map (·.op)
    ++ (s.core.vuq.filter fun v => v.core == c && !v.queued).map (·.id)).foldl (fun l a => insertAsc a l) []

/-- Operations enter the queue while it has room and the core accepts them. -/
def enterOps (s : State) (c : Nat) : State :=
  if !bit (s.reg (coreBlk c)) 0 || fenced s c || bit (s.reg (coreBlk c)) 1 then s
  else
    let now := (waitingOps s c).take (32 - queueDepth s c)
    if now.isEmpty then s
    else s.onCore fun k => { k with
      products := k.products.map fun p => if p.core == c && now.contains p.op then { p with queued := true } else p
      vuq := k.vuq.map fun v => if v.core == c && now.contains v.id then { v with queued := true } else v }

def enterAllOps (s : State) : State :=
  (dedupNat (((s.core.products.filter (!·.queued)).map (·.core)) ++ (s.core.vuq.filter (!·.queued)).map (·.core))).foldl
    enterOps s

/-! Taking products and issuing passes (R87, R92 to R98). -/

def coreUsable (s : State) (c : Nat) : Bool := !fenced s c && !bit (s.reg (coreBlk c)) 1

/-- The latches of the array halves and the stage that a pass uses are clear (R87 item 7). -/
def latchesClear (s : State) (p : Product) (q : Pass) (site : Nat) : Bool :=
  let l := s.reg (coreLatch p.core)
  let halves := if p.packed then [p.half] else if p.outW ≤ 32 then [0] else [0, 1]
  !bit l (12 + site) && q.works.all fun w => halves.all fun h => !bit l (2 * (2 * site + w.arr) + h)

/-- The class of a product may run on a site (R92, R95). -/
def classOk (s : State) (p : Product) (site : Nat) : Bool :=
  if p.pair ≠ 0 then site == p.pair
  else if p.cls = 0 then site == 0
  else if p.cls = 1 then site == 0 || bit (s.reg (coreBlk p.core)) 3
  else site != 0

/-- Its command holds the handle for reading, or can acquire it now. -/
def readable (s : State) (p : Product) (h : Nat) : Bool :=
  (s.cmd? p.cmd).any (fun c => c.ins.contains (hKey p.core h)) || canAcquire (hnd s p.core h) p.cmd

/-- A tile's matrix can be read now: a panel's chunk has come, and its words are powered (R87 items 1
to 3 and 6, R146). -/
def srcReady (s : State) (core : Nat) (x : Src) : Bool :=
  let a := srcAt s core x
  let e := hnd s a.1 a.2
  (match x with
    | .panel f n => (panelOf s core f n).isSome
    | _ => true)
    && (e.state == hReady || e.state == hInUse) && groupsReady s a.1 e false

/-- Every operand is in place and every output claimed (R87 items 1 to 3 and 6, R131). -/
def operandsReady (s : State) (p : Product) (q : Pass) : Bool :=
  (p.reads.all fun h => readable s p h && groupsReady s p.core (hnd s p.core h) false)
    && (q.works.all fun w => srcReady s p.core w.stat.src && srcReady s p.core w.stream.src)
    && p.writes.all fun h =>
      let e := hnd s p.core h
      e.claimed && e.owner == p.cmd && e.state == hFilling && groupsReady s p.core e true

/-- The target banks are neither being drained nor waiting, for the last partial sums of a pass or for
their drain (R87 item 4). -/
def banksFree (s : State) (p : Product) (q : Pass) (site half : Nat) : Bool :=
  let hits := fun (d : Drain) => q.works.any fun w => d.arr == w.arr && d.bank == w.bank
  !(s.core.drains.any fun d => d.core == p.core && d.site == site && d.half == half && hits d.drain)
    && !(s.core.running.any fun r => r.core == p.core && r.site == site && r.half == half && r.drains.any hits)

/-- The drain buffer of each array has room for the lines of the pass's last tile beside those of the
drains that wait (R86, R87 item 5). -/
def drainRoom (s : State) (p : Product) (q : Pass) (site : Nat) : Bool :=
  q.drains.all fun d =>
    let busy := s.core.drains.filter fun x => x.core == p.core && x.site == site && x.drain.arr == d.arr
    decide (sumNat (busy.map fun x => x.drain.lines s p.core) + d.lines s p.core ≤ 16)

/-- R87 holds for the first pass of product p on the site. -/
def passReady (s : State) (p : Product) (site : Nat) : Bool :=
  match p.passes.head? with
  | none => false
  | some q => coreUsable s p.core && operandsReady s p q && banksFree s p q site p.half && drainRoom s p q site
      && latchesClear s p q site

def onSite (s : State) (c site : Nat) : List Product :=
  s.core.products.filter fun p => p.core == c && p.site == some site

def isFp8 (f : Nat) : Bool := f == 3 || f == 4

/-- Every product of a command is at most 32 columns wide. The stages of a run are wider: their
outputs are multiples of 64 columns. -/
def narrowCmd (s : State) (id : Nat) : Bool :=
  (s.core.products.all fun p => p.cmd != id || decide (p.outW ≤ 32)) && s.blk.runs.all fun r => r.cmd != id

/-- Two commands may share a core's arrays (R96). -/
def mayPack (s : State) (a b : Product) : Bool :=
  let cr := fun (p : Product) => (s.cmd? p.cmd).map fun c => (c.ctx, (s.ctx c.ctx).pdk, (s.ctx c.ctx).coresident)
  bit (s.reg (coreBlk a.core)) 2 && a.cmd != b.cmd && narrowCmd s a.cmd && narrowCmd s b.cmd
    && isFp8 a.fmtA == isFp8 b.fmtA
    && (match cr a, cr b with
      | some x, some y => x.1 == y.1 || (x.2.1 == y.2.1 && x.2.2 && y.2.2)
      | _, _ => false)

/-- The handles of a product are acquired by its command (R131). -/
def acquireReads (s : State) (p : Product) : State :=
  p.reads.foldl (fun s h =>
    if (s.cmd? p.cmd).any (fun c => c.ins.contains (hKey p.core h)) then s
    else readHandle s p.cmd p.core h) s

def setSite (s : State) (id : Nat) (f : Product → Product) : State :=
  s.onCore fun c => { c with products := c.products.map fun p => if p.id == id then f p else p }

/-! Passes. -/

def liveKey (core site arr half : Nat) : Nat := 64 * core + 8 * site + arr + 2 * half

/-- The tiles a pass reads: each once, but for a stationary tile that is live and named again (R84, R87
item 1, R90). -/
def tilesToRead (s : State) (site : Nat) (p : Product) (q : Pass) : List Tile :=
  let live := (List.range 2).filterMap fun a => (Tbl.get none s.core.live (liveKey p.core site a p.half)).bind fun l =>
    if l.1 = p.id then some l.2 else none
  (distinctTiles (q.works.flatMap fun w => [w.stat, w.stream])).filter fun t => !live.any (Tile.same t)

/-- Panel buffers that a pass reads: they are in use until it retires. -/
def passPanels (s : State) (core : Nat) (q : Pass) : List Nat :=
  dedupNat (q.works.flatMap fun w => [w.stat.src, w.stream.src].filterMap fun x => match x with
    | .panel f n => (panelOf s core f n).map (·.h)
    | _ => none)

/-- The operations of a pass (R475): 2 per FP8 MAC, 4 per 16-bit MAC, on the rows that exist. -/
def passOps (s : State) (core fmtA : Nat) (q : Pass) : Nat :=
  sumNat (q.works.map fun w =>
    (if isFp8 fmtA then 2 else 4) * 64 * w.cols * (if w.stream.turn then 64 else tileRows s core w.stream))

/-- The pass occupies the arrays: its tiles are live and its blocks in the feeders (R82, R83). -/
def runPass (s : State) (no site : Nat) (p : Product) (q : Pass) : State :=
  let hs := passPanels s p.core q
  let s := hs.foldl (fun s h => updHnd s p.core h acquire) s
  s.onCore fun c => { c with
    live := q.works.foldl (fun l w => Tbl.set none l (liveKey p.core site w.arr p.half) (some (p.id, w.stat))) c.live
    products := c.products.map fun k => if k.id == p.id then { k with passes := k.passes.drop 1 } else k
    running := c.running ++ [{
      no := no
      prod := p.id
      cmd := p.cmd
      core := p.core
      site := site
      half := p.half
      cls := p.cls
      works := q.works.map fun w => (w, tileElems s p.core w.stat, tileElems s p.core w.stream)
      fmts := q.works.map fun w => (srcFmt s p.core w.stat.src, srcFmt s p.core w.stream.src)
      drains := q.drains
      ops := passOps s p.core p.fmtA q
      packed := p.packed
      reads := hs }] }

/-- Issue the next pass of product p: its tiles are read and checked; an uncorrectable line is a fault
of the array halves that consume it (R140). -/
def startPass (no site : Nat) (s : State) (p : Product) : State :=
  match p.passes with
  | [] => s
  | q :: _ =>
    let (s, bad) := (tilesToRead s site p q).foldl (fun (a : State × List Tile) t =>
      let (s, b) := readTile a.1 p.core (engPort site) (ctxOf s p.cmd) t
      (s, if b then a.2 ++ [t] else a.2)) (s, [])
    if bad.isEmpty then runPass s no site p q
    else
      let arrs := dedupNat ((q.works.filter fun w => bad.any fun t => t.same w.stat || t.same w.stream).map (·.arr))
      let halves := if p.packed then [p.half] else if p.outW ≤ 32 then [0] else [0, 1]
      latchFault s p.core (arrs.flatMap fun a => halves.map fun h => 2 * (2 * site + a) + h) 1
        (2 * site + arrs.headD 0) (halves.headD 0) [p.cmd] false

/-- Charge a pass: to the owners of its rows in proportion (R101), or to its command. Its array cycles,
one per streaming row and array, divide the cluster's energy (R476). -/
def chargePass (s : State) (r : RunPass) : State :=
  let owners := (s.blk.runs.find? (·.cmd == r.cmd)).elim [] (·.batch)
  let owners := if owners.isEmpty then [(r.cmd, 1)] else owners
  let rows := max 1 (sumNat (owners.map (·.2)))
  let cycles := sumNat (r.works.map fun w => w.2.2.length / 64)
  owners.foldl (fun s o =>
    match s.cmd? o.1 with
    | some c => addShare (s.charge c.ctx acOps (r.ops * o.2 / rows)) (coreCluster r.core) c.ctx (cycles * o.2 / rows)
    | none => s) s

/-- The last partial sums of one half of a pass are in the accumulators (R82, R85): rows that the pass
clears first hold nothing else. -/
def landPass (s : State) (r : RunPass) : State :=
  let s := chargePass s r
  let s := r.reads.foldl (fun s h => updHnd s r.core h releaseReader) s
  let n := s.core.next
  let live := (s.cmd? r.cmd).any fun c => !c.ended
  let works := List.zipWith (fun w f => (w, f)) r.works r.fmts
  let cleared := fun (w : AccWork) => r.works.any fun k => k.1.first && w.cmd == r.cmd && w.core == r.core && w.arr == 2 * r.site + k.1.arr
    && w.bank == k.1.bank && w.half == r.half && w.row0 == k.1.row0
  s.onCore fun c => { c with
    running := c.running.erase r
    acc := (c.acc.filter fun w => !cleared w) ++ (if live then works.map fun ((w, st, sm), f) => {
        cmd := r.cmd
        core := r.core
        arr := 2 * r.site + w.arr
        bank := w.bank
        half := r.half
        row0 := w.row0
        cols := w.cols
        fmtA := f.1
        fmtB := f.2
        stat := st
        stream := sm } else [])
    drains := c.drains ++ (if live then (List.range r.drains.length).filterMap fun i =>
        (r.drains[i]?).map fun d => {
          id := n + i
          cmd := r.cmd
          core := r.core
          site := r.site
          half := r.half
          drain := d } else [])
    next := c.next + r.drains.length
    products := c.products.filter fun p =>
      p.id != r.prod || !p.passes.isEmpty || c.running.any fun q => q.prod == r.prod && q != r }

/-- The oldest pass of a site retires: one pass, though its halves belong to two commands (R97, R108). -/
def retirePass (s : State) (c site : Nat) (rs : List RunPass) : State :=
  let s := (rs.foldl landPass s).beat (coreCpath c 5)
  if site = 0 then s.count64 (coreBlk c + 0x20) 1
  else
    let s := s.count64 (coreBlk c + 0x28) 1
    if rs.any (·.cls == 1) then s.count64 (coreBlk c + 0x30) 1 else s

/-- Drop accumulator contents of commands that have ended. -/
def sweepAcc (s : State) : State :=
  s.onCore fun c => { c with acc := c.acc.filter fun w => (s.cmd? w.cmd).any fun k => !k.ended }

/-! Building core operations. -/

/-- A core operation of one or more products. -/
def addOp (s : State) (ps : List Product) : State :=
  let ps := ps.filter fun p => !p.passes.isEmpty
  s.onCore fun c => { c with
    products := c.products ++ (List.range ps.length).filterMap fun i =>
      (ps[i]?).map fun p => { p with id := c.next + i, op := c.next, queued := false }
    next := c.next + ps.length }

def addVu (s : State) (v : VuOp) : State :=
  s.onCore fun c => { c with
    vuq := c.vuq ++ [{ v with id := c.next, queued := false }]
    next := c.next + 1 }

/-- A product with no site yet. -/
def newProduct (cmd core cls fmtA fmtB outW pair : Nat) (passes : List Pass) (reads writes : List Nat) : Product where
  id := 0
  op := 0
  queued := false
  cmd := cmd
  core := core
  cls := cls
  fmtA := fmtA
  fmtB := fmtB
  outW := outW
  passes := passes
  site := none
  pair := pair
  half := 0
  packed := false
  reads := reads
  writes := writes

/-- One pass of a forward product (R84, R163): 64 rows of X in each block, two blocks at a time on the
two arrays, against one tile of W. -/
def fwdPass (blocks bank row0 cols : Nat) (stat : Tile) (x : Src) (xCol : Nat) (first : Bool) (drains : List Drain) :
    Pass where
  works := (List.range blocks).map fun b => {
    arr := b % 2
    bank := bank
    stat := stat
    stream := ⟨x, b, xCol, false⟩
    row0 := row0
    cols := cols
    first := first }
  drains := drains

end Sys2Proof.Machine
end

