-- ==== Sys2Proof/Machine/VuMath.lean ====
section
/-! DEFINITION. The arithmetic of the vector unit (R105 to R107, R603, R604): one result row from the
rows of the inputs. Values are real values with IEEE classes; every result is an FP32 value. -/
namespace Sys2Proof.Machine

open Sys2Proof

/-- IEEE 754-2019 maximum and minimum: −0 orders below +0. -/
def fmaxIeee (a b : FVal) : FVal :=
  match a, b with
  | .nan, _ => .nan
  | _, .nan => .nan
  | .fin s 0 _, .fin t 0 _ => .fin (s && t) 0 0
  | a, b => if flt a b then b else a
def fminIeee (a b : FVal) : FVal :=
  match a, b with
  | .nan, _ => .nan
  | _, .nan => .nan
  | .fin s 0 _, .fin t 0 _ => .fin (s || t) 0 0
  | a, b => if flt b a then b else a

def one : FVal := .ofNat 1

/-- A function of stated accuracy on a finite input: within `n` ulp of the reference. -/
def approx (n code : Nat) (x ref : FVal) : FVal :=
  ofF32 (withAccuracy n ref (Config.freeFun code (BitVec.ofNat 32 (toF32 x))).toNat)

def vuExp2 (x : FVal) : FVal :=
  match x with
  | .nan => .nan
  | .inf s => if s then .fin false 0 0 else .inf false
  | .fin _ m _ =>
    if m = 0 then one
    else if tooBig x 1100 then (if flt x (.fin false 0 0) then .fin false 0 0 else .inf false)
    else approx 2 0x08 x (exp2Ref x)

def vuLog2 (x : FVal) : FVal :=
  match x with
  | .nan => .nan
  | .inf s => if s then .nan else .inf false
  | .fin s m e =>
    if m = 0 then .inf true
    else if s then .nan
    else if fadd x (.fin true 1 0) = .fin false 0 0 then .fin false 0 0
    else approx 2 0x09 x (log2Ref (.fin s m e))

def vuRcp (x : FVal) : FVal :=
  match x with
  | .nan => .nan
  | .inf s => .fin s 0 0
  | .fin s m _ => if m = 0 then .inf s else approx 1 0x0A x (bdiv one x)

def vuRsqrt (x : FVal) : FVal :=
  match x with
  | .nan => .nan
  | .inf s => if s then .nan else .fin false 0 0
  | .fin s m _ => if m = 0 then .inf s else if s then .nan else approx 1 0x0B x (bdiv one (bsqrt x))

def vuGelu (x : FVal) : FVal :=
  match x with
  | .nan => .nan
  | .inf s => if s then .fin true 0 0 else .inf false
  | .fin s m _ =>
    if m = 0 then .fin s 0 0
    else approx 4 0x10 x (if tooBig x 1000 then (if s then .fin true 0 0 else x) else geluRef x)

def vuSilu (x : FVal) : FVal :=
  match x with
  | .nan => .nan
  | .inf s => if s then .fin true 0 0 else .inf false
  | .fin s m _ => if m = 0 then .fin s 0 0 else approx 4 0x11 x (siluRef x)

def vuSigmoid (x : FVal) : FVal :=
  match x with
  | .nan => .nan
  | .inf s => if s then .fin false 0 0 else one
  | .fin .. => approx 4 0x12 x (sigmoidRef x)

def vuTanh (x : FVal) : FVal :=
  match x with
  | .nan => .nan
  | .inf s => .fin s 1 0
  | .fin s m _ => if m = 0 then .fin s 0 0 else approx 4 0x13 x (tanhRef x)

/-- Elementwise operations on inputs x, y, z. -/
def vuElem (op : Nat) (alt : Bool) (x y z : FVal) : FVal :=
  if op = 0x01 then f32 (fadd x (if alt then y.neg else y))
  else if op = 0x02 then f32 (fmul x y)
  else if op = 0x03 || op = 0x05 then f32 (fadd (fmul x y) z)
  else if op = 0x04 then (if alt then fminIeee x y else fmaxIeee x y)
  else if op = 0x08 then vuExp2 x
  else if op = 0x09 then vuLog2 x
  else if op = 0x0A then vuRcp x
  else if op = 0x0B then vuRsqrt x
  else if op = 0x10 then vuGelu x
  else if op = 0x11 then vuSilu x
  else if op = 0x12 then vuSigmoid x
  else if op = 0x13 then vuTanh x
  else x

def hasNan (l : List FVal) : Bool := l.any fun x => x == .nan
def hasPosInf (l : List FVal) : Bool := l.any fun x => x == .inf false
def hasNonfin (l : List FVal) : Bool := l.any fun x => !x.isFin
def rowMax (l : List FVal) : FVal := l.foldl fmaxIeee (.inf true)
def rowMin (l : List FVal) : FVal := l.foldl fminIeee (.inf false)

def bsum (l : List FVal) : FVal := l.foldl badd (.fin true 0 0)

/-- e^x at reference precision; far below the smallest FP32 value it is 0. -/
def expSafe (x : FVal) : FVal :=
  match x with
  | .fin .. => if tooBig x 1000 && flt x (.fin false 0 0) then .fin false 0 0 else expRef x
  | _ => .fin false 0 0

/-- `SOFTMAX_ROW`: the sum of the row is formed by FP32 additions in an open order (R107), and each
element lies within 4 ulp of the definition with that sum; `k` indexes the open values, two for each
element. -/
def softmaxRow (l : List FVal) (k : Nat) : List FVal :=
  let m := rowMax l
  if hasNan l || hasPosInf l || m == .inf true then l.map fun _ => .nan
  else
    let es := l.map fun x => if x.isFin then expSafe (fadd x m.neg) else .fin false 0 0
    let t := freeSum add32 (k + l.length) (es.map f32)
    (List.range l.length).map fun j =>
      if (l.getD j .nan).isFin then
        ofF32 (withAccuracy 4 (bdiv (es.getD j .nan) t) ((Config.freeBits (k + j)).toNat % 2 ^ 32))
      else .fin false 0 0

/-- FP32 quotient. -/
def div32 (a b : FVal) : FVal := f32 (bdiv a b)

/-- Mean, and v + ε, of a row, formed in FP32 (R604): its two sums take the open values from `k` on. -/
def rowStats (l : List FVal) (alt : Bool) (eps k : Nat) : FVal × FVal :=
  let n := FVal.ofNat l.length
  let mu := if alt then .fin false 0 0 else div32 (freeSum add32 k l) n
  let v := div32 (freeSum add32 (k + l.length) (l.map fun x => let d := add32 x mu.neg; f32 (fmul d d))) n
  (mu, if eps = 0 then v else add32 v (.fin false 1 (-(eps : Int))))

/-- x̂ of R604: the difference in FP32, and r = 1/√(v + ε), which is +0 where v has overflowed. -/
def normHat (l : List FVal) (alt : Bool) (eps k : Nat) : List FVal :=
  let (mu, v) := rowStats l alt eps k
  let r := if v.isFin then bdiv one (bsqrt v) else .fin false 0 0
  l.map fun x => bmul (add32 x mu.neg) r

/-- `NORM_ROW`: x̂ × g, each element within 4 ulp; it takes three open values for each element. -/
def normRow (l g : List FVal) (aux alt : Bool) (eps k : Nat) : List FVal :=
  let v := (rowStats l alt eps k).2
  if hasNonfin l || v.isZero then l.map fun _ => .nan
  else
    let h := normHat l alt eps k
    (List.range l.length).map fun j =>
      let y := if aux then fmul (h.getD j .nan) (g.getD j .nan) else h.getD j .nan
      if y.isFin then
        ofF32 (withAccuracy 4 (big y) ((Config.freeBits (k + 2 * l.length + j)).toNat % 2 ^ 32))
      else y

def isRowOp (op : Nat) : Bool := op == 0x20 || op == 0x28 || op == 0x29
/-- Codes of R105. -/
def vuOps : List Nat :=
  [0x01, 0x02, 0x03, 0x04, 0x05, 0x08, 0x09, 0x0A, 0x0B, 0x10, 0x11, 0x12, 0x13, 0x20, 0x28, 0x29, 0x30]
/-- Operations with an alternate (R158). -/
def hasAlt (op : Nat) : Bool := op == 0x01 || op == 0x04 || op == 0x20 || op == 0x29
/-- Operands an operation takes beside x. -/
def vuArity (op : Nat) : Nat :=
  if op = 0x01 || op = 0x02 || op = 0x04 then 1 else if op = 0x03 || op = 0x05 then 2 else 0
/-- Columns of the result. -/
def vuCols (op n : Nat) : Nat := if op = 0x20 then 1 else n

/-- The result row, and how many open values it took. Operand y is the second input, or a; operand z
the third input, or b. -/
def vuRow (op : Nat) (alt : Bool) (eps : Nat) (ins : List (List FVal)) (aux : Bool) (a b : List FVal) (k : Nat) :
    List FVal × Nat :=
  let x := ins.getD 0 []
  if op = 0x20 then
    if alt then ([rowMax x], 0) else ([freeSum add32 k x], x.length)
  else if op = 0x28 then (softmaxRow x k, 2 * x.length)
  else if op = 0x29 then (normRow x a aux alt eps k, 3 * x.length)
  else
    let y := if aux then a else ins.getD 1 []
    let z := if aux && op = 0x05 then b else if aux && op = 0x03 then (if ins.length < 2 then b else ins.getD 1 [])
      else ins.getD 2 []
    ((List.range x.length).map fun j => vuElem op alt (x.getD j .nan) (y.getD j .nan) (z.getD j .nan), 0)

/-! The operation on a core. -/

/-- A row of an input handle as real values, its scale removed (R106). An INT32 value that FP32 does
not hold is rounded to it, except by `CAST` (R43). -/
def vuInRow (s : State) (core op r n h : Nat) (e : Int) : List FVal :=
  let f := (hnd s core h).fmt
  (handleRow s core h r 0 n).map fun w =>
    let x := decodeElem f w
    fscale (if f = 7 && op != 0x30 then f32 x else x) (-e)

/-- Lanes of a row that hold the value no unit produces (R45). -/
def badLanes (s : State) (core r n h : Nat) : Nat :=
  if (hnd s core h).fmt = 6 then ((handleRow s core h r 0 n).filter (· == 0x80000000)).length else 0

/-- A `CAST` from FP32 to FP32 is not a narrowing (R106). -/
def plainCast (s : State) (v : VuOp) : Bool :=
  v.op == 0x30 && numFmt v.outNum == 0 && (hnd s v.core (v.ins.headD 0)).fmt == 0

/-- Narrow a result row through site 6 of the core (R74, R106). -/
def vuNarrow (s : State) (core cmd num : Nat) (plain : Bool) (xs : List FVal) : State × List Nat :=
  s.narrow cmd [] fun c =>
    if plain then (c, xs.map fun x => (narrowTo 0 .rne (fscale x (c.exp (numSlot num)))).out)
    else narrowList c num (fun j => coreLane core 6 (j % 128)) xs

/-- A result row is written over the X port. -/
def vuPut (s : State) (v : VuOp) (h r : Nat) (ws : List Nat) : State :=
  dropAborts v.cmd (putElems s v.core 2 h r 0 ws (ctxOf s v.cmd))

def vuOneRow (v : VuOp) (r : Nat) (s : State) : State :=
  let rows := List.zipWith (fun h e => vuInRow s v.core v.op r v.cols h e) v.ins v.inExps
  let bad := sumNat (v.ins.map (badLanes s v.core r v.cols))
  let s := s.updCmd v.cmd fun c => { c with ovfSat := satAdd 32 c.ovfSat bad }
  let (xs, n) := vuRow v.op v.alt v.eps rows v.aux v.auxA v.auxB s.free
  let (s, rs) := vuNarrow { s with free := s.free + n } v.core v.cmd v.outNum (plainCast s v) xs
  vuPut s v v.out r rs

/-- Operations per element (R475). -/
def vuOpsPer (op : Nat) : Nat := if op = 0x03 || op = 0x05 then 2 else 1

/-- Bytes of each row of an input that an operation reads: a step of attention reads one head's columns of
do and o. -/
def vuWindow (v : VuOp) (e : Handle) : Nat × Nat :=
  match v.mode with
  | .attn 2 d _ _ col _ => (col * fmtBytes e.fmt, d * fmtBytes e.fmt)
  | _ => (0, 16 * e.cols)

/-- Every input is read over the X port and checked. Answers the inputs with an uncorrectable cell. -/
def vuCheck (s : State) (v : VuOp) : State × List Nat :=
  v.ins.foldl (fun (a : State × List Nat) h =>
    let e := hnd a.1 v.core h
    let (off, len) := vuWindow v e
    let s := moveLines a.1 v.core 2 (v.rows * lineSpan e off len) e 0 v.rows
    let cells := (List.range (min v.rows e.rows)).flatMap fun r => rowCells v.core e r off len
    let (s, bad) := checkCells s v.core 2 (some h) (ctxOf s v.cmd) cells
    (s, if bad.isEmpty then a.2 else a.2 ++ [h])) (s, [])

/-- The lines of the results. -/
def vuOutLines (s : State) (v : VuOp) : State :=
  let e := hnd s v.core v.out
  moveLines s v.core 2 (bandLines e v.rows) e 0 v.rows

/-- The rows of an operation, by a function of one row. -/
def vuRows (f : Nat → State → State) : Nat → State → State
  | 0, s => s
  | n + 1, s => f n (vuRows f n s)

end Sys2Proof.Machine
end

