-- ==== Sys2Proof/Machine/BlockDesc.lean ====
section
/-! DEFINITION. Block commands: parameters and layer descriptors, the checks at issue, and the
placement of rows on cores (R153 to R168, R197 to R207). -/
namespace Sys2Proof.Machine

open Sys2Proof

/-! Placement (R161). -/

def clustersOn (mask d : Nat) : List Nat := (bitsOf mask 32).filter (· / 8 == d)
def diesOf (mask : Nat) : List Nat := (List.range 4).filter fun d => !(clustersOn mask d).isEmpty

/-- Token groups: the G clusters of each, by column group. -/
def tokenGroups (mask g : Nat) : List (List Nat) :=
  (diesOf mask).flatMap fun d =>
    let cs := clustersOn mask d
    (List.range (cs.length / g)).map fun j => slice cs (j * g) g

/-- The parts that hold slices 0 to n − 1. -/
def partsOf (mask g n : Nat) : List Part :=
  (List.range n).flatMap fun s =>
    ((tokenGroups mask g)[s / 8]?).elim [] fun cs =>
      (List.range cs.length).map fun j => { core := 8 * cs.getD j 0 + s % 8, g := j, slice := s, tg := s / 8 }

/-- Cluster mask of an issue: inside the paddock, none fenced, one core at least. -/
def clustersOk (s : State) (x mask : Nat) : Bool :=
  mask != 0 && decide (mask < 2 ^ 32)
    && (bitsOf mask 32).all fun g => bit (ctxRes s x).clusters g && !fenced s (fuCluster g)

/-- The dies touched hold equal numbers of clusters, which G divides (R156). -/
def evenClusters (mask g : Nat) : Bool :=
  let ns := (diesOf mask).map fun d => (clustersOn mask d).length
  ns.all fun n => n == ns.headD 0 && n % g == 0

def colGroupsOk (g : Nat) : Bool := g == 1 || g == 2 || g == 4 || g == 8

/-! Buffers of a stage (R168). -/

/-- Words of the two panel buffers of a matmul stage. -/
def panelWords (kp f : Nat) : Nat := 64 * ceilDiv (2 * fmtBytes f * kp) 1024

/-- Words of one working frame of attention (R432). -/
def attnWords (d f : Nat) : Nat := if 256 < d * fmtBytes f then 512 else 256

/-! Operand pairs (R50). -/

def pairOk (a b : Nat) : Bool := (isFp8 a && isFp8 b) || (a == 1 && b == 1) || (a == 2 && b == 2)

/-! Descriptors (R157 to R160, R197 to R199). -/

def stageOf (b : List Byte) : Stage :=
  let w := fieldLE b 0 4
  { op := bits w 0 8, row := bit w 8, inplace := bit w 9, resid := bit w 10, aux := bits w 11 2,
    alt := bit w 13, eps := bits w 14 6, num := fieldLE b 4 4 }

def gradRecOf (b : List Byte) : GradRec where
  dw0 := fieldLE b 0 8
  dw0In := fieldLE b 8 8
  dw1 := fieldLE b 16 8
  dw1In := fieldLE b 24 8
  dw0Num := fieldLE b 32 4
  dw1Num := fieldLE b 36 4
  dauxNum := fieldLE b 40 4
  ginNum := fieldLE b 44 4
  gNum := (List.range 7).map fun k => fieldLE b (48 + 4 * k) 4
  daux := (List.range 3).map fun k => fieldLE b (80 + 8 * k) 8

def layerOf (b aux grad : List Byte) : Layer :=
  let w := fieldLE b 0 4
  { layerId := bits w 0 20
    policy := bits w 20 2
    version := fieldLE b 4 2
    heads := fieldLE b 6 2
    kIn := fieldLE b 8 4
    n0 := fieldLE b 12 4
    k1 := fieldLE b 16 4
    n1 := fieldLE b 20 4
    wAddr := fieldLE b 24 8
    w0Num := fieldLE b 32 4
    w1Num := fieldLE b 36 4
    aux := (List.range 3).map fun k => (fieldLE aux (16 * k) 8, fieldLE aux (16 * k + 8) 4, fieldLE aux (16 * k + 12) 4)
    headDim := fieldLE b 48 2
    stages := (List.range (bits w 22 3 + 1)).map fun k => stageOf (slice b (64 + 8 * k) 8)
    noDw := bit (fieldLE b 52 4) 0
    dwAccum := bit (fieldLE b 52 4) 1
    grad := gradRecOf grad
    buf := 0 }

def Layer.auxEnt (l : Layer) (k : Nat) : Nat × Nat × Nat := l.aux.getD (k - 1) (0, 0, 0)
def Stage.mat (st : Stage) : Bool := st.op == 0x80 || st.op == 0x81

/-- Output width of a stage whose input is `w` wide. -/
def Layer.outWidth (l : Layer) (st : Stage) (w : Nat) : Nat :=
  if st.op = 0x80 then l.n0 else if st.op = 0x81 then l.n1
  else if st.op = 0x82 then l.heads * l.headDim else vuCols st.op w

/-- Widths of X_i and of every stage output. -/
def Layer.widths (l : Layer) : List Nat :=
  l.stages.foldl (fun ws st => ws ++ [l.outWidth st (ws.getLastD l.kIn)]) [l.kIn]

def Layer.width (l : Layer) (k : Nat) : Nat := l.widths.getD k 0
def Layer.outW (l : Layer) : Nat := l.widths.getLastD 0

/-- Whether the input of stage k is divided among the column groups. -/
def Layer.split (l : Layer) (k : Nat) : Bool :=
  (l.stages.take k).foldl (fun b st => if st.mat then !st.row else if st.op = 0x82 then true else b) false

/-- Columns of the output of a stage that a core of a command with `g` column groups holds, from those
of its input (R162). -/
def Layer.outCols (l : Layer) (g : Nat) (st : Stage) (w : Nat) : Nat :=
  if st.mat then (if st.row then l.outWidth st w else l.outWidth st w / g)
  else if st.op = 0x82 then l.heads * l.headDim / g
  else vuCols st.op w

/-- Columns of the input of stage k (or of the output of stage k − 1) that a core holds. -/
def Layer.cols (l : Layer) (g k : Nat) : Nat :=
  (l.stages.take k).foldl (fun w st => l.outCols g st w) l.kIn

/-- Numeric word with which the input of stage k was written, given that of X_i. -/
def Layer.inNum (l : Layer) (xNum k : Nat) : Nat :=
  if k = 0 then xNum else (l.stages[k - 1]?).elim 0 (·.num)

def Layer.lastNum (l : Layer) : Nat := (l.stages.getLast?).elim 0 (·.num)

/-- Numeric word of X_i. -/
def xNumOf (ls : List Layer) (xNum i : Nat) : Nat := if i = 0 then xNum else (ls[i - 1]?).elim 0 Layer.lastNum

def attnWord (l : Layer) (st : Stage) : Nat := if st.aux = 0 then 0 else (l.auxEnt st.aux).2.2

/-- Sequence length and mask of attention (R430). -/
def seqLen (w : Nat) : Nat := if w = 0 then 1024 else bits w 0 11
def seqCausal (w : Nat) : Bool := w == 0 || bit w 11
def attnWordOk (w : Nat) : Bool :=
  w == 0 || (bits w 12 20 == 0 && (seqLen w == 128 || seqLen w == 256 || seqLen w == 512 || seqLen w == 1024))
def headDimOk (d : Nat) : Bool := d == 64 || d == 128 || d == 256

/-- The stage takes per-column operands from auxiliary entries. -/
def usesAux (st : Stage) : Bool := st.aux != 0 && (vuArity st.op != 0 || st.op == 0x29)

/-- A vector stage has the operands its operation takes: one with no auxiliary entry where it takes a
second operand is refused (assumption log 38). -/
def stageOperands (st : Stage) : Bool :=
  if st.op = 0x05 then st.aux == 1 || st.aux == 2 else vuArity st.op == 0 || st.aux != 0

/-- The rules of one stage (R158, R160). `w` is its input width, `f` the format of its input. A COL
stage on an input divided among column groups is refused (assumption log 38). -/
def stageOk (l : Layer) (g tokens w f : Nat) (split : Bool) (st : Stage) : Bool :=
  numOk st.num
    && (st.op == 0x29 || st.eps == 0) && (!st.alt || hasAlt st.op)
    && (if st.mat then
          let wn := if st.op = 0x80 then l.w0Num else l.w1Num
          let n := if st.op = 0x80 then l.n0 else l.n1
          w == (if st.op = 0x80 then l.kIn else l.k1) && n != 0 && n % (64 * g) == 0
            && numOk wn && pairOk (numFmt wn) f && fmtBytes (numFmt st.num) != 0
            && (if st.row then split || g == 1 else !split || g == 1)
            && (!(st.row && st.resid) || n == l.kIn)
        else if st.op = 0x82 then
          w == 3 * l.heads * l.headDim && l.heads != 0 && headDimOk l.headDim
            && attnWordOk (attnWord l st) && tokens % seqLen (attnWord l st) == 0
            && (isFp8 f || f == 1 || f == 2) && decide (fmtBytes (numFmt st.num) ≤ 3 * fmtBytes f)
        else
          vuOps.contains st.op && stageOperands st
            && (st.op != 0x05 || ((l.auxEnt st.aux).2.2 == w && (l.auxEnt (st.aux + 1)).2.2 == w
              && numOk (l.auxEnt (st.aux + 1)).2.1))
            && (!usesAux st || numOk (l.auxEnt st.aux).2.1)
            && (!isRowOp st.op || decide (w ≤ 65536)))

/-- A ROW stage follows a COL stage with only vector or attention stages between (R160). -/
def rowAfterCol : Bool → List Stage → Bool
  | _, [] => true
  | col, st :: t =>
    if st.mat then (if st.row then col && rowAfterCol false t else rowAfterCol true t)
    else rowAfterCol col t

/-- With several column groups, the last matmul stage is a ROW stage. -/
def lastMatRow (l : Layer) : Bool := ((l.stages.filter Stage.mat).getLast?).all (·.row)

/-- Where a forward stage puts its result: the tensor it writes over (0 X_i, 1 + k the output of stage
k), or a buffer of its own, and the words of that tensor. -/
structure Place where
  slot : Nat
  fresh : Bool
  words : Nat
  deriving DecidableEq, Repr

/-- The result is written over X_i (R166), over the stage's input (R167), into the input's frame (R432),
or into a buffer of its own. A result whose elements are of another size than those it would be
written over, or that a product would write over its own input, has its own buffer (assumption
log 39). -/
def Layer.place (l : Layer) (g xNum k : Nat) (x cur : Place) (st : Stage) : Place :=
  let own := padWords 128 (l.cols g (k + 1)) (numFmt st.num)
  let z := fmtBytes (numFmt st.num)
  if st.mat && st.row && st.resid && cur.slot != 0 && z == fmtBytes (numFmt xNum) then { x with fresh := false }
  else if !st.mat && st.op != 0x82 && st.inplace && l.cols g (k + 1) == l.cols g k
      && z == fmtBytes (numFmt (l.inNum xNum k)) then { cur with fresh := false }
  else if st.op = 0x82 then ⟨1 + k, false, if cur.slot = 0 then 0 else cur.words⟩
  else ⟨1 + k, true, own⟩

/-- The places of X_i and of every stage's result. -/
def Layer.places (l : Layer) (g xNum : Nat) : List Place :=
  let x : Place := ⟨0, false, padWords 128 l.kIn (numFmt xNum)⟩
  (l.stages.zipIdx).foldl (fun ps e => ps ++ [l.place g xNum e.2 x (ps.getLastD x) e.1]) [x]

def Layer.placeOf (l : Layer) (g xNum k : Nat) : Place := (l.places g xNum).getD k ⟨0, false, 0⟩

def Stage.wNum (st : Stage) (l : Layer) : Nat := if st.op = 0x80 then l.w0Num else l.w1Num

/-- Words of the panel buffers and working frames of stage k; `n` frames for attention. -/
def stageExtra (l : Layer) (kp f n : Nat) (st : Stage) : Nat :=
  if st.mat then panelWords kp (numFmt (st.wNum l)) else if st.op = 0x82 then n * attnWords l.headDim f else 0

/-- Words live while stage k runs (R168). -/
def stageWords (l : Layer) (g kp xNum k : Nat) : Nat :=
  match l.stages[k]? with
  | none => 0
  | some st =>
    let cur := l.placeOf g xNum k
    let out := l.placeOf g xNum (k + 1)
    (l.placeOf g xNum 0).words + (if cur.slot = 0 then 0 else cur.words) + (if out.fresh then out.words else 0)
      + stageExtra l kp (numFmt (l.inNum xNum k)) 1 st

/-- A descriptor meets R157 to R160 and its stages fit the pad (R168). With several column groups, X_(i+1)
is whole in every core (assumption log 38). -/
def layerOk (l : Layer) (b : List Byte) (g kp tokens xNum : Nat) : Bool :=
  l.policy != 3 && bits (fieldLE b 0 4) 25 7 == 0 && fieldLE b 50 2 == 0 && l.heads % g == 0
    && ((List.range l.stages.length).all fun k =>
      bits (fieldLE b (64 + 8 * k) 4) 20 12 == 0
        && (l.stages[k]?).any fun st =>
          stageOk l g tokens (l.width k) (numFmt (l.inNum xNum k)) (l.split k) st
            && decide (stageWords l g kp xNum k ≤ 2048))
    && rowAfterCol false l.stages && (g == 1 || (lastMatRow l && !l.split l.stages.length))

/-- Output widths chain from layer to layer (R160). -/
def chainOk : List Layer → Bool
  | a :: b :: t => a.outW == b.kIn && chainOk (b :: t)
  | _ => true

/-! Backward checks (R200, R204, R206). -/

def hasBackward (st : Stage) : Bool :=
  st.mat || st.op == 0x82 || ((st.op == 0x01 || st.op == 0x02) && st.aux != 0) || st.op == 0x05
    || st.op == 0x10 || st.op == 0x11 || st.op == 0x12 || st.op == 0x13 || st.op == 0x28 || st.op == 0x29
    || st.op == 0x30

/-- The backward of the stage reads its recomputed input (R212). -/
def needsInput (st : Stage) : Bool := st.mat || !(st.op == 0x01 || st.op == 0x30)

/-- Numeric word of the gradient of the input of stage k of a layer. -/
def gradNum (l : Layer) (gin k : Nat) : Nat := if k = 0 then gin else l.grad.gNum.getD (k - 1) 0

/-- The gradient that reaches X_i through stage 0 is added to dG (R205, R210). -/
def Layer.addsDg (l : Layer) : Bool := (l.stages.getLast?).any fun st => st.mat && st.row && st.resid

/-- dG is written in place: its elements are of the size of the gradient of X_i, and the products do not
read it (R205; assumption log 39). -/
def Layer.dgInPlace (l : Layer) (gin dg : Nat) : Bool :=
  l.addsDg && l.stages.length != 1 && fmtBytes (numFmt gin) == fmtBytes (numFmt dg)

/-- Stages recomputed before a backward: all but the last, and a last attention stage, whose backward
reads its own output (R205, R434). -/
def Layer.reStages (l : Layer) : List Nat :=
  (List.range l.stages.length).filter fun k =>
    decide (k + 1 < l.stages.length) || (l.stages[k]?).any (·.op == 0x82)

/-! The steps of a sweep: what each reads and writes, by number: 0 X, 1 dG, 2 + k the output of stage k,
10 + k its gradient, 18 the gradient of X_i. -/

structure SweepStep where
  reads : List Nat
  writes : Option Nat
  extra : Nat
  deriving DecidableEq, Repr

def inputSlot (k : Nat) : Nat := if k = 0 then 0 else 1 + k

def Layer.gradSlot (l : Layer) (k : Nat) : Nat := if k + 1 = l.stages.length then 1 else 10 + k

def Layer.reStep (l : Layer) (kp xNum k : Nat) (st : Stage) : SweepStep :=
  ⟨[inputSlot k], some (2 + k), stageExtra l kp (numFmt (l.inNum xNum k)) 1 st⟩

def Layer.bwdStep (l : Layer) (kp xNum gin dg k : Nat) (st : Stage) : SweepStep where
  reads := (if needsInput st then [inputSlot k] else []) ++ [l.gradSlot k]
    ++ (if st.op = 0x82 then [2 + k] else []) ++ (if k = 0 && l.addsDg then [1] else [])
  writes := if k ≠ 0 then some (9 + k) else if l.dgInPlace gin dg then none else some 18
  extra := stageExtra l kp (numFmt (l.inNum xNum k)) 2 st

def Layer.sweepSteps (l : Layer) (kp xNum gin dg : Nat) : List SweepStep :=
  l.reStages.filterMap (fun k => (l.stages[k]?).map (l.reStep kp xNum k))
    ++ (List.range l.stages.length).reverse.filterMap fun k => (l.stages[k]?).map (l.bwdStep kp xNum gin dg k)

/-- Words of a tensor of a sweep of `rows` rows. -/
def Layer.sweepWords (l : Layer) (g rows xNum gin dg n : Nat) : Nat :=
  let s := l.stages.length
  if n = 0 then padWords rows l.kIn (numFmt xNum)
  else if n = 1 then padWords rows (l.cols g s) (numFmt dg)
  else if n < 10 then padWords rows (l.cols g (n - 1)) (numFmt (l.inNum xNum (n - 1)))
  else if n < 18 then padWords rows (l.cols g (n - 9)) (numFmt (gradNum l gin (n - 9)))
  else padWords rows l.kIn (numFmt gin)

/-- Steps until the tensor is next read. -/
def nextRead (l : List SweepStep) (n : Nat) : Nat := (l.findIdx? fun st => st.reads.contains n).getD 999

/-- Park held tensors that the step does not read, latest next use first, until `total` fits. -/
def parkUntil (words : Nat → Nat) (rest : List SweepStep) : Nat → List Nat → List Nat → Nat → List Nat × List Nat
  | 0, held, parked, _ => (held, parked)
  | f + 1, held, parked, total =>
    if total ≤ 2048 then (held, parked)
    else
      let pick := (held.filter fun n => nextRead rest n != 0).foldl (fun (b : Option Nat) n => match b with
        | none => some n
        | some m => if nextRead rest m < nextRead rest n then some n else some m) none
      match pick with
      | none => (held, parked)
      | some n => parkUntil words rest f (held.erase n) (n :: parked) (total - words n)

/-- The steps fit one after another (R206, R207): what each reads and writes with its buffers is at most
2,048 words, and what lies parked, `other` words of the other sweep among it, at most 4,096 lines. -/
def stepsFit (words : Nat → Nat) (other : Nat) : List SweepStep → List Nat → List Nat → Bool
  | [], _, _ => true
  | st :: rest, held, parked =>
    let own := st.reads ++ st.writes.toList
    let live := dedupNat (st.reads ++ (held.filter fun n => nextRead (st :: rest) n != 999) )
    let back := parked.filter fun n => !st.reads.contains n
    let total := sumNat (live.map words) + sumNat (st.writes.toList.map words) + st.extra
    let r := parkUntil words (st :: rest) 32 live back total
    decide (sumNat ((dedupNat own).map words) + st.extra ≤ 2048)
      && decide (other + sumNat (r.2.map words) ≤ 4096)
      && stepsFit words other rest (r.1 ++ st.writes.toList) r.2

def sweepFits (l : Layer) (g kp rows xNum gin dg : Nat) : Bool :=
  let w := l.sweepWords g rows xNum gin dg
  let other := if rows = 64 then max (w 0 + w 1) (w 18) else 0
  stepsFit w other (l.sweepSteps kp xNum gin dg) [0, 1] []

def hasAttn (l : Layer) : Bool := l.stages.any (·.op == 0x82)

/-- Rows per sweep: 128, 64, or 0 when neither fits (R204). -/
def sweepRows (l : Layer) (g kp xNum gin dg : Nat) : Nat :=
  if sweepFits l g kp 128 xNum gin dg then 128 else if sweepFits l g kp 64 xNum gin dg then 64 else 0

/-- The gradient record and backward word meet R198 and R199; `b` is the descriptor, `g` the
record. -/
def gradOk (l : Layer) (b g : List Byte) (first : Bool) : Bool :=
  let r := l.grad
  let gn := fun n => numOk n && (numFmt n == 0 || (numFmt n == 1 && !l.dwAccum))
  bits (fieldLE b 52 4) 2 30 == 0 && fieldLE b 56 8 % 128 == 0
    && allZero (slice g 76 4) && allZero (slice g 104 24)
    && gn r.dw0Num && (l.k1 == 0 || gn r.dw1Num) && numOk r.dauxNum && numFmt r.dauxNum == 0
    && (first || numOk r.ginNum)
    && ((List.range (l.stages.length - 1)).all fun k => numOk (r.gNum.getD k 0))
    && ((l.stages.dropLast).all fun st => !st.resid)
    && l.stages.all hasBackward

/-- The backward products pair formats as R50 allows: each gradient with the weight, with the stage
input for a weight gradient, and with the values of an attention stage (R208, R210, R434). -/
def bwdPairs (l : Layer) (xNum dg : Nat) : Bool :=
  (List.range l.stages.length).all fun k => (l.stages[k]?).all fun st =>
    let gf := numFmt (if k + 1 = l.stages.length then dg else l.grad.gNum.getD k 0)
    let f := numFmt (l.inNum xNum k)
    if st.mat then
      pairOk (numFmt (if st.op = 0x80 then l.w0Num else l.w1Num)) gf && (l.noDw || pairOk f gf)
    else st.op != 0x82 || pairOk f gf

/-! Memory regions of a command (R200). -/

def regionsMeet (a b : Nat × Nat) : Bool := a.2 != 0 && b.2 != 0 && meets a.1 a.2 b.1 b.2
def anyMeet (outs ins : List (Nat × Nat)) : Bool := outs.any fun a => ins.any (regionsMeet a)

/-- Byte offset of W1 in a version's buffer (R216). -/
def w1Offset (k0 n0 : Nat) : Nat := ceilDiv (2 * k0 * n0) 4096 * 4096

/-- Bytes of a version's buffer. -/
def Layer.bufLen (l : Layer) : Nat := if l.k1 = 0 then 2 * l.kIn * l.n0 else w1Offset l.kIn l.n0 + 2 * l.k1 * l.n1

/-- Gradient outputs and accumulated inputs of a layer. -/
def Layer.gradOuts (l : Layer) : List (Nat × Nat) :=
  let z := fun n => fmtBytes (numFmt n)
  [(l.grad.dw0, l.kIn * l.n0 * z l.grad.dw0Num), (l.grad.dw1, l.k1 * l.n1 * z l.grad.dw1Num)]
    ++ (List.range 3).map fun k =>
      (l.grad.daux.getD k 0, if l.grad.daux.getD k 0 = 0 then 0 else 4 * (l.auxEnt (k + 1)).2.2)
def Layer.gradIns (l : Layer) : List (Nat × Nat) :=
  if l.dwAccum then [(l.grad.dw0In, 4 * l.kIn * l.n0), (l.grad.dw1In, 4 * l.k1 * l.n1)] else []

/-! Block parameters (R155). -/

def bpTable (p : Packet) : Nat := p.par 0 8
def bpLayers (p : Packet) : Nat := p.par 8 1
def bpKeep (p : Packet) : Nat := p.par 9 1
def bpG (p : Packet) : Nat := p.par 10 1
def bpWays (p : Packet) : Nat := p.par 11 1
def bpTokens (p : Packet) : Nat := p.par 12 4
def bpClusters (p : Packet) : Nat := p.par 16 4
def bpKp (p : Packet) : Nat := 64 * p.par 20 2
def bpLead (p : Packet) : Nat := p.par 22 1
def bpStash (p : Packet) : Bool := bit (p.par 23 1) 0
def bpSpillEn (p : Packet) : Bool := bit (p.par 23 1) 1
def bpX (p : Packet) : Nat := p.par 24 8
def bpXNum (p : Packet) : Nat := p.par 32 4
def bpTag (p : Packet) : Nat := p.par 36 4
def bpY (p : Packet) : Nat := p.par 40 8
def bpDy (p : Packet) : Nat := p.par 56 8
def bpDyNum (p : Packet) : Nat := p.par 64 4
def bpDxNum (p : Packet) : Nat := p.par 68 4
def bpDx (p : Packet) : Nat := p.par 72 8
def bpOff (p : Packet) : Nat := p.par 80 8
def bpOffLen (p : Packet) : Nat := p.par 88 4
def bpSpillLen (p : Packet) : Nat := p.par 92 4
def bpSpill (p : Packet) : Nat := p.par 96 8

/-- Checks on the parameters alone (R156). -/
def blockShape (s : State) (x kind : Nat) (p : Packet) : Nat :=
  let g := bpG p
  let mask := bpClusters p
  if bpLayers p = 0 || 16 < bpLayers p || bpLayers p < bpKeep p || !colGroupsOk g || 16 < bpWays p
      || bpKp p = 0 || 64 * 64 < bpKp p || 15 < bpLead p || bits (p.par 23 1) 2 6 != 0
      || !allZero (slice p.params 48 8) || !allZero (p.params.drop 104)
      || bpTable p % 128 ≠ 0 || !clustersOk s x mask || !evenClusters mask g
      || bpTokens p = 0 || bpTokens p % 128 ≠ 0 || 1024 * popcount mask 32 / g < bpTokens p
      || !numOk (bpXNum p)
      || (kind != 0 && (!numOk (bpDyNum p) || !numOk (bpDxNum p)))
      || (kind == 2 && (bpStash p || bpKeep p != 0 || bpOff p != 0 || bpOffLen p != 0 || bpSpill p != 0
            || bpSpillLen p != 0))
  then stBadParam else stOk

/-- The offload and spill regions (R156). The windows of a relayed command are its lead's, which checks
every request (R387). -/
def blockRegions (s : State) (x : Nat) (p : Packet) : Nat :=
  let mib := 2 ^ 20
  let pages := (List.range (bpOffLen p * mib / 2 ^ 21 + 2)).map fun i => (bpOff p / 2 ^ 21 + i) * 2 ^ 21
  let slow := pages.all fun va => decide (bpOff p + bpOffLen p * mib ≤ va)
    || (let (c, pa) := peek s 4 x va true; c == 0 && isDdr pa)
  if (bpSpillEn p && p.lead.isNone && !hostOk s p.fn (bpSpill p) (bpSpillLen p * mib) true)
      || (bpOffLen p != 0 && !slow) then stWindow else stOk

end Sys2Proof.Machine
end

