-- ==== Sys2Proof/Machine/BlockMath.lean ====
section
/-! DEFINITION. Rows of block commands between the pads and memory, the delivery of sums over clusters,
and the derivatives of vector stages (R165, R166, R169, R210 to R214). -/
namespace Sys2Proof.Machine

open Sys2Proof

/-! Rows of a tensor. -/

/-- Elements of a matrix in device memory: `rows` rows of `cols` elements, `pitch` elements apart.
Answers a cause for which the command aborts, or 0. -/
def readMat (s : State) (mmu x addr rows cols pitch f : Nat) : State × Nat × List Nat :=
  let z := fmtBytes f
  if cols = pitch then
    let (s, c, b) := vaRead s mmu x addr (rows * cols * z)
    (s, c, bytesElems f b)
  else
    (List.range rows).foldl (fun (a : State × Nat × List Nat) i =>
      if a.2.1 ≠ 0 then a else
      let (s, c, b) := vaRead a.1 mmu x (addr + i * pitch * z) (cols * z)
      (s, c, a.2.2 ++ bytesElems f b)) (s, 0, [])

/-- Bytes of row r of a tensor come over the X port. -/
def fillRow (s : State) (cmd key r : Nat) (bs : List Byte) : State :=
  match tenOf s key with
  | none => s
  | some t =>
    let e := t.handle s
    let s := moveLines s t.core 2 (lineSpan e 0 bs.length) e r 1
    dropAborts cmd (putElems s t.core 2 t.h r 0 (bytesElems e.fmt bs) (ctxOf s cmd))

/-- Bytes of row r of a tensor go over the X port; a cell that reads uncorrectable aborts the command
(R140). -/
def takeRow (s : State) (cmd : Nat) (t : Ten) (r : Nat) : State × List Byte :=
  let (s, bad, bs) := padGetRow s t.core 2 t.h r 0 (t.cols * fmtBytes (t.handle s).fmt) (ctxOf s cmd)
  (if bad then endCmd s cmd stAborted else s, bs)

/-- Rows of a tensor as bytes. -/
def takeRows (s : State) (cmd : Nat) (t : Ten) : State × List Byte :=
  (List.range t.rows).foldl (fun (a : State × List Byte) r =>
    let (s, bs) := takeRow a.1 cmd t r
    (s, a.2 ++ bs)) (s, [])

def ended (s : State) (id : Nat) : Bool := (s.cmd? id).all (·.ended)

/-- Load a tensor; a fault or an uncorrectable word aborts the command. -/
def loadTen (s : State) (cmd x key addr pitch : Nat) : State :=
  match tenOf s key with
  | none => s
  | some t =>
    let z := fmtBytes (numFmt t.num)
    (List.range t.rows).foldl (fun s r =>
      if ended s cmd then s
      else
        let (s, c, bs) := vaRead s (coreDie t.core) x (addr + r * pitch * z) (t.cols * z)
        if c ≠ 0 then endCmd s cmd stAborted else fillRow s cmd key r bs) s

/-- Store a tensor, whose row r goes to `addr r`. -/
def storeRows (s : State) (cmd x key : Nat) (addr : Nat → Nat) : State :=
  match tenOf s key with
  | none => s
  | some t =>
    (List.range t.rows).foldl (fun s r =>
      if ended s cmd then s
      else
        let (s, bs) := takeRow s cmd t r
        if ended s cmd then s
        else
          let (s, c) := vaWrite s (coreDie t.core) x (addr r) bs
          if c ≠ 0 then endCmd s cmd stAborted else s) s

def storeTen (s : State) (cmd x key addr pitch : Nat) : State :=
  storeRows s cmd x key fun r => addr + r * pitch * fmtBytes (numFmt (tenNum s key))

/-! Delivery of sums (R165, R166, R210, R211, R214, R304). -/

/-- Row r of a sum, converted to FP32. -/
def sumRow (s : State) (b : BSum) (r : Nat) (lane : Nat → Nat) : State × List (Bool × FVal) :=
  s.narrow b.cmd [] fun k => (List.range b.cols).foldl (fun (a : Cmd × List (Bool × FVal)) c =>
    let (nf, v) := sumLane b r c
    let (k, w) := narrowDelivered a.1 0 (lane c) nf v
    (k, a.2 ++ [(nf, ofF32 w)])) (k, [])

/-- Row r of a sum into a tensor from column `col` on. -/
def deliverRow (b : BSum) (o : Nat × Nat × Option Nat) (col num r : Nat) (s : State) : State :=
  match tenOf s o.2.1 with
  | none => s
  | some t =>
    let (s, vs) := sumRow s b r fun c => coreLane o.1 6 ((col + c) % 128)
    let e := t.handle s
    let z := fmtBytes e.fmt
    let n := lineSpan e (col * z) (b.cols * z)
    let (s, bad, ws) := match o.2.2.bind (tenOf s) with
      | none =>
        let (s, ws) := narrowVia s b.cmd o.1 num col vs
        (s, false, ws)
      | some a => addOnto (moveLines s o.1 2 n (a.handle s) r 1) b.cmd o.1 a.h r col num a.num vs
    if bad then latchFault s o.1 [15] 1 6 0 [b.cmd] false
    else dropAborts b.cmd (putElems (moveLines s o.1 2 n e r 1) o.1 2 t.h r col ws (ctxOf s b.cmd))

/-- Row r of a sum into memory, after adding the FP32 elements there where an address is given. -/
def writeSumRow (b : BSum) (x addr acc pitch num r : Nat) (s : State) : State :=
  if ended s b.cmd then s
  else
    let m := homeDie s x
    let lane := fun c => clusterRedLane b.unit (c % 64)
    let z := fmtBytes (numFmt num)
    let (s, c, old) := if acc = 0 then (s, 0, []) else readMat s m x (acc - 1 + r * pitch * 4) 1 b.cols b.cols 0
    if c ≠ 0 then endCmd s b.cmd stAborted
    else
      let e := expOf s b.cmd num
      let (s, vs) := if acc = 0 then (s, (List.range b.cols).map (sumLane b r))
        else
          let (s, fs) := sumRow s b r lane
          (s, (List.range b.cols).map fun j =>
            let v := fs.getD j (false, .nan)
            (v.1, add32 v.2 (fscale (ofF32 (old.getD j 0)) (-e))))
      let (s, rs) := s.narrow b.cmd [] fun k => vs.foldl (fun (a : Cmd × List Nat) v =>
        let (k, w) := narrowDelivered a.1 num (lane a.2.length) v.1 v.2
        (k, a.2 ++ [w])) (k, [])
      let (s, c) := vaWrite s m x (addr + r * pitch * z) (elemBytes (numFmt num) rs)
      if c ≠ 0 then endCmd s b.cmd stAborted else s

/-- Deliver a complete sum: into tensors, or to memory by the cluster reduction unit that added it
(assumption log 40). -/
def deliverSum (s : State) (x : Nat) (b : BSum) : State :=
  let s := match b.goal with
    | .tens outs col num =>
      outs.foldl (fun s o => (List.range b.rows).foldl (fun s r => deliverRow b o col num r s) s) s
    | .mem addr acc pitch num => (List.range b.rows).foldl (fun s r => writeSumRow b x addr acc pitch num r s) s
  if b.groups.isEmpty then s else passIn s b.unit

/-! Derivatives of vector stages (R212, R213). -/

/-- f′(x) of an activation, at reference precision; of an infinity it is NaN (assumption log 41). -/
def actDeriv (op : Nat) (x : FVal) : FVal :=
  let sg := sigmoidRef x
  let neg1 := badd sg (FVal.fin true 1 0)
  if !x.isFin then .nan
  else if op = 0x12 then bmul sg neg1.neg
  else if op = 0x13 then (let t := tanhRef x; badd one (bmul t t).neg)
  else if op = 0x11 then bmul sg (badd one (bmul x neg1.neg))
  else
    let x2 := bmul x x
    let c := ratConst 44715 1000000
    let u := bmul sqrt2overPi (badd x (bmul c (bmul x x2)))
    let g := if tooBig x 1000 then (if flt x (.fin false 0 0) then .fin false 0 0 else one) else sigmoidRef (fscale u 1)
    let du := bmul sqrt2overPi (badd one (bmul (ratConst (3 * 44715) 1000000) x2))
    badd g (bmul (bmul x (fscale (bmul g (badd one g.neg)) 1)) du)

/-- FP32 products of matching elements. -/
def mul32 (a b : List FVal) : List FVal := List.zipWith (fun x y => f32 (fmul x y)) a b

/-- Gradient of a `SOFTMAX_ROW` row: its y, and the row sum of y ⊙ dy, take open values from k on. -/
def softGrad (x dy : List FVal) (k : Nat) : List FVal :=
  let y := softmaxRow x k
  let d := freeSum add32 (k + 2 * x.length) (mul32 y dy)
  List.zipWith (fun y g => f32 (fmul y (add32 g d.neg))) y dy

/-- Gradient of a `NORM_ROW` row, in FP32: mean and v as in R604, and the row sums of R212 by R107. -/
def normGrad (st : Stage) (x dy a : List FVal) (k : Nat) : List FVal :=
  let n := FVal.ofNat x.length
  let v := (rowStats x st.alt st.eps k).2
  if hasNonfin x || v.isZero then dy.map fun _ => .nan
  else
    let xh := (normHat x st.alt st.eps k).map f32
    let gd := if st.aux = 0 then dy else mul32 a dy
    let m1 := if st.alt then .fin false 0 0 else div32 (freeSum add32 (k + 2 * x.length) gd) n
    let m2 := div32 (freeSum add32 (k + 3 * x.length) (mul32 gd xh)) n
    let r := if v.isFin then f32 (bdiv one (bsqrt v)) else .fin false 0 0
    List.zipWith (fun g h => f32 (fmul (add32 (add32 g m1.neg) (f32 (fmul h m2)).neg) r)) gd xh

/-- Gradient of the input of a vector stage for one row; it takes four open values for each element. -/
def vecGrad (st : Stage) (x dy a : List FVal) (k : Nat) : List FVal :=
  let op := st.op
  if op = 0x02 || op = 0x05 then mul32 dy a
  else if op = 0x10 || op = 0x11 || op = 0x12 || op = 0x13 then mul32 dy (x.map fun v => f32 (actDeriv op v))
  else if op = 0x28 then softGrad x dy k
  else if op = 0x29 then normGrad st x dy a k
  else dy

/-- Terms of the per-column gradients of a and b in one row. -/
def vecAuxTerms (st : Stage) (x dy : List FVal) (k : Nat) : List (List FVal) :=
  if st.op = 0x01 then [if st.alt then dy.map FVal.neg else dy]
  else if st.op = 0x02 then [mul32 dy x]
  else if st.op = 0x05 then [mul32 dy x, dy]
  else if st.op = 0x29 then [mul32 dy ((normHat x st.alt st.eps k).map f32)]
  else []

end Sys2Proof.Machine
end

