-- ==== Sys2Proof/Machine/BlockRun.lean ====
section
/-! DEFINITION. Commands that run on the cores of several clusters: their runs, the weight feed, and the
products of matmul stages (R161 to R166, R208 to R211). -/
namespace Sys2Proof.Machine

open Sys2Proof

/-! Runs. -/

def runOf (s : State) (id : Nat) : Option BRun := s.blk.runs.find? (·.cmd == id)
def updRun (s : State) (id : Nat) (f : BRun → BRun) : State :=
  s.onBlk fun b => { b with runs := b.runs.map fun r => if r.cmd == id then f r else r }

def Layer.blank : Layer := layerOf [] [] []
def BRun.layer (r : BRun) (i : Nat) : Layer := r.layers.getD i Layer.blank
def BRun.stage (r : BRun) (i k : Nat) : Stage := (r.layer i).stages.getD k (stageOf [])
def BRun.g (r : BRun) : Nat := if r.kind = 3 then 1 else if r.kind = 4 then r.pkt.par 40 1 else bpG r.pkt
def BRun.mask (r : BRun) : Nat :=
  if r.kind = 3 then r.pkt.par 52 4 else if r.kind = 4 then r.pkt.par 20 4 else bpClusters r.pkt
def BRun.x0Num (r : BRun) : Nat := if r.kind = 4 then r.pkt.par 24 4 else bpXNum r.pkt
def BRun.xNum (r : BRun) (i : Nat) : Nat := xNumOf r.layers r.x0Num i
/-- Numeric word of the gradient of X_i (R199). -/
def BRun.gradNumX (r : BRun) (i : Nat) : Nat :=
  if i = 0 then bpDxNum r.pkt else if i = r.layers.length then bpDyNum r.pkt else (r.layer i).grad.ginNum
def BRun.polOf (r : BRun) (i : Nat) : Nat := r.pol.getD i 1
/-- The command's own backward pass has begun to rebuild, or it has no forward pass. -/
def BRun.again (r : BRun) : Bool := r.kind == 2 || r.rebuilds != 0
def BRun.rows (r : BRun) (i : Nat) : Nat := r.sweep.getD i 128
def BRun.slices (r : BRun) : Nat := (r.parts.filter (·.g == 0)).length
def BRun.inNum (r : BRun) (i k : Nat) : Nat := (r.layer i).inNum (r.xNum i) k

/-- Columns of the input of stage k on a core. Each column group of an ATTN command loads its own. -/
def BRun.cols (r : BRun) (i k : Nat) : Nat :=
  if r.kind = 4 && k == 0 then (r.layer i).kIn / r.g else (r.layer i).cols r.g k
def BRun.split (r : BRun) (i k : Nat) : Bool := r.kind == 4 || (r.layer i).split k

def wAddrOf (l : Layer) (st : Stage) : Nat := l.buf + (if st.op = 0x81 then w1Offset l.kIn l.n0 else 0)

/-- Rows of a memory-form MATMUL that a part holds in a piece of a round: the first, and how many. -/
def mmTotal (r : BRun) : Nat := if r.batch.isEmpty then r.pkt.par 28 4 else sumNat (r.batch.map (·.2))
def mmRound (r : BRun) : Nat := 1024 * popcount r.mask 32
def mmPiece (r : BRun) : Nat := (mmGeom r.pkt (mmTotal r)).1
def mmFirst (r : BRun) (p : Part) (n q : Nat) : Nat := n * mmRound r + 128 * p.slice + q * mmPiece r
def mmRows (r : BRun) (p : Part) (n q : Nat) : Nat :=
  min (min (mmPiece r) (128 - q * mmPiece r)) (min (mmTotal r) ((n + 1) * mmRound r) - mmFirst r p n q)

/-- The parts that hold rows in step `pos`. -/
def BRun.busy (r : BRun) (pos : Nat) : List Part :=
  match r.steps[pos]? with
  | some (.mm n q _) => r.parts.filter fun p => mmRows r p n q != 0
  | _ => r.parts

/-- The cores of the part's cluster that hold rows, by ring position (R161). -/
def clusterRing (r : BRun) (pos : Nat) (p : Part) : List Nat :=
  ((r.busy pos).filter fun q => q.tg == p.tg && q.g == p.g).map (·.core)
def sliceMates (r : BRun) (p : Part) : List Part := r.parts.filter (·.slice == p.slice)

/-! Names of a stage's tensors on a core. -/

def fwdIn (r : BRun) (i k core : Nat) : Nat := tkey r.cmd core i ((r.layer i).placeOf r.g (r.xNum i) k).slot
def fwdOut (r : BRun) (i k core : Nat) : Nat := tkey r.cmd core i ((r.layer i).placeOf r.g (r.xNum i) (k + 1)).slot
def reIn (r : BRun) (i k sw core : Nat) : Nat := tkey r.cmd core i (if k = 0 then rXs sw else rRe (k - 1) sw)
def reOut (r : BRun) (i k sw core : Nat) : Nat := tkey r.cmd core i (rRe k sw)
/-- Gradient of the output of stage k. -/
def dyKey (r : BRun) (i k sw core : Nat) : Nat :=
  tkey r.cmd core i (if k + 1 = (r.layer i).stages.length then rGs sw else rGr k sw)
def dyNumOf (r : BRun) (i k : Nat) : Nat :=
  if k + 1 = (r.layer i).stages.length then r.gradNumX (i + 1) else (r.layer i).grad.gNum.getD k 0
def dxNumOf (r : BRun) (i k : Nat) : Nat := gradNum (r.layer i) (r.gradNumX i) k
/-- dG becomes the gradient of X_i in place (R205). -/
def BRun.inPlace (r : BRun) (i : Nat) : Bool := (r.layer i).dgInPlace (r.gradNumX i) (r.gradNumX (i + 1))
/-- The backward of stage k adds its result to dG. -/
def addsResid (r : BRun) (i k : Nat) : Bool := k == 0 && (r.layer i).addsDg
/-- Gradient of the input of stage k. -/
def dxKey (r : BRun) (i k sw core : Nat) : Nat :=
  tkey r.cmd core i (if k ≠ 0 then rGr (k - 1) sw else if r.inPlace i then rGs sw else rGx sw)

/-! Waiting to bind. -/

/-- A step begins once its frames are bound; none while it waits, and false for a state in which only
a gated group has begun to wake. A frame that fits nowhere refuses the command (R128). -/
def withFrames (cmd core : Nat) (fs : List Frame) (s : State) (f : State → State) : Option (State × Bool) :=
  match bindAll cmd core fs s with
  | .wait => none
  | .wake s => some (s, false)
  | .fail => some (endCmd s cmd stBadParam, true)
  | .ok s => some (f s, true)

/-! The weight feed (R163, R164, R208). Chunk c is input rows kp × (c / 2^20) on of panel c mod 2^20. -/

/-- The feed of a step of a column group: every core takes it at the same step. -/
def feedKey (r : BRun) (g pos : Nat) : Nat := pos + 2 ^ 20 * (g + 2 ^ 4 * r.cmd)

def chunkId (kc panel : Nat) : Nat := kc * 2 ^ 20 + panel
def chunkRow (c : Nat) : Nat := c / 2 ^ 20
def chunkPanel (c : Nat) : Nat := c % 2 ^ 20
def chunkSlot (c : Nat) : Nat := chunkPanel c % 8

/-- The chunks of round `rd` and input rows `kc` in the order in which the core at position `pos` of a
ring of `m` takes them: the panel in slot j enters at position j, and each core passes its chunk to the
next. -/
def roundOrder (m pos panels rd kc : Nat) : List Nat :=
  let n := min 8 (panels - 8 * rd)
  (List.range (ceilDiv n m)).flatMap fun v => (List.range m).filterMap fun i =>
    let slot := v * m + (pos + m - i) % m
    if slot < n then some (chunkId kc (8 * rd + slot)) else none

/-- Every chunk of a forward pass: rounds of panels, each over all input rows. -/
def fwdOrder (m pos panels chunks : Nat) : List Nat :=
  (List.range (ceilDiv panels 8)).flatMap fun rd => (List.range chunks).flatMap (roundOrder m pos panels rd)
/-- Of a backward pass: blocks of input rows, each over all panels. -/
def bwdOrder (m pos panels chunks : Nat) : List Nat :=
  (List.range chunks).flatMap fun kc => (List.range (ceilDiv panels 8)).flatMap fun rd => roundOrder m pos panels rd kc

/-- A weight slice: rows × columns from `addr`, `pitch` columns apart, in chunks of `kp` input rows with
numeric word `num`. -/
structure Slice where
  addr : Nat
  pitch : Nat
  kLoc : Nat
  nLoc : Nat
  kp : Nat
  num : Nat
  deriving DecidableEq, Repr

def Slice.panels (w : Slice) : Nat := ceilDiv w.nLoc 64
def Slice.chunks (w : Slice) : Nat := ceilDiv w.kLoc w.kp
/-- 64-row tiles of chunk row kc. -/
def Slice.tiles (w : Slice) (kc : Nat) : Nat := ceilDiv (min w.kp (w.kLoc - kc * w.kp)) 64

/-- The slice that column group g takes of a stage's weight (R162, R165). -/
def sliceOf (r : BRun) (i k g kp : Nat) : Slice :=
  let l := r.layer i
  let st := r.stage i k
  let kAll := l.width k
  let nAll := l.width (k + 1)
  let rows := if st.row then kAll / r.g else kAll
  let cols := if st.row then nAll else nAll / r.g
  { addr := wAddrOf l st + 2 * (if st.row then g * rows * nAll else g * cols)
    pitch := nAll
    kLoc := rows
    nLoc := cols
    kp := kp
    num := st.wNum l }

/-- The two panel buffers: two bands of one frame (R168). -/
def panelFrame (cmd core i num kp : Nat) : Frame :=
  let f := numFmt num
  ⟨64, ceilDiv (2 * fmtBytes f * kp) 1024,
    [⟨tkey cmd core i (rPanel 0), num, kp, 0, true⟩, ⟨tkey cmd core i (rPanel 1), num, kp, cellsOf kp f, true⟩], none⟩

/-- A core joins a feed with its two empty buffers. -/
def joinFeed (r : BRun) (p : Part) (i feed : Nat) (w : Slice) (ring order : List Nat) (s : State) : State :=
  s.onBlk fun b => { b with
    panels := b.panels ++ [0, 1].map fun n =>
      { cmd := r.cmd, core := p.core, h := tenH s (tkey r.cmd p.core i (rPanel n)), feed := feed, chunk := none }
    seqs := b.seqs ++ [{
      cmd := r.cmd
      core := p.core
      g := p.g
      feed := feed
      addr := w.addr
      pitch := w.pitch
      kLoc := w.kLoc
      nLoc := w.nLoc
      kp := w.kp
      num := w.num
      ring := ring
      order := order
      got := 0 }] }

/-- The core has no chunk left in its buffers. -/
def feedIdle (s : State) (cmd core : Nat) : Bool :=
  s.blk.panels.all fun b => !(b.cmd == cmd && b.core == core && b.chunk.isSome)

/-- The core leaves its feed: its buffers are unbound. -/
def leaveFeed (cmd core i : Nat) (s : State) : State :=
  (freeTen (freeTen s (tkey cmd core i (rPanel 0))) (tkey cmd core i (rPanel 1))).onBlk fun b => { b with
    panels := b.panels.filter fun p => !(p.cmd == cmd && p.core == core)
    seqs := b.seqs.filter fun p => !(p.cmd == cmd && p.core == core) }

def seqOf (s : State) (core feed : Nat) : Option PanelSeq := s.blk.seqs.find? fun q => q.core == core && q.feed == feed

/-- The core wants this chunk next, and has a free buffer for it. -/
def bufferFor (s : State) (core feed c : Nat) : Option PanelBuf :=
  if (seqOf s core feed).any fun q => q.order[q.got]? == some c then
    s.blk.panels.find? fun b => b.core == core && b.feed == feed && b.chunk.isNone
      && canClaim (hnd s core b.h) b.cmd && groupsReady s core (hnd s core b.h) true
  else none

/-- The core at which a chunk enters each cluster of a column group. -/
def entryCores (r : BRun) (pos g c : Nat) : List Nat :=
  let ps := (r.busy pos).filter (·.g == g)
  (dedupNat (ps.map (·.tg))).filterMap fun t =>
    let ring := (ps.filter (·.tg == t)).map (·.core)
    ring[chunkSlot c % ring.length]?

/-- The weights of a chunk, row by row of the panel, narrowed to nearest even (R164); rows that the
slice does not have are zeros. A fault ends the command. -/
def readChunk (s : State) (x : Nat) (q : PanelSeq) (c : Nat) : State × List (List Nat) :=
  let k0 := chunkRow c * q.kp
  let n := min q.kp (q.kLoc - k0)
  let w := min 64 (q.nLoc - 64 * chunkPanel c)
  let (s, cause, raw) := readMat s (homeDie s x) x (q.addr + 2 * (k0 * q.pitch + 64 * chunkPanel c)) n w q.pitch 1
  if cause ≠ 0 then (endCmd s q.cmd stAborted, [])
  else
    let (s, v) := s.narrow q.cmd [] fun k => narrowList k (q.num - (q.num / 16 % 2) * 16) (fun _ => 0) (raw.map (decodeElem 1))
    (s, (List.range 64).map fun j => (List.range q.kp).map fun i => if i < n && j < w then v.getD (i * w + j) 0 else 0)

/-- A chunk is written into a panel buffer by the feed (3) or from the core before (5). -/
def putPanel (src : Nat) (b : PanelBuf) (c : Nat) (rows : List (List Nat)) (s : State) : State :=
  let e := hnd s b.core b.h
  let s := updHnd s b.core b.h fun e => claim e b.cmd src (64 * (rows.headD []).length * fmtBytes e.fmt)
  let s := moveLines s b.core 2 (bandLines e 64) e 0 64
  let s := (rows.zipIdx).foldl (fun s r => dropAborts b.cmd (putElems s b.core 2 b.h r.2 0 r.1 (ctxOf s b.cmd))) s
  s.onBlk fun k => { k with
    panels := k.panels.map fun p => if p = b then { p with chunk := some c } else p
    seqs := k.seqs.map fun q => if q.core == b.core && q.feed == b.feed then { q with got := q.got + 1 } else q }

/-- No pass of the core, issued or not, still reads the chunk. -/
def chunkSpent (s : State) (core feed c : Nat) : Bool :=
  let uses := fun (q : Pass) => q.works.any fun w => w.stat.src = .panel feed c || w.stream.src = .panel feed c
  !(s.core.products.any fun p => p.core == core && p.passes.any uses)
    && !(s.core.running.any fun r => r.core == core && r.works.any fun w => w.1.stat.src = .panel feed c)

def dropChunk (s : State) (b : PanelBuf) : State :=
  s.onBlk fun k => { k with panels := k.panels.map fun p => if p = b then { p with chunk := none } else p }

/-- One chunk comes from memory to the entry core of every cluster of its column group, once each has a
free buffer (R164). -/
def feedOne (s : State) : Option State :=
  s.blk.seqs.findSome? fun q => do
    let c ← q.order[q.got]?
    let r ← runOf s q.cmd
    if ended s q.cmd then none
    let es := entryCores r (q.feed % 2 ^ 20) q.g c
    let bufs := es.filterMap fun core => bufferFor s core q.feed c
    if es.contains q.core && bufs.length == es.length then
      let (s', rows) := readChunk s r.ctx q c
      if ended s' q.cmd then some s' else some (bufs.foldl (fun s b => putPanel 3 b c rows s) s')
    else none

/-- A chunk that a core has used passes to the next core of its ring that wants it, over both X ports; it
is dropped once it has visited every core (R163). -/
def passOne (s : State) : Option State :=
  s.blk.panels.findSome? fun b => do
    let c ← b.chunk
    let q ← seqOf s b.core b.feed
    let m := q.ring.length
    let pos := q.ring.idxOf b.core
    if ended s b.cmd || !chunkSpent s b.core b.feed c then none
    if pos == (chunkSlot c % m + m - 1) % m then some (dropChunk s b)
    else
      let next := q.ring.getD ((pos + 1) % m) 0
      let to_ ← bufferFor s next b.feed c
      let e := hnd s b.core b.h
      let rows := (List.range 64).map fun j => handleRow s b.core b.h j 0 q.kp
      let (s', bad) := checkCells (moveLines s b.core 2 (bandLines e 64) e 0 64) b.core 2 (some b.h) (ctxOf s b.cmd)
        (handleCells s b.core b.h 0 64)
      if bad.isEmpty then some (dropChunk (putPanel 5 to_ c rows s') b) else some (endCmd s' b.cmd stAborted)

/-! Forward products (R163): one for each round of panels. -/

/-- Where each tile of a forward product goes: the drain of panel n and row block b, but for its array,
bank and place. -/
structure Target where
  sink : Nat → Nat → Sink
  num : Nat
  ali : Bool
  room : Nat
  ins : Nat × Nat
  owners : List (Nat × Nat)

def Target.drain (t : Target) (arr bank row0 rows cols n b : Nat) : Drain where
  arr := arr
  bank := bank
  row0 := row0
  rows := rows
  cols := cols
  sink := t.sink n b
  num := t.num
  ali := t.ali
  room := t.room
  ins := t.ins
  owners := t.owners

/-- The passes of one round on a core; its banks drain after the last. -/
def roundPasses (w : Slice) (feed m pos rd rows inH : Nat) (t : Target) : List Pass :=
  let blocks := ceilDiv rows 64
  let bank := rd % 2
  let order := (List.range w.chunks).flatMap (roundOrder m pos w.panels rd)
  let ps := order.flatMap fun c => (List.range (w.tiles (chunkRow c))).map fun j =>
    fwdPass blocks bank (64 * chunkSlot c) 64 ⟨.panel feed c, 0, j, true⟩ (.pad inH) (chunkRow c * (w.kp / 64) + j)
      (chunkRow c == 0 && j == 0) []
  let ds := (List.range (min 8 (w.panels - 8 * rd))).flatMap fun slot => (List.range blocks).map fun b =>
    t.drain (b % 2) bank (64 * slot) (min 64 (rows - 64 * b)) (min 64 (w.nLoc - 64 * (8 * rd + slot))) (8 * rd + slot) b
  ps.dropLast ++ (ps.getLast?.map fun q => { q with drains := ds }).toList

/-- The core operation of a forward or recompute matmul on a core. -/
def fwdOp (r : BRun) (p : Part) (w : Slice) (ring : List Nat) (feed cls rows inH outH fIn : Nat) (t : Target) (s : State) :
    State :=
  addOp s ((List.range (ceilDiv w.panels 8)).map fun rd =>
    newProduct r.cmd p.core cls (numFmt w.num) fIn w.nLoc 0
      (roundPasses w feed ring.length (ring.idxOf p.core) rd rows inH t) [] [outH])

/-! Backward products (R208 to R210): one for each block of input rows and BE pair. -/

/-- Where the backward of a matmul stage puts its results: the drains of dX rows and of dW tiles. -/
structure BwdMat where
  w : Slice
  feed : Nat
  m : Nat
  pos : Nat
  rows : Nat
  xH : Nat
  dyH : Nat
  dX : Target
  dW : Option Target

/-- The tiles of block kc that a BE pair takes (R209). -/
def BwdMat.tiles (b : BwdMat) (kc pair : Nat) : List Nat := (List.range (b.w.tiles kc)).filter (· % 2 == pair)

/-- The passes of one chunk on a pair; `n` counts the chunks of the pair, `first` and `last` mark those of
the block. -/
def BwdMat.chunk (b : BwdMat) (kc pair c n : Nat) (first last : Bool) : List Pass :=
  let ts := b.tiles kc pair
  let kt := b.w.kp / 64
  let cols := fun t => min 64 (b.w.kLoc - 64 * (kc * kt + t))
  let panel := chunkPanel c
  (List.range (b.rows / 64)).flatMap fun j => (List.range ts.length).map fun ti =>
    let t := ts.getD ti 0
    let end_ := (j + 1) * 64 == b.rows && ti + 1 == ts.length
    { works :=
        { arr := 0, bank := kc % 2, stat := ⟨.panel b.feed c, 0, t, false⟩, stream := ⟨.pad b.dyH, j, panel, false⟩,
          row0 := ti * b.rows + 64 * j, cols := cols t, first := first } ::
        (b.dW.toList.map fun _ =>
          { arr := 1, bank := n % 2, stat := ⟨.pad b.dyH, j, panel, false⟩,
            stream := ⟨.pad b.xH, j, kc * kt + t, true⟩, row0 := 64 * ti, cols := 64, first := j == 0 })
      drains := if !end_ then [] else
        (b.dW.toList.flatMap fun d => (List.range ts.length).map fun u =>
          d.drain 1 (n % 2) (64 * u) (cols (ts.getD u 0)) 64 panel (kc * kt + ts.getD u 0))
        ++ (if !last then [] else
          (List.range ts.length).flatMap fun u => (List.range (b.rows / 64)).map fun v =>
            b.dX.drain 0 (kc % 2) (u * b.rows + 64 * v) 64 (cols (ts.getD u 0)) (kc * kt + ts.getD u 0) v) }

def BwdMat.passes (b : BwdMat) (kc pair : Nat) : List Pass :=
  let order := (List.range (ceilDiv b.w.panels 8)).flatMap fun rd => roundOrder b.m b.pos b.w.panels rd kc
  (order.zipIdx).flatMap fun c => b.chunk kc pair c.1 (kc * order.length + c.2) (c.2 == 0) (c.2 + 1 == order.length)

def bwdOp (r : BRun) (p : Part) (b : BwdMat) (fDy outH : Nat) (s : State) : State :=
  addOp s ((List.range b.w.chunks).flatMap fun kc => [0, 1].map fun pair =>
    newProduct r.cmd p.core 2 (numFmt b.w.num) fDy 64 (1 + pair) (b.passes kc pair) [] [outH])

/-! A matmul stage on a core. -/

/-- Contributions to each element of a weight gradient (R211). -/
def sweepsOf (r : BRun) (i : Nat) : Nat := 128 / max 1 (r.rows i)
def contribs (r : BRun) (i : Nat) : Nat := r.slices * sweepsOf r i

/-- The lowest cluster of a list of parts: the unit that adds their sum (assumption log 40). -/
def sumUnit (ps : List Part) : Nat := (ps.map fun p => coreCluster p.core).foldl min 31

/-- What a forward or recompute stage works on: 64-row blocks of its input, its class, and its tensors on
each core. -/
structure StageRun where
  i : Nat
  k : Nat
  cls : Nat
  rows : Nat
  inKey : Nat → Nat
  outKey : Nat → Nat
  /-- the result is added to this tensor (R166) -/
  add : Option (Nat → Nat)
  pos : Nat

/-- The output's own frame, if it is not bound yet. -/
def outFrame (s : State) (key num rows cols : Nat) (retain : Bool) : List Frame :=
  if (tenOf s key).isSome then [] else [plainFrame key num rows cols retain]

/-- A matmul stage (R162 to R166). -/
def startMat (r : BRun) (p : Part) (t : StageRun) (retain : Bool) (s : State) : Option (State × Bool) :=
  let st := r.stage t.i t.k
  let kp := bpKp r.pkt
  let w := sliceOf r t.i t.k p.g kp
  let num := st.num
  let out := t.outKey p.core
  let summed := st.row && r.g != 1
  withFrames r.cmd p.core (outFrame s out num t.rows w.nLoc retain ++ [panelFrame r.cmd p.core t.i w.num kp]) s fun s =>
    let ring := clusterRing r t.pos p
    let feed := feedKey r p.g t.pos
    let s := joinFeed r p t.i feed w ring (fwdOrder ring.length (ring.idxOf p.core) w.panels w.chunks) s
    let s := readTen (claimTen s r.cmd out (if summed then 2 else 0)) r.cmd (t.inKey p.core)
    let key := tkey r.cmd (256 + p.slice) t.i (rSum t.k)
    let mates := sliceMates r p
    let room := clog2 r.g
    let s := if !summed then s
      else newSum s r.cmd key t.rows w.nLoc (sumUnit mates) (t.rows * w.nLoc * r.g) (room - expOf s r.cmd num)
        (.tens (mates.map fun m => (m.core, t.outKey m.core, t.add.map (· m.core))) 0 num)
    let outH := tenH s out
    let sink := fun n b => match summed, t.add with
      | true, _ => Sink.sum key (64 * b) (64 * n)
      | false, some a => .add (tenH s (a p.core)) outH (64 * b) (64 * n) num (tenNum s (a p.core))
      | false, none => .out outH (64 * b) (64 * n)
    fwdOp r p w ring feed t.cls t.rows (tenH s (t.inKey p.core)) outH (numFmt (r.inNum t.i t.k))
      { sink := sink, num := num, ali := summed, room := room, ins := (r.inNum t.i t.k, w.num), owners := [] } s

/-- The sum of a weight gradient of a column group (R211). -/
def weightSum (r : BRun) (i k g : Nat) (s : State) : State :=
  let l := r.layer i
  let st := r.stage i k
  let num := if st.op = 0x80 then l.grad.dw0Num else l.grad.dw1Num
  let addr := if st.op = 0x80 then l.grad.dw0 else l.grad.dw1
  let acc := if st.op = 0x80 then l.grad.dw0In else l.grad.dw1In
  let w := sliceOf r i k g 64
  let off := (w.addr - wAddrOf l st) / 2
  newSum s r.cmd (tkey r.cmd (256 + g) i (rSumW k)) w.kLoc w.nLoc (sumUnit (r.parts.filter (·.g == g)))
    (w.kLoc * w.nLoc * contribs r i) (clog2 (contribs r i) - expOf s r.cmd num)
    (.mem (addr + off * fmtBytes (numFmt num)) (if l.dwAccum then acc + 4 * off + 1 else 0) w.pitch num)

/-- The backward of a matmul stage (R208 to R211). -/
def bwdMat (r : BRun) (p : Part) (i k sw pos : Nat) (s : State) : Option (State × Bool) :=
  let l := r.layer i
  let st := r.stage i k
  let rows := r.rows i
  let kb := max 64 (min (bpKp r.pkt) (65536 / max 1 rows))
  let w := sliceOf r i k p.g kb
  let num := dxNumOf r i k
  let dyNum := dyNumOf r i k
  let xNum := r.inNum i k
  let dwNum := if st.op = 0x80 then l.grad.dw0Num else l.grad.dw1Num
  let out := dxKey r i k sw p.core
  let summed := !st.row && r.g != 1
  withFrames r.cmd p.core (outFrame s out num rows w.kLoc (k == 0) ++ [panelFrame r.cmd p.core i w.num kb]) s fun s =>
    let ring := clusterRing r pos p
    let feed := feedKey r p.g pos
    let s := joinFeed r p i feed w ring (bwdOrder ring.length (ring.idxOf p.core) w.panels w.chunks) s
    let s := readTen (readTen s r.cmd (reIn r i k sw p.core)) r.cmd (dyKey r i k sw p.core)
    let s := claimTen s r.cmd out (if summed then 2 else 1)
    let s := if l.noDw then s else weightSum r i k p.g s
    let key := tkey r.cmd (256 + p.slice) i (rSumB k sw)
    let mates := sliceMates r p
    let resid := addsResid r i k
    let room := clog2 r.g
    let s := if !summed then s
      else newSum s r.cmd key rows w.kLoc (sumUnit mates) (rows * w.kLoc * r.g) (room - expOf s r.cmd num)
        (.tens (mates.map fun m => (m.core, dxKey r i k sw m.core,
          if resid then some (tkey r.cmd m.core i (rGs sw)) else none)) 0 num)
    let outH := tenH s out
    let dg := tkey r.cmd p.core i (rGs sw)
    let sink := fun t v => if summed then Sink.sum key (64 * v) (64 * t)
      else if resid then .add (tenH s dg) outH (64 * v) (64 * t) num (tenNum s dg)
      else .out outH (64 * v) (64 * t)
    let wKey := tkey r.cmd (256 + p.g) i (rSumW k)
    bwdOp r p {
      w := w
      feed := feed
      m := ring.length
      pos := ring.idxOf p.core
      rows := rows
      xH := tenH s (reIn r i k sw p.core)
      dyH := tenH s (dyKey r i k sw p.core)
      dX := { sink := sink, num := num, ali := summed, room := room, ins := (w.num, dyNum), owners := [] }
      dW := if l.noDw then none else
        some { sink := fun n t => .sum wKey (64 * t) (64 * n), num := dwNum, ali := true, room := clog2 (contribs r i),
               ins := (xNum, dyNum), owners := [] } } (numFmt dyNum) outH s

end Sys2Proof.Machine
end

