-- ==== Sys2Proof/Machine/BlockVu.lean ====
section
/-! DEFINITION. Vector-unit work of block commands: vector stages and their backward (R105, R167, R212 to
R214), the rows of attention (R431 to R434), and the run of any vector operation. -/
namespace Sys2Proof.Machine

open Sys2Proof

/-! Per-column operands. -/

/-- The local columns of an auxiliary vector, as real values. -/
def readAux (r : BRun) (p : Part) (i k ent : Nat) (s : State) : State × List FVal :=
  let (addr, num, _) := (r.layer i).auxEnt ent
  let w := r.cols i k
  let off := if r.split i k then p.g * w else 0
  let f := numFmt num
  let (s, c, v) := readMat s (coreDie p.core) r.ctx (addr + off * fmtBytes f) 1 w w f
  if c ≠ 0 then (endCmd s r.cmd stAborted, [])
  else
    let e := expOf s r.cmd num
    (s, v.map fun x => fscale (decodeElem f x) (-e))

/-- Operands a and b of a vector stage. The third operand of an `FMA` stage, for which a stage word has
no place, is open. -/
def auxOf (r : BRun) (p : Part) (i k : Nat) (s : State) : State × List FVal × List FVal :=
  let st := r.stage i k
  if !usesAux st then (s, [], [])
  else
    let (s, a) := readAux r p i k st.aux s
    if st.op = 0x05 then
      let (s, b) := readAux r p i k (st.aux + 1) s
      (s, a, b)
    else if st.op = 0x03 then
      ({ s with free := s.free + a.length }, a, (List.range a.length).map fun j =>
        ofF32 ((Config.freeBits (s.free + j)).toNat % 2 ^ 32))
    else (s, a, [])

/-- A vector operation of a stage, on its input tensors. -/
def stageVu (r : BRun) (p : Part) (i k rows : Nat) (ins : List Nat) (out num : Nat) (a b : List FVal) (mode : VuMode)
    (s : State) : State :=
  let st := r.stage i k
  addVu s {
    id := 0
    queued := false
    cmd := r.cmd
    core := p.core
    op := st.op
    alt := st.alt
    eps := st.eps
    ins := ins.map (tenH s)
    inExps := ins.map fun key => expOf s r.cmd (tenNum s key)
    out := tenH s out
    rows := rows
    cols := r.cols i k
    aux := usesAux st
    auxA := a
    auxB := b
    outNum := num
    mode := mode }

/-- A vector stage (R105, R167): in place, its input is its output. -/
def startVec (r : BRun) (p : Part) (t : StageRun) (retain : Bool) (s : State) : Option (State × Bool) :=
  let st := r.stage t.i t.k
  let inp := t.inKey p.core
  let out := t.outKey p.core
  withFrames r.cmd p.core (outFrame s out st.num t.rows (vuCols st.op (r.cols t.i t.k)) retain) s fun s =>
    let (s, a, b) := auxOf r p t.i t.k s
    if ended s r.cmd then s
    else
      let s := claimTen s r.cmd out 2
      let s := if inp == out then s else readTen s r.cmd inp
      stageVu r p t.i t.k t.rows [inp] out st.num a b .op s

/-- The backward of a vector stage (R212). -/
def bwdVec (r : BRun) (p : Part) (i k sw : Nat) (s : State) : Option (State × Bool) :=
  let st := r.stage i k
  let out := dxKey r i k sw p.core
  let x := if needsInput st then [reIn r i k sw p.core] else []
  let dg := if addsResid r i k then [tkey r.cmd p.core i (rGs sw)] else []
  withFrames r.cmd p.core (outFrame s out (dxNumOf r i k) (r.rows i) (r.cols i k) (k == 0)) s fun s =>
    let (s, a, _) := auxOf r p i k s
    if ended s r.cmd then s
    else
      let dy := dyKey r i k sw p.core
      let s := (x ++ [dy] ++ dg.filter (· != out)).foldl (fun s key => readTen s r.cmd key) (claimTen s r.cmd out 2)
      stageVu r p i k (r.rows i) (x ++ [dy] ++ dg) out (dxNumOf r i k) a [] (.bwd i k sw) s

/-! Rows of the backward (R212 to R214). -/

/-- The stage input and output gradient of row n. -/
def bwdIns (v : VuOp) (st : Stage) (n : Nat) (s : State) : List FVal × List FVal :=
  let row := fun (j : Nat) => vuInRow s v.core v.op n v.cols (v.ins.getD j 0) (v.inExps.getD j 0)
  if needsInput st then (row 0, row 1) else ([], row 0)

/-- Row n: its open values start at `k`. -/
def bwdRow (r : BRun) (v : VuOp) (i k free : Nat) (n : Nat) (s : State) : State :=
  let st := r.stage i k
  let (x, dy) := bwdIns v st n s
  let gr := vecGrad st x dy v.auxA (free + 4 * v.cols * n)
  let gr := if addsResid r i k then
      let j := v.ins.length - 1
      List.zipWith add32 gr (vuInRow s v.core v.op n v.cols (v.ins.getD j 0) (v.inExps.getD j 0))
    else gr
  let (s, ws) := vuNarrow s v.core v.cmd v.outNum false gr
  vuPut s v v.out n ws

/-- 64 columns of a per-column sum enter ALIGNED32 (R288). -/
def auxGroup (r : BRun) (v : VuOp) (num room : Nat) (vals : List FVal) (j : Nat) (s : State) : State × LaneGroup :=
  let xs := slice vals (64 * j) 64
  let before := (s.cmd? r.cmd).elim 0 (·.ovfSat)
  let (s, rs) := s.narrow r.cmd [] fun c => xs.foldl (fun (a : Cmd × List Nat) x =>
    let (c, w) := narrowElem a.1 6 (numSlot num) (numSto num) (a.1.exp (numSlot num) - room)
      (coreLane v.core 6 ((64 * j + a.2.length) % 128)) x
    (c, a.2 ++ [w])) (c, [])
  (s, groupOf64 (List.zipWith laneOf rs xs) ((s.cmd? r.cmd).elim 0 (·.ovfSat) != before))

/-- Enter the per-column gradient of auxiliary operand e into its sum (R214): the terms of each column are
added in FP32, in an open order. -/
def auxSum (r : BRun) (v : VuOp) (i k e : Nat) (rows : List (List FVal)) (s : State) : State :=
  let l := r.layer i
  let st := r.stage i k
  let g := (r.parts.find? (·.core == v.core)).elim 0 (·.g)
  let w := v.cols
  let num := l.grad.dauxNum
  let dst := l.grad.daux.getD (st.aux - 1 + e) 0
  let split := r.split i k
  if dst = 0 || (!split && g != 0) then s
  else
    let key := tkey r.cmd (256 + g) i (rSumA k e)
    let n := contribs r i
    let room := clog2 n
    let s := newSum s r.cmd key 1 w (sumUnit (r.parts.filter (·.g == g))) (w * n) (room - expOf s r.cmd num)
      (.mem (dst + 4 * (if split then g * w else 0)) 0 w num)
    let vals := (List.range w).map fun c => freeSum add32 (s.free + rows.length * c) (rows.map fun row => row.getD c .nan)
    let s := { s with free := s.free + rows.length * w }
    let (s, gs) := (List.range (ceilDiv w 64)).foldl (fun (a : State × List LaneGroup) j =>
      let (s, g) := auxGroup r v num room vals j a.1
      (s, a.2 ++ [g])) (s, [])
    contribute s key (coreCluster v.core) w (fun b j => b.at 0 (64 * j)) gs

/-- The backward of a vector stage on one core. -/
def runBwd (v : VuOp) (i k : Nat) (s : State) : State :=
  match runOf s v.cmd with
  | none => s
  | some r =>
    let st := r.stage i k
    let free := s.free
    let terms := (List.range v.rows).map fun n =>
      let (x, dy) := bwdIns v st n s
      vecAuxTerms st x dy (free + 4 * v.cols * n)
    let s := vuRows (bwdRow r v i k free) v.rows { s with free := free + 4 * v.cols * v.rows }
    if (r.layer i).noDw || !usesAux st then s
    else (List.range (terms.headD []).length).foldl (fun s e =>
      auxSum r v i k e (terms.map fun row => row.getD e []) s) s

/-! Rows of attention (R432, R434), on blocks of 64 keys. -/

/-- d^(−1/2) in FP32. -/
def invSqrtD (d : Nat) : FVal := f32 (bdiv one (bsqrt (.ofNat d)))

/-- Places of the block's keys that row n attends to. -/
def attnCols (kb q0 n : Nat) (causal : Bool) : List Nat :=
  (List.range 64).filter fun c => !causal || decide (64 * kb + c ≤ q0 + n)

/-- FP32 elements of a row. -/
def rowF32 (s : State) (core h n cols : Nat) : List FVal := (handleRow s core h n 0 cols).map ofF32

/-- The scaled scores of those keys. -/
def attnScores (s : State) (v : VuOp) (d n : Nat) (cs : List Nat) : List FVal :=
  let l := rowF32 s v.core (v.ins.headD 0) n 64
  cs.map fun c => f32 (fmul (l.getD c .nan) (invSqrtD d))

/-- e^(x − m), within 4 ulp; the open value is number `k`. -/
def attnExp (x m : FVal) (k : Nat) : FVal :=
  if x.isFin then ofF32 (withAccuracy 4 (expSafe (fadd x m.neg)) ((Config.freeBits k).toNat % 2 ^ 32))
  else .fin false 0 0

/-- Row maximum and row sum after one more block: a new maximum rescales the sum. -/
def attnStats (m l : FVal) (xs : List FVal) (k : Nat) : FVal × FVal :=
  let m' := fmaxIeee m (rowMax xs)
  if !m'.isFin then (m', l)
  else
    let es := (List.range xs.length).map fun j => attnExp (xs.getD j .nan) m' (k + 1 + j)
    let old := if m.isFin then f32 (fmul l (attnExp m m' k)) else .fin false 0 0
    (m', freeSum add32 (k + 1 + xs.length) (old :: es))

/-- p of one key (R431, R603): NaN in a row whose maximum is not finite. -/
def attnP (x m l : FVal) (k : Nat) : FVal :=
  if !m.isFin then .nan
  else if x.isFin then
    ofF32 (withAccuracy 4 (bdiv (expSafe (fadd x m.neg)) l) ((Config.freeBits k).toNat % 2 ^ 32))
  else .fin false 0 0

/-- Values at the places of `cs` in a row of 64; +0 elsewhere. -/
def spread (cs : List Nat) (vs : List FVal) : List FVal :=
  (List.range 64).map fun c => if cs.contains c then vs.getD (cs.idxOf c) .nan else .fin false 0 0

/-- One row of an attention step. -/
def attnRow (v : VuOp) (step d kb q0 col : Nat) (causal : Bool) (n : Nat) (s : State) : State :=
  let cs := attnCols kb q0 n causal
  let k := s.free
  let s := { s with free := k + 256 }
  let stats := fun (h : Nat) => let l := rowF32 s v.core h n 3; (l.getD 0 .nan, l.getD 1 .nan, l.getD 2 .nan)
  if step = 0 then
    let (m, l, dl) := if kb = 0 then (.inf true, .fin false 0 0, .fin false 0 0) else stats v.out
    let (m, l) := attnStats m l (attnScores s v d n cs) k
    vuPut s v v.out n [toF32 m, toF32 l, toF32 dl]
  else if step = 2 then
    let part := fun (j : Nat) =>
      let h := v.ins.getD j 0
      let f := (hnd s v.core h).fmt
      (handleRow s v.core h n col d).map fun w => fscale (decodeElem f w) (-(v.inExps.getD j 0))
    let (m, l, _) := stats v.out
    let dl := freeSum add32 k (mul32 (part 0) (part 1))
    vuPut { s with free := k + d } v v.out n [toF32 m, toF32 l, toF32 dl]
  else
    let (m, l, dl) := stats (v.ins.getLastD 0)
    let xs := attnScores s v d n cs
    let ps := (List.range xs.length).map fun j => attnP (xs.getD j .nan) m l (k + j)
    let out := if step = 1 then ps
      else
        let dp := rowF32 s v.core (v.ins.getD 1 0) n 64
        List.zipWith (fun c p => f32 (fmul (f32 (fmul p (add32 (dp.getD c .nan) dl.neg))) (invSqrtD d))) cs ps
    let (s, ws) := vuNarrow s v.core v.cmd v.outNum false (spread cs out)
    vuPut s v v.out n ws

/-- Run an operation: results, lines, operations, and the core's progress (R108, R475). -/
def runVu (s : State) (v : VuOp) : State :=
  let s := vuOutLines s v
  let s := match v.mode with
    | .op => vuRows (vuOneRow v) v.rows s
    | .bwd i k _ => runBwd v i k s
    | .attn step d kb q0 col causal => vuRows (attnRow v step d kb q0 col causal) v.rows s
  let s := match s.cmd? v.cmd with
    | some c => s.charge c.ctx acOps (vuOpsPer v.op * v.rows * v.cols)
    | none => s
  s.beat (coreCpath v.core 5)

end Sys2Proof.Machine
end

