-- ==== Sys2Proof/Machine/BlockAttn.lean ====
section
/-! DEFINITION. Attention on the cores of a cluster (R431 to R434): each core works through its heads by
core operations on blocks of 64 keys, one after another. -/
namespace Sys2Proof.Machine

open Sys2Proof

/-- The parts that hold the sequence of part p, in order of rows. -/
def seqMates (r : BRun) (p : Part) (len : Nat) : List Part :=
  r.parts.filter fun m => m.g == p.g && m.slice / (len / 128) == p.slice / (len / 128)

/-- Attention of one part: the tensors of a stage on each core, forward or backward. -/
structure Attn where
  r : BRun
  p : Part
  i : Nat
  k : Nat
  bwd : Bool
  inp : Nat → Nat
  /-- forward: the output; backward: the gradient of the input -/
  out : Nat → Nat
  /-- backward: the recomputed output, and its gradient -/
  o : Nat
  dout : Nat

def Attn.layer (a : Attn) : Layer := a.r.layer a.i
def Attn.word (a : Attn) : Nat := attnWord a.layer (a.r.stage a.i a.k)
def Attn.d (a : Attn) : Nat := a.layer.headDim
def Attn.heads (a : Attn) : Nat := a.layer.heads / a.r.g
def Attn.mates (a : Attn) : List Part := seqMates a.r a.p (seqLen a.word)
/-- Place of the part in its sequence. -/
def Attn.m (a : Attn) : Nat := a.mates.idxOf a.p
/-- Blocks of keys that the part's rows attend to. -/
def Attn.blocks (a : Attn) : Nat := if seqCausal a.word then 2 * (a.m + 1) else seqLen a.word / 64
def Attn.inNum (a : Attn) : Nat := a.r.inNum a.i a.k
/-- Numeric word of what the array products write: the output's, or that of the input's gradient. -/
def Attn.num (a : Attn) : Nat := if a.bwd then dxNumOf a.r a.i a.k else (a.r.stage a.i a.k).num
def Attn.doNum (a : Attn) : Nat := dyNumOf a.r a.i a.k
/-- p enters the arrays in the format of the input, ds in that of the output's gradient, through slot 0
(assumption log 42). -/
def Attn.pNum (a : Attn) : Nat := numFmt a.inNum
def Attn.dsNum (a : Attn) : Nat := numFmt a.doNum
def Attn.key (a : Attn) (role : Nat) : Nat := tkey a.r.cmd a.p.core a.i role

/-- First column of head h in the input: an input that is not divided holds every column group's heads
(R162). -/
def Attn.col (a : Attn) (h : Nat) : Nat :=
  3 * a.d * (h + (if a.r.split a.i a.k then 0 else a.p.g * a.heads))

/-! The working frames (R432): scores, p and row statistics; backward also dp and ds. The two buffers each
of key and value are the feeders' transfers. -/

def attnFrames (a : Attn) : List Frame :=
  let w := attnWords a.d (numFmt a.inNum) / 128
  let pc := cellsOf 64 (numFmt a.inNum)
  ⟨128, w, [⟨a.key rScore, 0, 64, 0, true⟩, ⟨a.key rProb, a.pNum, 64, 16, true⟩, ⟨a.key rStat, 0, 3, 16 + pc, true⟩],
    none⟩ ::
  if a.bwd then [⟨128, w, [⟨a.key rDp, 0, 64, 0, true⟩, ⟨a.key rDs, a.dsNum, 64, 16, true⟩], none⟩] else []

/-! Core operations, by kind, head and block of keys. -/

inductive AttnStep where
  | score
  | stat
  | prob
  | pv
  | delta
  | dp
  | ds
  | dq
  | dv
  | dk
  deriving DecidableEq, Repr

/-- The operations of a part in order (R432, R434). -/
def Attn.ops (a : Attn) : List (AttnStep × Nat × Nat) :=
  (List.range a.heads).flatMap fun h =>
    let each := fun (l : List AttnStep) => (List.range a.blocks).flatMap fun kb => l.map fun st => (st, h, kb)
    each [.score, .stat]
      ++ (if a.bwd then (.delta, h, 0) :: each [.score, .dp, .prob, .ds, .dq, .dv, .dk]
          else each [.score, .prob, .pv])

/-- Bands that an operation reads and writes. -/
def stepBands : AttnStep → List Nat × List Nat
  | .score => ([], [rScore])
  | .stat => ([rScore], [rStat])
  | .prob => ([rScore, rStat], [rProb])
  | .pv => ([rProb], [])
  | .delta => ([], [rStat])
  | .dp => ([], [rDp])
  | .ds => ([rScore, rDp, rStat], [rDs])
  | .dq => ([rDs], [])
  | .dv => ([rProb], [])
  | .dk => ([rDs], [])

/-- The input of the core that holds block kb of the keys, and the block's tile row there (R431). -/
def Attn.keySrc (a : Attn) (s : State) (kb : Nat) : Src × Nat :=
  let m := a.mates.getD (kb / 2) a.p
  let h := tenH s (a.inp m.core)
  (if m.core = a.p.core then .pad h else .far m.core h, kb % 2)

def Attn.drain (a : Attn) (arr bank row0 rows cols : Nat) (sink : Sink) (num : Nat) (ali : Bool)
    (ins : Nat × Nat) : Drain where
  arr := arr
  bank := bank
  row0 := row0
  rows := rows
  cols := cols
  sink := sink
  num := num
  ali := ali
  room := clog2 (seqLen a.word / 128)
  ins := ins
  owners := []

def Attn.product (a : Attn) (cls fA fB pair : Nat) (ps : List Pass) (writes : List Nat) (s : State) : State :=
  addOp s [newProduct a.r.cmd a.p.core cls fA fB 64 pair ps [] writes]

def withDrains (ps : List Pass) (ds : List Drain) : List Pass :=
  ps.dropLast ++ (ps.getLast?.map fun q => { q with drains := ds }).toList

/-- Rows of operand `x` (from tile column `xc`) against a block of keys or values (tile column `kc`, its
columns the reduction): a 128 × 64 product drained to FP32. -/
def Attn.block (a : Attn) (cls pair kb xc kc out : Nat) (x : Nat) (fX insX : Nat) (s : State) : State :=
  let (src, row) := a.keySrc s kb
  let ps := (List.range (a.d / 64)).map fun t =>
    fwdPass 2 0 0 64 ⟨src, row, kc + t, true⟩ (.pad x) (xc + t) (t == 0) []
  let h := tenH s (a.key out)
  let ds := [0, 1].map fun b => a.drain b 0 0 64 64 (.out h (64 * b) 0) 0 false (insX, a.inNum)
  a.product cls (numFmt a.inNum) fX pair (withDrains ps ds) [h] s

/-- Weights of a block of keys (`w`, in slot 0) against its rows from tile column `kc`, accumulated over the
blocks: the last drains D columns from column `col` on. -/
def Attn.gather (a : Attn) (cls pair kb kc col head : Nat) (w : Nat) (fW : Nat) (s : State) : State :=
  let (src, row) := a.keySrc s kb
  let ps := (List.range (a.d / 64)).map fun t =>
    fwdPass 2 1 (64 * t) 64 ⟨src, row, kc + t, false⟩ (.pad w) 0 (kb == 0) []
  let key := a.out a.p.core
  let h := tenH s key
  let dg := tkey a.r.cmd a.p.core a.i (rGs 0)
  let sink := fun b t =>
    if !a.bwd then Sink.head h (64 * b) (col + 64 * t) head
    else if addsResid a.r a.i a.k then .add (tenH s dg) h (64 * b) (col + 64 * t) a.num (tenNum s dg)
    else .out h (64 * b) (col + 64 * t)
  let ds := (List.range (a.d / 64)).flatMap fun t => [0, 1].map fun b =>
    a.drain b 1 (64 * t) 64 64 (sink b t) a.num false (fW, a.inNum)
  a.product cls (numFmt a.inNum) fW pair (if kb + 1 = a.blocks then withDrains ps ds else ps) [h] s

/-- The partial gradient of a block of keys or values: the columns of `w` (in slot 0) against rows of
operand `x`, drained in ALIGNED32 into the sum `v` of the core that holds the keys (R434). -/
def Attn.keyGrad (a : Attn) (kb head v w fW x xc insX fX : Nat) (s : State) : State :=
  let m := a.mates.getD (kb / 2) a.p
  let ps := (List.range (a.d / 64)).flatMap fun t => [0, 1].map fun b =>
    ({ works := [{ arr := 0, bank := 0, stat := ⟨.pad x, b, xc + t, false⟩, stream := ⟨.pad w, b, 0, true⟩,
                   row0 := 64 * t, cols := 64, first := b == 0 }], drains := [] } : Pass)
  let key := tkey a.r.cmd m.core a.i (rSumH head v)
  let ds := (List.range (a.d / 64)).map fun t =>
    a.drain 0 0 (64 * t) 64 64 (.sum key (64 * (kb % 2)) (64 * t)) a.num true (fW, insX)
  a.product 2 fX fW 1 (withDrains ps ds) [] s

/-- A vector operation of attention. -/
def Attn.vu (a : Attn) (step kb h : Nat) (ins : List Nat) (out num : Nat) (s : State) : State :=
  addVu s {
    id := 0
    queued := false
    cmd := a.r.cmd
    core := a.p.core
    op := 0x28
    alt := false
    eps := 0
    ins := ins.map (tenH s)
    inExps := ins.map fun key => expOf s a.r.cmd (tenNum s key)
    out := tenH s out
    rows := 128
    cols := 64
    aux := false
    auxA := []
    auxB := []
    outNum := num
    mode := .attn step a.d kb (128 * a.m) (a.d * h) (seqCausal a.word) }

/-- Start one operation: its bands are claimed and acquired. -/
def Attn.start (a : Attn) (op : AttnStep × Nat × Nat) (s : State) : State :=
  let (st, h, kb) := op
  let (rd, wr) := stepBands st
  let src := if st == .score then 0 else if st == .dp then 1 else 2
  let s := wr.foldl (fun s b => claimTen s a.r.cmd (a.key b) src) s
  let s := rd.foldl (fun s b => readTen s a.r.cmd (a.key b)) s
  let fI := numFmt a.inNum
  let t := a.d / 64
  let col := a.col h / 64
  let oc := a.d * h
  let x := tenH s (a.inp a.p.core)
  let keys := fun l => l.map a.key
  match st with
  | .score => a.block 0 0 kb col (col + t) rScore x fI a.inNum s
  | .stat => a.vu 0 kb h (keys [rScore]) (a.key rStat) 0 s
  | .prob => a.vu 1 kb h (keys [rScore, rStat]) (a.key rProb) a.pNum s
  | .pv => a.gather 0 0 kb (col + 2 * t) oc h (tenH s (a.key rProb)) a.pNum s
  | .delta => a.vu 2 kb h [a.dout, a.o] (a.key rStat) 0 s
  | .dp => a.block 2 1 kb (oc / 64) (col + 2 * t) rDp (tenH s a.dout) (numFmt a.doNum) a.doNum s
  | .ds => a.vu 3 kb h (keys [rScore, rDp, rStat]) (a.key rDs) a.dsNum s
  | .dq => a.gather 2 1 kb (col + t) (a.col h) h (tenH s (a.key rDs)) a.dsNum s
  | .dv => a.keyGrad kb h 1 (tenH s (a.key rProb)) a.pNum (tenH s a.dout) (oc / 64) a.doNum (numFmt a.doNum) s
  | .dk => a.keyGrad kb h 0 (tenH s (a.key rDs)) a.dsNum x col a.inNum fI s

/-- An operation has ended: its bands are released. -/
def Attn.finish (a : Attn) (op : AttnStep × Nat × Nat) (s : State) : State :=
  (stepBands op.1).1.foldl (fun s b => doneReading s a.r.cmd (a.key b)) s

/-- No product, pass, drain or vector operation of the command is left on a core. -/
def coreIdle (s : State) (cmd core : Nat) : Bool :=
  !(s.core.products.any fun p => p.cmd == cmd && p.core == core)
    && !(s.core.running.any fun p => p.cmd == cmd && p.core == core)
    && !(s.core.drains.any fun p => p.cmd == cmd && p.core == core)
    && !(s.core.vuq.any fun v => v.cmd == cmd && v.core == core)

/-! The stage. -/

/-- The sums of dk and dv to which the part contributes (R434). -/
def Attn.sums (a : Attn) (s : State) : State :=
  let all := a.mates
  let mine := if seqCausal a.word then all.take (a.m + 1) else all
  mine.foldl (fun s m =>
    let n := if seqCausal a.word then all.length - all.idxOf m else all.length
    let dg := if addsResid a.r a.i a.k then some (tkey a.r.cmd m.core a.i (rGs 0)) else none
    (List.range a.heads).foldl (fun s h => [0, 1].foldl (fun s v =>
      newSum s a.r.cmd (tkey a.r.cmd m.core a.i (rSumH h v)) 128 a.d (coreCluster m.core) (128 * a.d * n)
        (clog2 (seqLen a.word / 128) - expOf s a.r.cmd a.num)
        (.tens [(m.core, a.out m.core, dg)] (a.col h + a.d * (1 + v)) a.num)) s) s) s

/-- Every mate of the part is at the stage and holds its input. -/
def Attn.ready (a : Attn) (s : State) : Bool := a.mates.all fun m => tenReady s (a.inp m.core)

/-- Elements of a tensor that no unit computes are open: columns of the gradient of an undivided input
that belong to other column groups' heads, or all of them (assumption log 43). -/
def openCols (s : State) (cmd key : Nat) (mine : Nat → Bool) : State :=
  match tenOf s key with
  | none => s
  | some t =>
    let z := fmtBytes (numFmt t.num)
    (List.range t.rows).foldl (fun s r => (List.range t.cols).foldl (fun s c =>
      if mine c then s
      else
        let (s, b) := freeBytes s z
        (putElems s t.core 1 t.h r c (bytesElems (numFmt t.num) b) (ctxOf s cmd)).1) s) s

/-- The stage begins on the part: its frames are bound, the inputs of the sequence acquired and its output
claimed. -/
def Attn.begin (a : Attn) (retain : Bool) (onto : Bool) (rows : Nat) (s : State) : Option (State × Bool) :=
  let out := a.out a.p.core
  let cols := if a.bwd then a.r.cols a.i a.k else a.layer.outCols a.r.g (a.r.stage a.i a.k) 0
  let fs := if onto then [⟨0, 0, [⟨out, a.num, cols, 0, retain⟩], some (a.inp a.p.core)⟩]
    else outFrame s out a.num rows cols retain
  if !a.ready s then none
  else withFrames a.r.cmd a.p.core (fs ++ (if rows = 128 then attnFrames a else [])) s fun s =>
    let s := claimTen s a.r.cmd out (if a.bwd then 1 else 0)
    let s := (a.mates.map fun m => a.inp m.core).foldl (fun s k => readTen s a.r.cmd k) s
    if rows ≠ 128 then openCols s a.r.cmd out fun _ => false
    else if !a.bwd then s
    else
      let s := readTen (readTen s a.r.cmd a.o) a.r.cmd a.dout
      let lo := a.col 0
      openCols (a.sums s) a.r.cmd out fun c => decide (lo ≤ c) && decide (c < lo + 3 * a.d * a.heads)

/-- The part's next operation starts once the one before it has ended; with none left, the stage's
inputs and working frames are released. -/
def Attn.next (a : Attn) (sub rows : Nat) (s : State) : Option (State × Option Nat) :=
  if !coreIdle s a.r.cmd a.p.core then none
  else
    let ops := if rows = 128 then a.ops else []
    let s := if sub = 0 then s else (ops[sub - 1]?).elim s fun op => a.finish op s
    match ops[sub]? with
    | some op => some (a.start op s, some (sub + 1))
    | none =>
      let out := a.out a.p.core
      if !tenReady s out then none
      else
        let s := [rScore, rProb, rStat, rDp, rDs].foldl (fun s b => freeTen s (a.key b)) s
        let s := (a.mates.map fun m => a.inp m.core).foldl (fun s k => doneReading s a.r.cmd k) s
        some (if a.bwd then doneReading (doneReading s a.r.cmd a.o) a.r.cmd a.dout else s, none)

/-- Every core of the sequence has finished reading the keys and values of a head (R433). -/
def Attn.headRead (a : Attn) (subs : Nat → Nat) (head : Nat) (s : State) : Bool :=
  a.mates.all fun m =>
    let b := { a with p := m }
    let last := ((b.ops.zipIdx.filter fun e => e.1.2.1 == head).getLast?).elim 0 (·.2)
    let sub := subs m.core
    decide (last + 1 < sub) || (sub == last + 1 && !(s.core.products.any fun p => p.cmd == a.r.cmd && p.core == m.core)
      && !(s.core.running.any fun p => p.cmd == a.r.cmd && p.core == m.core))

end Sys2Proof.Machine
end

