-- ==== Sys2Proof/Machine/Saddle.lean ====
section
/-! DEFINITION. The saddlebag: its blocks, words and errors, and the layer inputs held there or in the
slow tier (R172 to R188, R192 to R196). -/
namespace Sys2Proof.Machine

open Sys2Proof

/-! Blocks (R172 to R175). -/

/-- Ways a command may use on a die (R174). -/
def sthWays (s : State) (x limit d : Nat) : List Nat :=
  let ws := bitsOf ((ctxRes s x).ways.getD d 0) 16
  if limit = 0 then ws else ws.take limit

/-- Free blocks of those ways, rising. -/
def sthFree (s : State) (x limit d : Nat) : List Nat :=
  let used := ((s.blk.stored.filter (!·.away)).flatMap fun t => t.blocks.getD d [])
    ++ (s.blk.scrubs.filter (·.1 == d)).flatMap (·.2.2)
  (((sthWays s x limit d).filter fun w => !fenced s (fuWay d w)).flatMap fun w => (List.range 48).map (48 * w + ·)).filter
    (!used.contains ·)

/-- Row bytes of X_i as it lies in the pads. -/
def BRun.xRowBytes (r : BRun) (i : Nat) : Nat := (r.layer i).kIn * fmtBytes (numFmt (r.xNum i))
/-- The parts of a die that hold rows of their own, in token order. -/
def dieSlices (r : BRun) (d : Nat) : List Part := r.parts.filter fun p => p.g == 0 && coreDie p.core == d
def BRun.dieBytes (r : BRun) (i d : Nat) : Nat := (dieSlices r d).length * 128 * r.xRowBytes i
def BRun.xBytes (r : BRun) (i : Nat) : Nat := r.slices * 128 * r.xRowBytes i
/-- Offset of a part's rows among its die's. -/
def partOffset (r : BRun) (p : Part) (i : Nat) : Nat :=
  ((dieSlices r (coreDie p.core)).filter fun m => m.slice < p.slice).length * 128 * r.xRowBytes i
/-- Offset, in token order, of the first row of die d. -/
def dieOffset (r : BRun) (i d : Nat) : Nat :=
  (r.parts.filter fun p => p.g == 0 && decide (coreDie p.core < d)).length * 128 * r.xRowBytes i

/-- The ways of a reservation are powered (R569); otherwise they wake. -/
def waysReady (s : State) (r : BRun) : Bool :=
  (diesOf r.mask).all fun d => (sthWays s r.ctx (bpWays r.pkt) d).all fun w => gateReady s (fuWay d w)
def wakeWays (s : State) (r : BRun) : State :=
  (diesOf r.mask).foldl (fun s d => (sthWays s r.ctx (bpWays r.pkt) d).foldl (fun s w => touchGate s (fuWay d w)) s) s

/-- Blocks for X_i on every die, or none (R174, R175). -/
def pickBlocks (s : State) (r : BRun) (i : Nat) : Option (List (List Nat)) :=
  let want := (List.range 4).map fun d => (ceilDiv (r.dieBytes i d) 65536, sthFree s r.ctx (bpWays r.pkt) d)
  if want.all fun w => decide (w.1 ≤ w.2.length) then some (want.map fun w => w.2.take w.1) else none

/-! Words: 2^21 × die + 2048 × block + word. -/

def sthByte (d : Nat) (blocks : List Nat) (off : Nat) : Nat :=
  2 ^ 26 * d + 65536 * blocks.getD (off / 65536) 0 + off % 65536

def sthMove (s : State) (d n : Nat) : State := s.count64 (saddleBlk d + 0x30) (ceilDiv n 1024)

/-- The word lies in bytes [off, off + n) of a tensor in these blocks of die d. -/
def sthHas (d : Nat) (blocks : List Nat) (off n w : Nat) : Bool :=
  let b := w % 2 ^ 21 / 2048
  let pos := 65536 * blocks.idxOf b + 32 * (w % 2048)
  w / 2 ^ 21 == d && blocks.contains b && decide (off < pos + 32) && decide (pos < off + n)

/-- Write a tensor's bytes from offset `off` of its blocks on; words written whole lose their errors. -/
def sthWrite (s : State) (d : Nat) (blocks : List Nat) (off : Nat) (bs : List Byte) : State :=
  let m := (List.range bs.length).foldl (fun m j => memWrite m (sthByte d blocks (off + j)) (bs.getD j 0#8)) s.blk.mem
  let keep := fun (w : Nat) => !sthHas d blocks off bs.length w
  s.onBlk fun b => { b with
    mem := m
    ue := b.ue.filter keep
    sym := b.sym.filter keep }

def sthRead (s : State) (d : Nat) (blocks : List Nat) (off len : Nat) : List Byte :=
  (List.range len).map fun i => memRead s.blk.mem (sthByte d blocks (off + i))

/-- Record of a word (R196). -/
def sthRec (w kind patrol : Nat) : Nat :=
  let b := w % 2 ^ 21 / 2048
  b / 48 + (b % 48 * 2048 + w % 2048) * 2 ^ 4 + kind * 2 ^ 21 + patrol * 2 ^ 22

/-- An uncorrectable word was read (R181). -/
def sthUe (s : State) (w patrol : Nat) (ctx : Option Nat) : State :=
  let d := w / 2 ^ 21
  let b := saddleBlk d
  let s := captureErr s (b + 0x1C) (sthRec w 1 patrol)
  let s := (s.latch (b + 0x18) 0).count32 (b + 0x28) 1
  let s := logEvent s clsUe 0 (dieCpath d 0x20) ctx (s.reg (b + 0x1C))
  fenceEvent s (fuWay d (w % 2 ^ 21 / 2048 / 48))

/-- More than `CE_LIMIT` corrected words in this check window latch `CE_STORM` (R193, R195). -/
def sthStorm (s : State) (d way : Nat) : State :=
  let b := saddleBlk d
  let lim := s.fld b 8 8
  if lim ≠ 0 && decide (lim < Tbl.get 0 s.blk.ceWindow d) && !bit (s.reg (b + 0x18)) 1 then
    fenceEvent (logEvent (s.latch (b + 0x18) 1) clsCorrected 1 (dieCpath d 0x20) none (s.reg (b + 0x1C))) (fuWay d way)
  else s

/-- A corrected word (R181). -/
def sthCe (s : State) (w patrol : Nat) : State :=
  let d := w / 2 ^ 21
  let b := saddleBlk d
  let s := captureErr s (b + 0x1C) (sthRec w 0 patrol)
  let s := s.count64 (b + 0x20) 1
  sthStorm (s.onBlk fun k => { k with ceWindow := Tbl.upd 0 k.ceWindow d (· + 1) }) d (w % 2 ^ 21 / 2048 / 48)

/-- The check of the words that a read delivers (R181): one symbol in error is corrected and written
back. Answers whether a word was uncorrectable. -/
def sthCheck (s : State) (patrol : Nat) (ctx : Option Nat) (has : Nat → Bool) : State × Bool :=
  let bad := s.blk.ue.filter has
  let s := (s.blk.sym.filter has).foldl (fun s w => (sthCe s w patrol).onBlk fun b => { b with sym := b.sym.erase w }) s
  (bad.foldl (fun s w => sthUe s w patrol ctx) s, !bad.isEmpty)

/-! Checkpoints of a run (R171, R188). -/

/-- Stored inputs and offload records a run may read. -/
def myTag (r : BRun) (cmd : Nat) (ctx : Nat) (tag : Option Nat) : Bool :=
  cmd == r.cmd || (r.kind == 2 && ctx == r.ctx && tag == some (bpTag r.pkt))
def storedOf (s : State) (r : BRun) (i : Nat) : Option Stored :=
  s.blk.stored.find? fun t => myTag r t.cmd t.ctx t.tag && t.layer == i && t.landed && !t.away
    && (t.cmd == r.cmd || !r.lost.contains i)
def offloadOf (s : State) (r : BRun) (i : Nat) : Option Offload :=
  if r.lost.contains i then none
  else s.blk.offloads.find? fun o => myTag r o.cmd o.ctx o.tag && o.layer == i && o.st == 1

def updStored (s : State) (t : Stored) (f : Stored → Stored) : State :=
  s.onBlk fun b => { b with stored := b.stored.map fun u => if u = t then f u else u }
def dropStored (s : State) (f : Stored → Bool) : State :=
  s.onBlk fun b => { b with stored := b.stored.filter (!f ·) }
def updOffload (s : State) (o : Offload) (f : Offload → Offload) : State :=
  s.onBlk fun b => { b with offloads := b.offloads.map fun e => if e = o then f e else e }
def dropOffload (s : State) (o : Offload) : State :=
  s.onBlk fun b => { b with offloads := b.offloads.filter (· != o) }

/-- Every part of the run holds X_i. -/
def allHold (s : State) (r : BRun) (i : Nat) : Bool := r.parts.all fun p => tenReady s (tkey r.cmd p.core i rX)

/-- X_i was found uncorrectable where it was held (R181, R187): the command's own record of it is gone, a
stash keeps its own. -/
def loseX (s : State) (r : BRun) (i : Nat) : State :=
  let s := dropStored s fun t => t.cmd == r.cmd && t.layer == i
  (updRun s r.cmd fun r => { r with lost := i :: r.lost, stashUe := r.stashUe + 1 }).raise r.cmd stDegraded

/-- The part's rows of X_i as they leave its pad. -/
def partBytes (s : State) (r : BRun) (p : Part) (i : Nat) : State × List Byte :=
  match tenOf s (tkey r.cmd p.core i rX) with
  | none => (s, [])
  | some t => takeRows s r.cmd t

/-- The rows of X_i are copied to its blocks on every die (R175, R183, R188). -/
def stashRows (s : State) (r : BRun) (i : Nat) (blocks : List (List Nat)) : State :=
  r.parts.foldl (fun s p =>
    if p.g ≠ 0 || ended s r.cmd then s
    else
      let d := coreDie p.core
      let (s, bs) := partBytes s r p i
      sthMove (sthWrite s d (blocks.getD d []) (partOffset r p i) bs) d bs.length) s

/-- Bytes of X_i from where a part's core reads them: rows, once they passed their check. -/
def fillX (s : State) (r : BRun) (p : Part) (i : Nat) (bs : List Byte) : State :=
  let n := r.xRowBytes i
  (List.range 128).foldl (fun s j => fillRow s r.cmd (tkey r.cmd p.core i rX) j (slice bs (j * n) n)) s

/-- The frame of X_i on a core (R169). -/
def xFrame (r : BRun) (p : Part) (i : Nat) : Frame :=
  plainFrame (tkey r.cmd p.core i rX) (r.xNum i) 128 (r.layer i).kIn true

/-- X_i is bound and claimed on a core, and its rows come in (R130). -/
def bringX (r : BRun) (p : Part) (i src : Nat) (f : State → State) (s : State) : Option (State × Bool) :=
  withFrames r.cmd p.core [xFrame r p i] s fun s => f (claimTen s r.cmd (tkey r.cmd p.core i rX) src)

/-- The part's core reads its rows of a stored input. The first reader checks every word of it, and an
uncorrectable one loses the input (R181; assumption log 45). -/
def readStored (s : State) (r : BRun) (p : Part) (t : Stored) (i : Nat) : Option (State × Bool) :=
  let has := fun (w : Nat) => (List.range 4).any fun d => sthHas d (t.blocks.getD d []) 0 (r.dieBytes i d) w
  let (s', bad) := if t.checked then (s, false) else sthCheck s 0 (some r.ctx) has
  if bad then some (loseX s' r i, false)
  else
    let d := coreDie p.core
    let n := 128 * r.xRowBytes i
    bringX r p i 3 (fun s =>
      let s := fillX s r p i (sthRead s d (t.blocks.getD d []) (partOffset r p i) n)
      if p.g = 0 then sthMove s d n else s) (updStored s' t fun t => { t with checked := true })

/-- Bytes of an offloaded input: none when it is lost or the command has ended. -/
def offloadBytes (s : State) (r : BRun) (o : Offload) (i off n : Nat) : State × Option (List Byte) :=
  if o.host then
    if hostOk s o.fn (o.addr + off) n false then (s.charge r.ctx acHost n, some (hostRead s (o.addr + off) n))
    else (endCmd s r.cmd stWindow, none)
  else
    let (s, c, b) := vaRead s 4 r.ctx (o.addr + off) n
    if c = 0 then (s, some b)
    else if c = 6 then (loseX s r i, none)
    else (endCmd s r.cmd stAborted, none)

/-- The input lies in host memory that the command reaches through its lead (R387). -/
def viaLead (r : BRun) (o : Offload) : Bool := o.host && r.pkt.lead.isSome

/-- One host read through the lead, of at most 1 KiB; its data land at `dst` (R387). -/
def leadRead (s : State) (r : BRun) (o : Offload) (off n : Nat) (dst : Dst) : State :=
  let k := { mkPkt 0x05 0 (leadOf s) [] with addr := o.addr + off, aux := 2 * o.fn + 65536 * n }
  if ended s r.cmd then s else (sendRemote s r.cmd r.ctx (leadOf s) 3 0 n dst k).charge r.ctx acHost n

/-- Drop the blocks reserved for a fetch that has not landed: the rest is read directly (R185). -/
def dropFetch (s : State) (r : BRun) (i : Nat) : State :=
  dropStored s fun t => t.cmd == r.cmd && t.layer == i && t.use == 3 && !t.landed

/-- Offset of a part's rows in an offloaded input. -/
def rowsOffset (r : BRun) (p : Part) (i : Nat) : Nat := dieOffset r i (coreDie p.core) + partOffset r p i

/-- The part's rows are asked of the lead, and land in its pad. -/
def askRows (r : BRun) (p : Part) (o : Offload) (i : Nat) (s : State) : State :=
  let n := r.xRowBytes i
  let h := tenH s (tkey r.cmd p.core i rX)
  (List.range 128).foldl (fun s j => (pieces 0 n).foldl (fun s q =>
    leadRead s r o (rowsOffset r p i + j * n + q.1) q.2 (.pad p.core h j q.1 (rowWord (hnd s p.core h) j q.1))) s) s

/-- The part's core reads its rows of an offloaded input directly (R185); the first reader checks all of
it. -/
def readOffload (s : State) (r : BRun) (p : Part) (o : Offload) (i : Nat) : Option (State × Bool) :=
  if viaLead r o then bringX r p i 3 (askRows r p o i) (dropFetch s r i) else
  let all := if o.checked then (s, some []) else offloadBytes s r o i 0 (r.xBytes i)
  match all.2 with
  | none => some (all.1, false)
  | some _ =>
    let s := updOffload all.1 o fun o => { o with checked := true }
    let n := 128 * r.xRowBytes i
    let (s, b) := offloadBytes s r o i (rowsOffset r p i) n
    match b with
    | none => some (s, false)
    | some bs =>
      bringX r p i 3 (fun s => fillX s r p i bs) (dropFetch s r i)

/-- Obtain X_i for the backward pass, from where it is held (R188); none: a rebuild run is needed, or
the input is not yet where it can be read. -/
def obtainX (s : State) (r : BRun) (p : Part) (i : Nat) : Option (State × Bool) :=
  let key := tkey r.cmd p.core i rX
  if tenReady s key then some (s, true)
  else if (tenOf s key).isSome then none
  else if i = 0 then
    bringX r p 0 3 (fun s => loadTen s r.cmd r.ctx key (bpX r.pkt + p.slice * 128 * r.xRowBytes 0) (r.layer 0).kIn) s
  else match storedOf s r i, offloadOf s r i with
    | some t, _ => readStored s r p t i
    | none, some o => readOffload s r p o i
    | none, none => none

end Sys2Proof.Machine
end

