-- ==== Sys2Proof/Machine/BlockSteps.lean ====
section
/-! DEFINITION. The steps of commands that run on the cores of several clusters: block commands, ATTN and
memory-form MATMUL; parking; and what the die CPs do on their own (R169, R170, R203 to R207, R429). -/
namespace Sys2Proof.Machine

open Sys2Proof

/-! What a step reads and holds (R206). -/

/-- Tensors that a step reads in a sweep: layer and role. -/
def stepReads (r : BRun) : BStep → List (Nat × Nat)
  | .recompute i k sw => [(i, if k = 0 then rXs sw else rRe (k - 1) sw)]
  | .bwd i k sw =>
    let st := r.stage i k
    ((if needsInput st then [if k = 0 then rXs sw else rRe (k - 1) sw] else [])
      ++ [if k + 1 = (r.layer i).stages.length then rGs sw else rGr k sw]
      ++ (if addsResid r i k then [rGs sw] else []) ++ (if st.op = 0x82 then [rRe k sw] else [])).map (i, ·)
  | .storeDx sw => [(0, rGx sw)]
  | _ => []

/-- Words that a step's result and its panel buffers or working frames take. -/
def stepNeeds (r : BRun) : BStep → Nat
  | .recompute i k _ =>
    let st := r.stage i k
    padWords (r.rows i) (r.cols i (k + 1)) (numFmt st.num)
      + stageExtra (r.layer i) (bpKp r.pkt) (numFmt (r.inNum i k)) 1 st
  | .bwd i k _ =>
    (if k = 0 && r.inPlace i then 0 else padWords (r.rows i) (r.cols i k) (numFmt (dxNumOf r i k)))
      + stageExtra (r.layer i) (bpKp r.pkt) (numFmt (r.inNum i k)) 2 (r.stage i k)
  | .loadDy _ =>
    let n := r.layers.length
    padWords (r.rows (n - 1)) (r.layer (n - 1)).outW (numFmt (bpDyNum r.pkt))
  | _ => 0

/-- Roles of a sweep's tensors. -/
def sweepRole (n : Nat) : Bool := decide (16 ≤ n) && decide (n < 54)

/-- Tensors that the core holds in its pad during a sweep. -/
def heldTens (s : State) (cmd core : Nat) : List Ten :=
  s.blk.tens.filter fun t => t.cmd == cmd && t.core == core && t.park.isNone && sweepRole (tRole t.key)

/-- The tensor is parked before the step whatever fits: rows of the other sweep, and dG at the end of a
layer (R206). -/
def mustPark (step : BStep) (t : Ten) : Bool :=
  let n := tRole t.key
  match step with
  | .loadDy sw => n == rGx (1 - sw)
  | .recompute _ _ sw => n == rXs (1 - sw) || n == rGs (1 - sw) || n == rGx (1 - sw)
  | .bwd _ _ sw => n == rXs (1 - sw) || n == rGs (1 - sw) || n == rGx (1 - sw)
  | .parkG _ => n == rGx 0 || n == rGx 1
  | _ => false

/-- The parked tensors that the step reads. -/
def parkNeeds (s : State) (core : Nat) (r : BRun) (step : BStep) : List Ten :=
  (stepReads r step).filterMap fun n => (tenOf s (tkey r.cmd core n.1 n.2)).filter (·.park.isSome)

/-- Pad words that the core would hold with those tensors back and the step's result bound. -/
def parkTotal (s : State) (core : Nat) (r : BRun) (step : BStep) : Nat :=
  sumNat ((heldTens s r.cmd core).map tenWords) + sumNat ((parkNeeds s core r step).map tenWords) + stepNeeds r step

/-- The step's live set fits and lies in the pad. -/
def stepFits (r : BRun) (p : Part) (step : BStep) (s : State) : Bool :=
  !((heldTens s r.cmd p.core).any (mustPark step)) && (parkNeeds s p.core r step).isEmpty
    && decide (parkTotal s p.core r step ≤ 2048)

/-! Parking (R206, R207). -/

/-- Steps until the core next reads the tensor. -/
def nextUse (r : BRun) (pos : Nat) (t : Ten) : Nat :=
  ((r.steps.drop pos).findIdx? fun st => (stepReads r st).contains (tLayer t.key, tRole t.key)).getD r.steps.length

/-- The core's park area (R207). -/
def parkArea (s : State) (x core : Nat) : Nat :=
  let d := coreDie core
  let mine := (pdkCores (ctxRes s x)).filter fun c => coreDie c == d
  (s.ctx x).regions.getD d 0 + 2 ^ 21 + 2 ^ 22 * ((mine.findIdx? (· == core)).getD 0)

/-- The held tensor to park: one that must be, else the one of latest next use among those the step does not
read. -/
def parkPick (s : State) (r : BRun) (p : Part) (pos : Nat) (step : BStep) : Option Ten :=
  let held := heldTens s r.cmd p.core
  let cand := held.filter fun t => !(stepReads r step).contains (tLayer t.key, tRole t.key)
  match held.find? (mustPark step) with
  | some t => some t
  | none =>
    if parkTotal s p.core r step ≤ 2048 then none
    else cand.foldl (fun b t => match b with
      | none => some t
      | some u => if nextUse r pos u < nextUse r pos t then some t else some u) none

/-- Where in the park area a tensor goes: the lowest place that is free, and the second half of a gradient
behind the first. -/
def parkPlace (s : State) (t : Ten) : Nat :=
  let n := 1024 * tenWords t
  let used := (s.blk.tens.filter fun u => u.cmd == t.cmd && u.core == t.core).filterMap fun u =>
    u.park.map fun o => (o, 1024 * tenWords u)
  let first := if tRole t.key = rGx 1 then (tenOf s (t.key - 1)).bind fun u => u.park.map (· + n) else none
  let free := (0 :: used.map fun o => o.1 + o.2).filter fun b => used.all fun o => !meets b n o.1 o.2
  first.getD (free.foldl min (2 ^ 22))

/-- Lines of a row of a tensor. -/
def rowLines (t : Ten) : Nat := ceilDiv (cellsOf t.cols (numFmt t.num)) 64

/-- The lines of a tensor move to the park area, and its handle is unbound; an uncorrectable line aborts the
command (R140). -/
def parkOne (s : State) (r : BRun) (p : Part) (t : Ten) : State :=
  let off := parkPlace s t
  let n := 1024 * rowLines t
  let a := parkArea s r.ctx p.core + off
  let s := (List.range t.rows).foldl (fun s j =>
    if ended s r.cmd then s
    else
      let (s, bad, bs) := padGetRow s p.core 2 t.h j 0 n (some r.ctx)
      if bad then endCmd s r.cmd stAborted
      else
        let (s, c) := vaWrite s (coreDie p.core) r.ctx (a + j * n) bs
        if c ≠ 0 then endCmd s r.cmd stAborted else s) s
  if ended s r.cmd then s else updTen (unbind s p.core t.h) t.key fun t => { t with park := some off }

/-- A handle to which a parked tensor returns is retained where more than one step reads it (R169). -/
def retains (r : BRun) (i n : Nat) : Bool :=
  !(decide (32 ≤ n) && decide (n < 48)) && decide (1 < (r.steps.filter fun st => (stepReads r st).contains (i, n)).length)

/-- A parked tensor is bound again, and its lines come back; a word of the park area that reads uncorrectable
is zeros (R275). -/
def unparkOne (s : State) (r : BRun) (p : Part) (t : Ten) (off : Nat) : Option (State × Bool) :=
  let n := 1024 * rowLines t
  let a := parkArea s r.ctx p.core + off
  let keep := retains r (tLayer t.key) (tRole t.key) || tRole t.key == rGx 0 || tRole t.key == rGx 1
  let s' := s.onBlk fun b => { b with tens := b.tens.filter (·.key != t.key) }
  withFrames r.cmd p.core [plainFrame t.key t.num t.rows t.cols keep] s' fun s =>
    (List.range t.rows).foldl (fun s j =>
      let (s, bs) := readSaved s (coreDie p.core) r.ctx (a + j * n) n
      fillRow s r.cmd t.key j (bs.take (t.cols * fmtBytes (numFmt t.num)))) (claimTen s r.cmd t.key 3)

/-- The next transfer that a step waits for. -/
def parkNext (s : State) (r : BRun) (p : Part) (pos : Nat) (step : BStep) : Option State :=
  match parkPick s r p pos step, parkNeeds s p.core r step with
  | some t, _ => some (parkOne s r p t)
  | none, t :: _ => (unparkOne s r p t (t.park.getD 0)).bind fun u =>
      if u.2 then some u.1 else some { u.1 with blk := s.blk }
  | none, [] => none

/-! Loads and stores. -/

/-- A tensor is bound on the part's core and loaded from memory. -/
def loadInto (r : BRun) (p : Part) (key num rows cols addr pitch : Nat) (s : State) : Option (State × Bool) :=
  withFrames r.cmd p.core [plainFrame key num rows cols true] s fun s =>
    loadTen (claimTen s r.cmd key 3) r.cmd r.ctx key addr pitch

/-- X_0 (R170): the part's rows, and of an ATTN command its column group's columns (R431). -/
def startLoadX (r : BRun) (p : Part) (s : State) : Option (State × Bool) :=
  let w := (r.layer 0).kIn
  let c := r.cols 0 0
  let z := fmtBytes (numFmt (r.xNum 0))
  let addr := if r.kind = 4 then r.pkt.par 0 8 + (128 * p.slice * w + p.g * c) * z
    else bpX r.pkt + 128 * p.slice * w * z
  loadInto r p (tkey r.cmd p.core 0 rX) (r.xNum 0) 128 c addr w s

/-- Rows of sweep sw of the gradient of X_L (R203). -/
def startLoadDy (r : BRun) (p : Part) (sw : Nat) (s : State) : Option (State × Bool) :=
  let n := r.layers.length
  let w := (r.layer (n - 1)).outW
  let rows := r.rows (n - 1)
  loadInto r p (tkey r.cmd p.core n (rGx sw)) (bpDyNum r.pkt) rows w
    (bpDy r.pkt + (128 * p.slice + sw * rows) * w * fmtBytes (numFmt (bpDyNum r.pkt))) w s

/-- X_L goes to `Y_ADDR`: from column group 0, or the columns of each group of an ATTN command. -/
def storeY (r : BRun) (p : Part) (s : State) : State :=
  let n := r.layers.length
  let key := tkey r.cmd p.core n rX
  let w := (r.layer (n - 1)).outW
  let z := fmtBytes (numFmt (tenNum s key))
  let s := if r.kind = 4 then
      storeTen s r.cmd r.ctx key (r.pkt.par 8 8 + (128 * p.slice * w + p.g * (w / r.g)) * z) w
    else if p.g = 0 then storeTen s r.cmd r.ctx key (bpY r.pkt + 128 * p.slice * w * z) w
    else s
  freeTen s key

/-- Rows of sweep sw of the gradient of X_0 go to `DX_ADDR` (R203). -/
def storeDx (r : BRun) (p : Part) (sw : Nat) (s : State) : State :=
  let key := tkey r.cmd p.core 0 (rGx sw)
  let w := (r.layer 0).kIn
  let s := if p.g = 0 then
      storeTen s r.cmd r.ctx key
        (bpDx r.pkt + (128 * p.slice + sw * r.rows 0) * w * fmtBytes (numFmt (bpDxNum r.pkt))) w
    else s
  freeTen s key

/-- The part's rows of X_k are copied to the blocks that a rebuild run reserved (R188). -/
def keepRows (r : BRun) (p : Part) (k : Nat) (s : State) : State :=
  match s.blk.stored.find? fun t => t.cmd == r.cmd && t.layer == k && t.use == 2 && !t.landed with
  | none => s
  | some t => if p.g = 0 then stashRows s { r with parts := r.parts.filter (·.slice == p.slice) } k t.blocks else s

/-! Memory-form MATMUL (R429). -/

/-- Addresses of rows [n, n + k) of X (`off` 0) or Y (`off` 8): those of the command, or of the commands of a
batch in order of arrival (R101). -/
def mmAddrs (s : State) (r : BRun) (off pitch n k : Nat) : List Nat :=
  if r.batch.isEmpty then (List.range k).map fun j => r.pkt.par off 8 + (n + j) * pitch
  else slice (r.batch.flatMap fun b => match s.cmd? b.1 with
    | none => List.replicate b.2 0
    | some c => (List.range b.2).map fun j => c.pkt.par off 8 + j * pitch) n k

/-- A fault of one row of a batch ends every command of it (R102). -/
def failRun (s : State) (r : BRun) : State :=
  (if r.batch.isEmpty then [r.cmd] else r.batch.map (·.1)).foldl (fun s i => endCmd s i stAborted) s

def mmXKey (r : BRun) (p : Part) : Nat := tkey r.cmd p.core 0 rX
def mmYKey (r : BRun) (p : Part) : Nat := tkey r.cmd p.core 0 (rOut 0)

/-- A piece of a round's rows is loaded. -/
def mmLoad (r : BRun) (p : Part) (n q : Nat) (s : State) : Option (State × Bool) :=
  let rows := mmRows r p n q
  let num := r.pkt.par 40 4
  let bytes := r.pkt.par 32 4 * fmtBytes (numFmt num)
  if rows = 0 then some (s, true)
  else withFrames r.cmd p.core [plainFrame (mmXKey r p) num rows (r.pkt.par 32 4) true] s fun s =>
    ((mmAddrs s r 0 bytes (mmFirst r p n q) rows).zipIdx).foldl (fun s a =>
      if ended s r.cmd then s
      else
        let (s, c, bs) := vaRead s (coreDie p.core) r.ctx a.1 bytes
        if c ≠ 0 then failRun s r else fillRow s r.cmd (mmXKey r p) a.2 bs) (claimTen s r.cmd (mmXKey r p) 3)

/-- Owners of the rows from row `n` on. -/
def dropRows : List (Nat × Nat) → Nat → List (Nat × Nat)
  | [], _ => []
  | (c, k) :: t, n => if k ≤ n then dropRows t (n - k) else (c, k - n) :: t

/-- The weights of columns [c × width, + width). -/
def mmSlice (r : BRun) (c : Nat) : Slice where
  addr := r.wbuf + 2 * (c * (mmGeom r.pkt (mmTotal r)).2)
  pitch := r.pkt.par 36 4
  kLoc := r.pkt.par 32 4
  nLoc := min (mmGeom r.pkt (mmTotal r)).2 (r.pkt.par 36 4 - c * (mmGeom r.pkt (mmTotal r)).2)
  kp := 512
  num := r.pkt.par 44 4

/-- The product of a piece with those columns. -/
def mmRun (r : BRun) (p : Part) (pos n q c : Nat) (s : State) : Option (State × Bool) :=
  let rows := mmRows r p n q
  let w := mmSlice r c
  let yNum := r.pkt.par 48 4
  if rows = 0 then some (s, true)
  else withFrames r.cmd p.core [plainFrame (mmYKey r p) yNum rows w.nLoc true, panelFrame r.cmd p.core 0 w.num w.kp] s fun s =>
    let ring := clusterRing r pos p
    let feed := feedKey r 0 pos
    let s := joinFeed r p 0 feed w ring (fwdOrder ring.length (ring.idxOf p.core) w.panels w.chunks) s
    let s := readTen (claimTen s r.cmd (mmYKey r p) 0) r.cmd (mmXKey r p)
    let h := tenH s (mmYKey r p)
    fwdOp r p w ring feed 0 rows (tenH s (mmXKey r p)) h (numFmt (r.pkt.par 40 4))
      { sink := fun n b => .out h (64 * b) (64 * n), num := yNum, ali := false, room := 0,
        ins := (r.pkt.par 40 4, w.num), owners := dropRows r.batch (mmFirst r p n q) } s

/-- Those columns are stored. -/
def mmStore (r : BRun) (p : Part) (n q c : Nat) (s : State) : State :=
  let rows := mmRows r p n q
  let z := fmtBytes (numFmt (r.pkt.par 48 4))
  let width := (mmGeom r.pkt (mmTotal r)).2
  let s := match tenOf s (mmYKey r p) with
    | none => s
    | some t => ((mmAddrs s r 8 (r.pkt.par 36 4 * z) (mmFirst r p n q) rows).zipIdx).foldl (fun s a =>
        if ended s r.cmd then s
        else
          let (s, bs) := takeRow s r.cmd t a.2
          if ended s r.cmd then s
          else
            let (s, e) := vaWrite s (coreDie p.core) r.ctx (a.1 + c * width * z) bs
            if e ≠ 0 then failRun s r else s) s
  let s := freeTen s (mmYKey r p)
  if r.pkt.par 36 4 ≤ (c + 1) * width then freeTen s (mmXKey r p) else s

/-! Forward stages (R169, R170). -/

/-- Layer i's input may leave the pads: it has been copied, or needs no copy (R175, R183). -/
def mayDropX (r : BRun) (i : Nat) : Bool := r.again || r.polOf i == 1 || r.copied.contains i

/-- No core reads the tensor. -/
def unread (s : State) (key : Nat) : Bool := (tenOf s key).all fun t => t.park.isSome || (t.handle s).readers == 0

def BRun.place (r : BRun) (i k : Nat) : Place := (r.layer i).placeOf r.g (r.xNum i) k

/-- The stage writes over X_i. -/
def writesX (r : BRun) (i k : Nat) : Bool :=
  (r.place i (k + 1)).slot == 0 || ((r.stage i k).op == 0x82 && (r.place i k).slot == 0)

/-- No stage after k reads the frame of X_i, and its result lies elsewhere. -/
def xSpent (r : BRun) (i k : Nat) : Bool :=
  (r.place i (k + 1)).slot != 0 && ((List.range (r.layer i).stages.length).filter (k < ·)).all fun j =>
    let st := r.stage i j
    (r.place i j).slot != 0 && !(st.mat && st.row && st.resid)

def lastStage (r : BRun) (i k : Nat) : Bool := k + 1 == (r.layer i).stages.length

/-- The attention of a step on a part. -/
def attnOf (r : BRun) (p : Part) : BStep → Option Attn
  | .fwd i k => if (r.stage i k).op ≠ 0x82 then none else
      some { r := r, p := p, i := i, k := k, bwd := false, inp := fwdIn r i k, out := fwdOut r i k, o := 0, dout := 0 }
  | .recompute i k sw => if (r.stage i k).op ≠ 0x82 then none else
      some { r := r, p := p, i := i, k := k, bwd := false, inp := reIn r i k sw, out := reOut r i k sw, o := 0, dout := 0 }
  | .bwd i k sw => if (r.stage i k).op ≠ 0x82 then none else
      some { r := r, p := p, i := i, k := k, bwd := true, inp := reIn r i k sw, out := dxKey r i k sw,
             o := reOut r i k sw p.core, dout := dyKey r i k sw p.core }
  | _ => none

def fwdStage (r : BRun) (i k pos : Nat) : StageRun where
  i := i
  k := k
  cls := if r.again then 1 else 0
  rows := 128
  inKey := fwdIn r i k
  outKey := fwdOut r i k
  add := let st := r.stage i k
    if st.mat && st.row && st.resid then some fun c => tkey r.cmd c i rX else none
  pos := pos

/-- A stage begins once its input is READY on the core, the reservation for X_i is decided (R175), and what
it writes over may be written. -/
def startFwd (r : BRun) (p : Part) (pos i k : Nat) (s : State) : Option (State × Bool) :=
  let out := fwdOut r i k p.core
  if (k == 0 && !r.again && r.polOf i != 1 && !r.decided.contains i) || (writesX r i k && !mayDropX r i)
      || !tenReady s (fwdIn r i k p.core) then none
  else match attnOf r p (.fwd i k) with
    | some a => a.begin (lastStage r i k) true 128 s
    | none =>
      if (tenOf s out).isSome && !mayClaimTen s r.cmd out then none
      else if (r.stage i k).mat then startMat r p (fwdStage r i k pos) (lastStage r i k) s
      else startVec r p (fwdStage r i k pos) (lastStage r i k) s

/-- A tensor is now written with another numeric word. -/
def renumTen (s : State) (key num : Nat) (retain : Bool) : State :=
  match tenOf s key with
  | none => s
  | some t => updTen (updHnd s t.core t.h fun e => { e with fmt := numFmt num, retain := retain || e.retain }) key
      fun t => { t with num := num }

/-- The inputs of a stage are released, and X_i once nothing more reads it (R169). -/
def endFwdStage (r : BRun) (p : Part) (i k : Nat) (s : State) : State :=
  let st := r.stage i k
  let inp := fwdIn r i k p.core
  let out := fwdOut r i k p.core
  let x := tkey r.cmd p.core i rX
  let s := if inp == out || st.op == 0x82 then s else doneReading s r.cmd inp
  let s := if st.mat then leaveFeed r.cmd p.core i s else s
  let s := renumTen s out st.num (lastStage r i k)
  if xSpent r i k && mayDropX r i && unread s x then freeTen s x else s

/-- The last result becomes X_(i+1). -/
def endLayer (r : BRun) (p : Part) (i : Nat) (s : State) : State :=
  let n := (r.layer i).stages.length
  let out := fwdOut r i (n - 1) p.core
  let x := tkey r.cmd p.core i rX
  let next := tkey r.cmd p.core (i + 1) rX
  let s := renameTen (if out == x then s else freeTen s x) out next (r.layer i).lastNum
  if i + 1 == r.layers.length && !r.steps.contains .storeY then freeTen s next else s

/-! Backward stages (R203 to R205). -/

def reStage (r : BRun) (i k sw pos : Nat) : StageRun where
  i := i
  k := k
  cls := 1
  rows := r.rows i
  inKey := reIn r i k sw
  outKey := reOut r i k sw
  add := none
  pos := pos

def startRe (r : BRun) (p : Part) (pos i k sw : Nat) (s : State) : Option (State × Bool) :=
  let keep := retains r i (rRe k sw)
  if !stepFits r p (.recompute i k sw) s || !tenReady s (reIn r i k sw p.core) then none
  else match attnOf r p (.recompute i k sw) with
    | some a => a.begin keep false (r.rows i) s
    | none => if (r.stage i k).mat then startMat r p (reStage r i k sw pos) keep s
        else startVec r p (reStage r i k sw pos) keep s

def startBwd (r : BRun) (p : Part) (pos i k sw : Nat) (s : State) : Option (State × Bool) :=
  let out := dxKey r i k sw p.core
  if !stepFits r p (.bwd i k sw) s || !((stepReads r (.bwd i k sw)).all fun n => tenReady s (tkey r.cmd p.core n.1 n.2))
      || ((tenOf s out).isSome && !mayClaimTen s r.cmd out) then none
  else match attnOf r p (.bwd i k sw) with
    | some a => a.begin (k == 0) false (r.rows i) s
    | none => if (r.stage i k).mat then bwdMat r p i k sw pos s else bwdVec r p i k sw s

/-- Tensors of layer i that no later step of the core reads are released (R206). -/
def releaseDead (r : BRun) (p : Part) (pos i : Nat) (s : State) : State :=
  (s.blk.tens.filter fun t => t.cmd == r.cmd && t.core == p.core && tLayer t.key == i && sweepRole (tRole t.key)
      && tRole t.key != rGx 0 && tRole t.key != rGx 1 && nextUse r (pos + 1) t == r.steps.length && unread s t.key).foldl
    (fun s t => freeTen s t.key) s

/-- A step of a sweep ends: what it read is released. -/
def endSweepStep (r : BRun) (p : Part) (pos : Nat) (step : BStep) (s : State) : State :=
  match step with
  | .recompute i k sw =>
    let st := r.stage i k
    let s := if st.op = 0x82 then s else doneReading s r.cmd (reIn r i k sw p.core)
    releaseDead r p pos i (if st.mat then leaveFeed r.cmd p.core i s else s)
  | .bwd i k sw =>
    let st := r.stage i k
    let out := dxKey r i k sw p.core
    let dg := tkey r.cmd p.core i (rGs sw)
    let reads := (if needsInput st then [reIn r i k sw p.core] else []) ++ [dyKey r i k sw p.core]
      ++ (if addsResid r i k && !st.mat && dg != out then [dg] else [])
    let s := if st.op = 0x82 then s else reads.foldl (fun s key => doneReading s r.cmd key) s
    let s := if st.mat then leaveFeed r.cmd p.core i s else s
    let s := if k = 0 && r.inPlace i then
        renameTen (renumTen s out (r.gradNumX i) true) out (tkey r.cmd p.core i (rGx sw)) (r.gradNumX i)
      else s
    releaseDead r p pos i s
  | _ => s

/-- A tensor is cut into two of half its rows. -/
def splitTen (s : State) (key k0 k1 : Nat) : State :=
  match tenOf s key with
  | none => s
  | some t =>
    let half := { t with rows := t.rows / 2 }
    let put := fun (s : State) (a b : Ten) => s.onBlk fun k => { k with tens := k.tens.filter (·.key != key) ++ [a, b] }
    match t.park, freeHandle s t.core with
    | some o, _ => put s { half with key := k0 } { half with key := k1, park := some (o + 1024 * tenWords half) }
    | none, some h =>
      let e := { t.handle s with rows := t.rows / 2 }
      let s := updHnd s t.core t.h fun _ => e
      put (updHnd s t.core h fun _ => { e with base := e.base + t.rows / 2 * e.width })
        { half with key := k0 } { half with key := k1, h := h }
    | none, none => s

/-- The rows of X_i and of dG are those of the layer's sweeps (R204). -/
def startSweep (r : BRun) (p : Part) (i : Nat) (s : State) : Option (State × Bool) :=
  let key := fun (l n : Nat) => tkey r.cmd p.core l n
  let x := key i rX
  let g := key (i + 1) rDx
  if r.rows i = 128 then
    some (renameTen (renameTen s x (key i (rXs 0)) (r.xNum i)) g (key i (rGs 0)) (r.gradNumX (i + 1)), true)
  else if (freeHandle s p.core).isNone then none
  else some (splitTen (splitTen s x (key i (rXs 0)) (key i (rXs 1))) g (key i (rGs 0)) (key i (rGs 1)), true)

/-- The parked halves of the gradient of X_i are one tensor again. -/
def joinDx (r : BRun) (p : Part) (i : Nat) (s : State) : State :=
  let key := tkey r.cmd p.core i (rGx 0)
  updTen (s.onBlk fun b => { b with tens := b.tens.filter (·.key != key + 1) }) key fun t =>
    { t with key := tkey r.cmd p.core i rDx, rows := 128 }

/-- What becomes of layer i's stored input once its backward pass has read it (R178, R202). -/
def releaseX (s : State) (r : BRun) (i : Nat) : State :=
  let s := dropStored s fun t => t.cmd == r.cmd && t.layer == i && t.tag.isNone
  s.onBlk fun b => { b with offloads := b.offloads.filter fun o => !(o.cmd == r.cmd && o.layer == i && o.tag.isNone) }

/-- Every other part of the run has passed the step. -/
def othersPast (r : BRun) (j : Nat) : Bool :=
  r.pos.zipIdx.all fun q => q.2 == j || decide (r.pos.getD j 0 < q.1)

/-! Steps (R170, R203). -/

/-- Try to start a part's step; the answer says whether it has begun. -/
def startStep (r : BRun) (p : Part) (pos : Nat) (step : BStep) (s : State) : Option (State × Bool) :=
  match step with
  | .loadX => startLoadX r p s
  | .fwd i k => startFwd r p pos i k s
  | .endFwd i => if mayDropX r i && unread s (tkey r.cmd p.core i rX) then some (s, true) else none
  | .storeY => some (storeY r p s, true)
  | .loadDy sw => if stepFits r p step s then startLoadDy r p sw s else none
  | .needX i => obtainX s r p i
  | .loadCk j => obtainX s r p j
  | .keep k => some (keepRows r p k s, true)
  | .sweep i sw => if sw = 0 then startSweep r p i s else some (s, true)
  | .recompute i k sw => startRe r p pos i k sw s
  | .bwd i k sw => startBwd r p pos i k sw s
  | .endBwd i =>
    if s.blk.tens.all fun t => t.cmd != r.cmd || t.core != p.core || tLayer t.key != i || unread s t.key then some (s, true)
    else none
  | .parkG _ => if stepFits r p step s then some (s, true) else none
  | .storeDx sw => if stepFits r p step s then some (storeDx r p sw s, true) else none
  | .mmLoad n q => mmLoad r p n q s
  | .mm n q c => mmRun r p pos n q c s
  | .mmStore n q c => some (mmStore r p n q c s, true)

/-- The result of a stage is whole, and the core has no work of the command left. -/
def stageDone (r : BRun) (p : Part) (out : Nat) (s : State) : Bool :=
  coreIdle s r.cmd p.core && feedIdle s r.cmd p.core && tenReady s out

/-- A part's step goes on: the state after it has ended, or the number of attention operations it has
started; none while it runs. -/
def endStep (r : BRun) (p : Part) (j : Nat) (step : BStep) (s : State) : Option (State × Option Nat) :=
  let pos := r.pos.getD j 0
  let when := fun (ok : Bool) (f : State → State) => if ok then some (f s, none) else none
  let attn := fun (rows : Nat) (f : State → State) => (attnOf r p step).bind fun a =>
    (a.next (r.sub.getD j 0) rows s).map fun u => if u.2.isSome then u else (f u.1, none)
  match step with
  | .loadX => when (tenReady s (tkey r.cmd p.core 0 rX)) id
  | .fwd i k =>
    if (r.stage i k).op = 0x82 then attn 128 (endFwdStage r p i k)
    else when (stageDone r p (fwdOut r i k p.core) s) (endFwdStage r p i k)
  | .endFwd i => some (endLayer r p i s, none)
  | .loadDy sw => when (tenReady s (tkey r.cmd p.core r.layers.length (rGx sw))) id
  | .needX i => when (tenReady s (tkey r.cmd p.core i rX)) id
  | .loadCk i => when (tenReady s (tkey r.cmd p.core i rX)) id
  | .keep k => some (if othersPast r j then (s.blk.stored.filter fun t => t.cmd == r.cmd && t.layer == k && t.use == 2).foldl
      (fun s t => updStored s t fun t => { t with landed := true }) s else s, none)
  | .recompute i k sw =>
    if (r.stage i k).op = 0x82 then attn (r.rows i) (endSweepStep r p pos step)
    else when (stageDone r p (reOut r i k sw p.core) s) (endSweepStep r p pos step)
  | .bwd i k sw =>
    if (r.stage i k).op = 0x82 then attn (r.rows i) (endSweepStep r p pos step)
    else when (stageDone r p (dxKey r i k sw p.core) s) (endSweepStep r p pos step)
  | .endBwd i => some (let s := releaseDead r p pos i s; if othersPast r j then releaseX s r i else s, none)
  | .parkG i => some (joinDx r p i s, none)
  | .mmLoad n q => when (mmRows r p n q == 0 || tenReady s (mmXKey r p)) id
  | .mm n q _ => when (mmRows r p n q == 0 || stageDone r p (mmYKey r p) s) fun s =>
      if mmRows r p n q == 0 then s else leaveFeed r.cmd p.core 0 (doneReading s r.cmd (mmXKey r p))
  | _ => some (s, none)

def setPos (r : BRun) (j pos begun : Nat) : BRun :=
  { r with pos := r.pos.set j pos, begun := r.begun.set j begun, sub := r.sub.set j 0 }

/-- One advance of part j of run `id`. -/
def advancePart (id j : Nat) (s : State) : Option State :=
  match runOf s id with
  | none => none
  | some r =>
    if ended s id then none
    else match r.steps[r.pos.getD j 0]?, r.parts[j]? with
      | some step, some p =>
        let pos := r.pos.getD j 0
        if r.begun.getD j 0 = 0 then
          (startStep r p pos step s).map fun u => if u.2 then updRun u.1 id fun r => setPos r j pos 1 else u.1
        else
          (endStep r p j step s).map fun u => match u.2 with
            | some n => updRun u.1 id fun r => { r with sub := r.sub.set j n }
            | none => updRun u.1 id fun r => setPos r j (pos + 1) 0
      | _, _ => none

/-- The operations of the step that a mate of the part has started; of a step it has passed, all. -/
def mateSub (r : BRun) (pos core : Nat) : Nat :=
  ((r.parts.zipIdx).find? (·.1.core == core)).elim 0 fun m =>
    let q := r.pos.getD m.2 0
    if pos < q then 2 ^ 20 else if q < pos then 0 else r.sub.getD m.2 0

/-- A drain may write: one of attention waits until the head it writes over has been read (R433). -/
def drainMayRun (s : State) (d : PendDrain) : Bool :=
  match d.drain.sink with
  | .head _ _ _ h =>
    (runOf s d.cmd).all fun r => ((r.parts.zipIdx).find? (·.1.core == d.core)).all fun m =>
      let pos := r.pos.getD m.2 0
      ((r.steps[pos]?).bind (attnOf r m.1)).all fun a => a.headRead (mateSub r pos) h s
  | _ => true

/-! Completion (R180, R191, R202, R219). -/

/-- The completion word of a block command (R191). -/
def blockCsw (r : BRun) : Nat :=
  r.demoted % 32 + r.spilled % 32 * 2 ^ 5 + r.rebuilds % 32 * 2 ^ 10 + r.stashUe % 32 * 2 ^ 15

def findStash (s : State) (x tag : Nat) : Option Stash := s.blk.stashes.find? fun t => t.ctx == x && t.tag == tag

/-- Release a stash: its blocks, offload records and version references (R222). -/
def releaseStash (s : State) (t : Stash) : State :=
  let s := t.refs.foldl releaseRef s
  s.onBlk fun b => { b with
    stashes := b.stashes.filter (· != t)
    stored := b.stored.filter fun e => !(e.ctx == t.ctx && e.tag == some t.tag)
    offloads := b.offloads.filter fun e => !(e.ctx == t.ctx && e.tag == some t.tag) }

/-- The inputs of a finished BLOCK_FWD stay held under its tag (R180). -/
def leaveStash (r : BRun) (s : State) : State :=
  let tag := bpTag r.pkt
  let refs := (s.cmd? r.cmd).elim [] (·.refs)
  (s.updCmd r.cmd fun c => { c with refs := [] }).onBlk fun b => { b with
    stashes := b.stashes ++ [{ ctx := r.ctx, tag := tag, params := r.pkt.params,
                               versions := r.layers.map (·.version), refs := refs }]
    stored := b.stored.map fun t => if t.cmd == r.cmd then { t with tag := some tag } else t
    offloads := b.offloads.map fun o => if o.cmd == r.cmd then { o with tag := some tag } else o }

/-- A run whose parts have passed every step ends: its completion word, its stash (R180, R202, R219). -/
def finishRun (r : BRun) (s : State) : State :=
  let s := (unbindOwn s r.cmd).onBlk fun b => { b with
    runs := b.runs.filter (·.cmd != r.cmd)
    seqs := b.seqs.filter (·.cmd != r.cmd)
    sums := b.sums.filter (·.cmd != r.cmd) }
  if 3 ≤ r.kind then s
  else
    let s := s.updCmd r.cmd fun c => { c with csw := blockCsw r }
    let s := if r.demoted ≠ 0 then s.raise r.cmd stDemoted else s
    if r.kind = 0 && bpStash r.pkt then leaveStash r s
    else
      let s := dropStored s fun t => t.cmd == r.cmd
      let s := s.onBlk fun b => { b with offloads := b.offloads.filter (·.cmd != r.cmd) }
      if r.kind = 2 && (s.cmd? r.cmd).any (fun c => decide (c.status ≤ 4)) then
        (findStash s r.ctx (bpTag r.pkt)).elim s (releaseStash s)
      else s

def runDone (s : State) (r : BRun) : Bool :=
  r.pos.all (r.steps.length ≤ ·) && !(s.blk.sums.any (·.cmd == r.cmd)) && !ended s r.cmd
    && !(s.core.products.any (·.cmd == r.cmd)) && !(s.core.drains.any (·.cmd == r.cmd))
    && !(s.blk.offloads.any fun o => o.cmd == r.cmd && o.st != 1)

/-- Deliver the first complete sum. -/
def deliverOne (s : State) : Option State :=
  (s.blk.sums.find? (·.left == 0)).map fun b =>
    deliverSum (s.onBlk fun k => { k with sums := k.sums.filter (·.key != b.key) })
      (((runOf s b.cmd).map (·.ctx)).getD 0) b

/-! What goes on without a command. -/

/-- The last write of a drain has been acknowledged: the input is held in the far tier, and its staging blocks
are free (R183). -/
def drainAcked (s : State) : Option State :=
  (s.blk.offloads.find? fun o => o.st == 2
      && !(s.mov.remote.any fun m => m.cmd == o.cmd && m.job == drainJob o.layer)).map fun o =>
    let s := dropStored (updOffload s o fun o => { o with st := 1 }) fun t =>
      t.cmd == o.cmd && t.layer == o.layer && t.use == 1
    updRun s o.cmd fun r => { r with copied := o.layer :: r.copied }

/-- The first thing that runs can do: deliver a sum, feed or pass a chunk, take a step, or end. -/
def blockOnce (s : State) : Option State :=
  (deliverOne s).orElse fun _ => (drainAcked s).orElse fun _ => (feedOne s).orElse fun _ => (passOne s).orElse fun _ =>
    (s.blk.runs.findSome? fun r => (List.range r.parts.length).findSome? fun j => advancePart r.cmd j s).orElse fun _ =>
      (s.blk.runs.find? (runDone s)).map (finishRun · s)

/-- Every run takes the steps it can. -/
def kickBlocks : Nat → State → State
  | 0, s => s
  | n + 1, s => match blockOnce s with
    | some s => kickBlocks n s
    | none => s

def blockFuel : Nat := 100000

/-- Movers and runs take the steps they can, and core operations enter their queues. -/
def kickAll (s : State) : State := enterAllOps (kickMovers (kickBlocks blockFuel s))

end Sys2Proof.Machine
end

