-- ==== Sys2Proof/Machine/Cores.lean ====
section
/-! DEFINITION. MATMUL (R428, R429, R99 to R102) and the steps of the cores' engines: products,
passes, drains and faults (R82 to R104). -/
namespace Sys2Proof.Machine

open Sys2Proof

/-! MATMUL. -/

def wordOk (n : Nat) : Bool := numOk n
def mmOutFmt (n : Nat) : Bool := decide (numFmt n ≤ 4)

/-- Status of the parameters that both forms share (R428). -/
def mmShape (p : Packet) : Bool :=
  let k := p.par 32 4
  let n := p.par 36 4
  decide (p.par 27 1 < 2) && allZero (slice p.params 60 4) && allZero (p.params.drop 72)
    && k != 0 && k % 64 == 0 && n != 0 && n % 64 == 0
    && numOk (p.par 40 4) && numOk (p.par 44 4) && numOk (p.par 48 4)
    && pairOk (numFmt (p.par 40 4)) (numFmt (p.par 44 4)) && mmOutFmt (p.par 48 4)

/-- Every core of a run may take work, or its status is FENCED (R436). -/
def coresFenced (s : State) (ps : List Part) : Nat :=
  if ps.any fun p => fenced s p.core then stFenced else stOk

/-- Parts of a memory-form product: the slices of its fullest round. -/
def mmParts (p : Packet) : List Part :=
  let mask := p.par 52 4
  partsOf mask 1 (min (8 * popcount mask 32) (ceilDiv (p.par 28 4) 128))

def mmMemStatus (s : State) (x : Nat) (p : Packet) : Nat :=
  let seg := p.par 26 1
  if !mmShape p || p.par 28 4 = 0 || 65536 < p.par 28 4 || 1 < seg || !clustersOk s x (p.par 52 4)
      || (if seg = 1 then p.par 64 4 = 0 || p.par 68 4 = 0 else p.par 64 4 ≠ 0 || p.par 68 4 ≠ 0)
  then stBadParam else coresFenced s (mmParts p)

/-- A version reference that an issue needs (R217, R218): 0 it may issue and acquires, 1 it waits, or
the status with which it is refused. -/
def acquireAt (s : State) (x va ver : Nat) : State × Nat × Nat :=
  match reachVRec s x va with
  | (s, .inr st) => (s, st, 0)
  | (s, .inl pa) =>
    let c := acquireCase s pa ver
    (s, if c ≤ 1 then 0 else if c = 2 then 1 else stBadParam, pa)

/-- The run of a memory-form product. -/
def mmRunOf (s : State) (id x : Nat) (p : Packet) (pa : Nat) : BRun :=
  let parts := mmParts p
  let rounds := ceilDiv (p.par 28 4) (1024 * popcount (p.par 52 4) 32)
  { cmd := id
    ctx := x
    kind := 3
    pkt := p
    layers := []
    parts := parts
    steps := mmSteps p (p.par 28 4) rounds
    pos := parts.map fun _ => 0
    begun := parts.map fun _ => 0
    sub := parts.map fun _ => 0
    pol := []
    sweep := []
    decided := []
    copied := []
    demoted := 0
    rebuilds := 0
    stashUe := 0
    spilled := 0
    offUsed := 0
    spillUsed := 0
    batch := []
    wbuf := bufOf s pa (p.par 24 2) + (if p.par 26 1 = 1 then w1Offset (p.par 64 4) (p.par 68 4) else 0)
    lost := []
    outRegions := [] }

/-- A held command joins the batch of its key, or opens one; a batch that would pass 64 rows, or has
reached 64, is dispatched (R99, R100). -/
def joinBatch (id x : Nat) (p : Packet) (s : State) : State :=
  let rows := p.par 28 4
  let key := batchKey p
  let s := s.updCmd id fun c => { c with batched := true }
  let s := match s.cp.batches.find? fun b => b.ctx == x && b.key == key with
    | some b => if 64 < b.rows + rows then startBatch b s else s
    | none => s
  match s.cp.batches.find? fun b => b.ctx == x && b.key == key with
  | some b =>
    let b' := { b with cmds := b.cmds ++ [id], rows := b.rows + rows, budget := max b.budget p.budget }
    let s := s.onCp fun c => { c with batches := c.batches.map fun e => if e = b then b' else e }
    if b'.rows = 64 then startBatch b' s else s
  | none => s.onCp fun c => { c with
      batches := c.batches ++ [{ ctx := x, key := key, cmds := [id], rows := rows, openUs := s.nowUs,
                                 budget := p.budget }] }

/-- A command is held for batching. A packet that arrived behind it and does not belong to its batch dispatches
the batch at once (R100 item 4). -/
def holdForBatch (id q : Nat) (p : Packet) (s : State) : State :=
  let s := joinBatch id (q % 64) p s
  ((Tbl.get [] s.cp.waiting q).head?).elim s fun k => arriveBatches (q % 64) k s

/-- A memory-form product begins, with a reference on the version at record `pa`. -/
def mmMemStart (q : Nat) (p : Packet) (pa : Nat) (s : State) : State :=
  let x := q % 64
  let ver := p.par 24 2
  let (s, id) := issue (acquireRef s pa ver) q p (diesOf (p.par 52 4))
  let s := s.updCmd id fun c => { c with clusters := p.par 52 4, refs := [(pa, ver)] }
  if batchable p then kickAll (holdForBatch id q p s)
  else
    let s := readExps s id x (mmSlots p)
    kickAll (s.onBlk fun b => { b with runs := b.runs ++ [mmRunOf s id x p pa] })

def mmMemIssue (q : Nat) (p : Packet) (s : State) : State :=
  let x := q % 64
  let st := mmMemStatus s x p
  if st ≠ 0 then refuseAtIssue s q p st
  else if !diesIssue s (diesOf (p.par 52 4)) then s
  else
    let (s, c, pa) := acquireAt s x (p.par 16 8) (p.par 24 2)
    if c = 1 then s
    else if c ≠ 0 then refuseAtIssue s q p c
    else
      mmMemStart q p pa s

/-- The handle holds a `rows` × `cols` matrix of the numeric word's format. -/
def holdsShape (e : Handle) (rows cols num : Nat) : Bool :=
  e.rows == rows && 16 * e.cols == cols * fmtBytes e.fmt && e.fmt == numFmt num

/-- Status of a handle that a command of one core names. -/
def nameStatus (s : State) (x c h : Nat) : Nat :=
  if 64 ≤ h then stBadParam else if !ownedBy (hnd s c h) x (s.gen x) then stStale else stOk

def mmHandleStatus (s : State) (x : Nat) (p : Packet) : Nat :=
  let c := p.par 56 1
  let xh := p.par 57 1
  let wh := p.par 58 1
  let yh := p.par 59 1
  let rows := p.par 28 4
  let e := fun h => hnd s c h
  if !mmShape p || rows = 0 || 128 < rows || p.par 64 4 ≠ 0 || p.par 68 4 ≠ 0 || !ctxOwnsCore s x c then stBadParam
  else
    let named := max (nameStatus s x c xh) (max (nameStatus s x c wh) (nameStatus s x c yh))
    if named ≠ 0 then named
    else
      max (coresFenced s [⟨c, 0, 0, 0⟩])
      (max (if !holdsShape (e xh) rows (p.par 32 4) (p.par 40 4)
          || !holdsShape (e wh) (p.par 32 4) (p.par 36 4) (p.par 44 4)
          || !holdsShape (e yh) rows (p.par 36 4) (p.par 48 4) then stBadParam else stOk)
      (max (if overlaps (e xh) (e yh) || overlaps (e wh) (e yh) then stOverlap else stOk)
        (max (dirtyStatus s c xh) (dirtyStatus s c wh))))

/-- The passes of panel n of a handle-form product, and its drains. -/
def mmHandlePanel (p : Packet) (n : Nat) : List Pass :=
  let rows := p.par 28 4
  let blocks := ceilDiv rows 64
  let ps := (List.range (p.par 32 4 / 64)).map fun t =>
    fwdPass blocks (n % 2) 0 64 ⟨.pad (p.par 58 1), t, n, false⟩ (.pad (p.par 57 1)) t (t == 0) []
  withDrains ps ((List.range blocks).map fun b => {
    arr := b % 2
    bank := n % 2
    row0 := 0
    rows := min 64 (rows - 64 * b)
    cols := 64
    sink := .out (p.par 59 1) (64 * b) (64 * n)
    num := p.par 48 4
    ali := false
    room := 0
    ins := (p.par 40 4, p.par 44 4)
    owners := [] })

/-- A handle-form MATMUL is one core operation of one product, panel by panel. -/
def mmHandleOp (s : State) (id : Nat) (p : Packet) : State :=
  addOp s [newProduct id (p.par 56 1) 0 (numFmt (p.par 44 4)) (numFmt (p.par 40 4)) (p.par 36 4) 0
    ((List.range (p.par 36 4 / 64)).flatMap (mmHandlePanel p)) [p.par 57 1, p.par 58 1] [p.par 59 1]]

/-- A handle-form product begins: its output is claimed and its product enters the core's queue. -/
def mmHandleStart (q : Nat) (p : Packet) (s : State) : State :=
  let c := p.par 56 1
  let yh := p.par 59 1
  let (s, id) := issue s q p [coreDie c]
  let s := s.updCmd id fun k => { k with clusters := 2 ^ coreCluster c }
  let s := readExps s id (q % 64) (mmSlots p)
  let s := addOut s id (hKey c yh)
  let s := addClaim s c yh id 0 (p.par 28 4 * p.par 36 4 * fmtBytes (hnd s c yh).fmt) noJob
  kickAll (mmHandleOp s id p)

def mmHandleIssue (q : Nat) (p : Packet) (s : State) : State :=
  let st := mmHandleStatus s (q % 64) p
  if st ≠ 0 then refuseAtIssue s q p st
  else if !diesIssue s [coreDie (p.par 56 1)] then s
  else mmHandleStart q p s

/-- MATMUL (R428, R429). -/
def execMatmul (q : Nat) (s : State) : Out :=
  onHead 0x20 q s fun p s => if bit (p.par 27 1) 0 then mmHandleIssue q p s else mmMemIssue q p s

/-- The context's window runs: open mode, or its slot (R100). -/
def inSlot (s : State) (x : Nat) : Bool :=
  let p := s.pdk (s.ctx x).pdk
  !p.loaded || (p.run.any fun r => r.ctx == x)

/-- `SCH_BATCH_WINDOW_p` of the context's paddock, in µs (R113). -/
def batchWindow (s : State) (x : Nat) : Nat :=
  s.fld (dieSchedBlk (homeDie s x) + 0x200 + 4 * (s.ctx x).pdk) 0 8

/-- BATCH_WINDOW_EXPIRY (R100 item 3): no earlier than the window after the batch's first command. -/
def execBatchWindowExpiry (n : Nat) (s : State) : Out :=
  .next (match s.cp.batches[n]? with
    | some b =>
      if dieRuns s 5 && inSlot s b.ctx && decide (b.openUs + batchWindow s b.ctx ≤ s.nowUs) then
        kickAll (startBatch b s)
      else s
    | none => s)

/-- BATCH_BUDGET_DEADLINE (R100 item 5): the time left in the slot is at most the batch's budget. -/
def execBatchBudgetDeadline (n : Nat) (s : State) : Out :=
  .next (match s.cp.batches[n]? with
    | some b =>
      let p := s.pdk (s.ctx b.ctx).pdk
      if dieRuns s 5 && p.loaded
          && (p.run.any fun r => r.ctx == b.ctx && decide (usUntil s (boundaryNs s r.endStride) ≤ b.budget))
      then kickAll (startBatch b s) else s
    | none => s)

/-! Products and passes. -/

/-- The cluster of a core is powered; an access to a gated one wakes it (R569). -/
def withCluster (c : Nat) (f : State → State) (s : State) : State :=
  if gateReady s (coreCluster c) then f s else touchGate s (coreCluster c)

/-- The product in the core-operation queue that a site with a free half may take: the oldest it may run whose
first pass is ready (R92, R93, R96). -/
def nextProduct (s : State) (c site : Nat) : Option Product :=
  let cand := s.core.products.filter fun p => p.core == c && p.queued && p.site.isNone && classOk s p site
  match onSite s c site with
  | [] => cand.find? fun p => passReady s p site
  | [a] =>
    if a.packed || (s.core.products.any fun p => p.id == a.id && decide (32 < p.outW)) then none
    else cand.find? fun p => mayPack s p a && passReady s { p with packed := true, half := 1 - a.half } site
  | _ => none

/-- No site before this one wants the product: the FE first, then BE pair 0 (R93). -/
def firstWanting (s : State) (c site id : Nat) : Bool :=
  (List.range site).all fun k => (nextProduct s c k).all (·.id != id)

def takeProduct (c site : Nat) (s : State) (p : Product) : State :=
  let s := acquireReads s p
  match onSite s c site with
  | a :: _ =>
    setSite (setSite s a.id fun k => { k with packed := true }) p.id fun k =>
      { k with site := some site, packed := true, half := 1 - a.half }
  | [] => setSite s p.id fun k => { k with site := some site }

/-- Handles that a product's next pass reads and the product writes, with their cores. -/
def productHandles (s : State) (p : Product) : List (Nat × Nat) :=
  (p.reads ++ p.writes).map (p.core, ·)
    ++ ((p.passes.head?).elim [] (·.works)).flatMap fun w => [srcAt s p.core w.stat.src, srcAt s p.core w.stream.src]

/-- Groups of the handles of the oldest product that waits for a site start to wake (R146). -/
def wakeFor (c site : Nat) (s : State) : State :=
  match s.core.products.find? fun p => p.core == c && p.queued && p.site.isNone && classOk s p site with
  | some p => (productHandles s p).foldl (fun s h => wakeGroups s h.1 (hnd s h.1 h.2)) s
  | none => s

/-- PRODUCT_TAKE (R93, R94). -/
def execProductTake (core site : Nat) (s : State) : Out :=
  unitStep (decide (core < 256) && decide (site < 3)) (coreDie core) s fun s =>
    withCluster core (fun s =>
      match nextProduct s core site with
      | some p => if firstWanting s core site p.id then takeProduct core site s p else s
      | none => wakeFor core site s) (kickAll s)

/-- Products on the site that have passes to issue. -/
def idleOn (s : State) (c site : Nat) : List Product := (onSite s c site).filter (!·.passes.isEmpty)

/-- Passes in progress on a site: their last partial sums have still to land (R85). -/
def passesOn (s : State) (c site : Nat) : Nat :=
  (dedupNat ((s.core.running.filter fun r => r.core == c && r.site == site).map (·.no))).length

/-- A pass issues: the halves of a packed pass together (R97). -/
def issuePass (site : Nat) (ps : List Product) (s : State) : State :=
  let no := s.core.next
  ps.foldl (startPass no site) (s.onCore fun c => { c with next := no + 1 })

/-- PASS_ISSUE (R87, R97): up to three passes are in progress at once (R85); a packed pass issues when both
halves may. -/
def execPassIssue (core site : Nat) (s : State) : Out :=
  unitStep (decide (core < 256) && decide (site < 3)) (coreDie core) s fun s =>
    let ps := idleOn s core site
    if ps.isEmpty || 3 ≤ passesOn s core site || !(ps.all fun p => passReady s p site) then s
    else withCluster core (fun s => kickAll (issuePass site ps s)) s

/-- The armed fault injection meets a pass that uses the array half, or the FE's stationary stage (R109). -/
def injected (s : State) (c site : Nat) (rs : List RunPass) : Option (Nat × Nat) :=
  let ctl := s.reg (coreBlk c)
  let t := bits ctl 8 3
  let h := bits ctl 11 1
  if !bit ctl 12 then none
  else if t < 6 then
    (if t / 2 = site && rs.any fun r => (passHalves r).contains h && r.works.any (·.1.arr == t % 2) then some (t, h)
      else none)
  else if t = 7 then (if site = 0 then some (7, 0) else none)
  else none

def disarmInj (s : State) (c : Nat) : State := s.setReg (coreBlk c) (setBit (s.reg (coreBlk c)) 12 false)

/-- PASS_RETIRE (R85): the oldest pass in progress on the site ends. -/
def execPassRetire (core site : Nat) (s : State) : Out :=
  unitStep (decide (core < 256) && decide (site < 3)) (coreDie core) s fun s =>
    let rs := oldestPass s core site
    if rs.isEmpty then s
    else
      match injected s core site rs with
      | some (t, half) => kickAll (sweepAcc (coreFaultAt (disarmInj s core) core t 6 half))
      | none => kickAll (sweepAcc (retirePass s core site rs))

/-- The pending drains of a core, oldest first. -/
def drainsOf (s : State) (c : Nat) : List PendDrain := s.core.drains.filter (·.core == c)

/-- A hazard that a drain's writes met (R138). -/
def drainHazard (s : State) (p : PendDrain) (hz : Nat) : State :=
  match p.drain.sink with
  | .out h _ _ => hazardOn s p.core h (engPort p.site) hz (ctxOf s p.cmd)
  | .head h _ _ _ => hazardOn s p.core h (engPort p.site) hz (ctxOf s p.cmd)
  | .add _ h _ _ _ _ => hazardOn s p.core h 2 hz (ctxOf s p.cmd)
  | .sum .. => s

/-- A drain writes its rows; its bank rows hold nothing any more. -/
def finishDrain (p : PendDrain) (hz : Nat) (s : State) : State :=
  let s := drainHazard (runDrain p s) p hz
  let s := s.onCore fun c => { c with drains := c.drains.filter (·.id != p.id) }
  kickAll (sweepAcc (clearAcc s p))

/-- DRAIN_DONE (R54, R86): drain `n` of the core has been narrowed and written. -/
def execDrainDone (core n hz : Nat) (s : State) : Out :=
  unitStep (decide (core < 256)) (coreDie core) s fun s =>
    match (drainsOf s core)[n]? with
    | none => s
    | some p => if drainMayRun s p && !scrubHolds s core then finishDrain p hz s else s

/-- CORE_FAULT (R103, R104): cause `kind` 1 to 6 at a site; `info` gives the half. -/
def execCoreFault (core site kind : Nat) (info : W64) (s : State) : Out :=
  unitStep (decide (core < 256) && decide (site < 10)) (coreDie core) s fun s =>
    if kind = 0 || 6 < kind then s
    else kickAll (sweepAcc (coreFaultAt s core site kind (info.toNat % 2)))

end Sys2Proof.Machine
end

