-- ==== Sys2Proof/Machine/Vector.lean ====
section
/-! DEFINITION. VEC (R435) and the operations of the vector units (R105 to R107, R603, R604). -/
namespace Sys2Proof.Machine

open Sys2Proof

/-! VEC. -/

def vecOp (p : Packet) : Nat := p.par 1 1
def vecAlt (p : Packet) : Bool := bit (p.par 6 1) 0
def vecInplace (p : Packet) : Bool := bit (p.par 6 1) 1
/-- Input handles in use. -/
def vecIns (p : Packet) : List Nat := ([2, 3, 4].map fun o => p.par o 1).filter (· != 0xFF)
def vecAux (p : Packet) : Bool := p.par 8 8 != 0

/-- Elements in a row of a handle. -/
def rowElems (e : Handle) : Nat := if fmtBytes e.fmt = 0 then 0 else 16 * e.cols / fmtBytes e.fmt

/-- Operand b is read from memory. -/
def vecNeedsB (p : Packet) : Bool := vecOp p == 0x05 || (vecOp p == 0x03 && (vecIns p).length == 1)

/-- The operation has every operand it takes. -/
def vecOperands (p : Packet) : Bool :=
  let n := vuArity (vecOp p)
  let ins := (vecIns p).length
  if vecOp p = 0x05 then vecAux p else if vecAux p then true else decide (n + 1 ≤ ins)

/-- The shape checks of R435. -/
def vecShape (s : State) (p : Packet) : Bool :=
  let c := p.par 0 1
  let op := vecOp p
  let e := hnd s c (p.par 2 1)
  let n := rowElems e
  let o := hnd s c (p.par 5 1)
  ((vecIns p).all fun h => let k := hnd s c h; k.rows == e.rows && rowElems k == n)
    && o.rows == e.rows && o.fmt == numFmt (p.par 20 4) && o.cols == ceilDiv (vuCols op n * fmtBytes o.fmt) 16
    && (!vecAux p || (vuArity op == 0 && op != 0x29) || p.par 24 4 == n)
    && (!isRowOp op || decide (n ≤ 65536))

def vecStatus (s : State) (x : Nat) (p : Packet) : Nat :=
  let c := p.par 0 1
  let op := vecOp p
  let ins := vecIns p
  let out := p.par 5 1
  if !vuOps.contains op || (vecAlt p && !hasAlt op) || 4 ≤ p.par 6 1 || 63 < p.par 7 1
      || (p.par 7 1 ≠ 0 && op ≠ 0x29) || p.par 2 1 = 0xFF || !vecOperands p || !numOk (p.par 16 4) || !numOk (p.par 20 4)
      || !allZero (p.params.drop 28) || !ctxOwnsCore s x c || (vecInplace p && out ≠ p.par 2 1)
  then stBadParam
  else
    let named := (ins ++ [out]).foldl (fun a h => max a (nameStatus s x c h)) 0
    if named ≠ 0 then named
    else
      let o := hnd s c out
      let clash := if vecInplace p then
          (hnd s c out).readers != 0 || (ins.drop 1).any (fun h => overlaps (hnd s c h) o)
        else ins.any fun h => overlaps (hnd s c h) o
      max (coresFenced s [⟨c, 0, 0, 0⟩])
        (max (if vecShape s p then stOk else stBadParam)
          (max (if clash then stOverlap else stOk) (ins.foldl (fun a h => max a (dirtyStatus s c h)) 0)))

/-- Operands a and b, read at issue. -/
def vecAuxVals (s : State) (x id : Nat) (p : Packet) : State × Nat × List FVal × List FVal :=
  if !vecAux p then (s, 0, [], [])
  else
    let num := p.par 16 4
    let f := numFmt num
    let n := p.par 24 4
    let (s, c, v) := readMat s (coreDie (p.par 0 1)) x (p.par 8 8) (if vecNeedsB p then 2 else 1) n n f
    let e := expOf s id num
    let vals := v.map fun w => fscale (decodeElem f w) (-e)
    (s, c, vals.take n, vals.drop n)

/-- The operation joins the queue of its core's vector unit. -/
def vecStart (q : Nat) (p : Packet) (s : State) : State :=
  let x := q % 64
  let c := p.par 0 1
  let (s, id) := issue s q p [coreDie c]
  let s := s.updCmd id fun k => { k with clusters := 2 ^ coreCluster c }
  let s := readExps s id x [numSlot (p.par 16 4), numSlot (p.par 20 4)]
  let (s, cause, a, b) := vecAuxVals s x id p
  let out := p.par 5 1
  let o := hnd s c out
  let n := rowElems (hnd s c (p.par 2 1))
  let s := addOut s id (hKey c out)
  if cause ≠ 0 then endCmd s id stAborted
  else
    let s := addClaim s c out id 2 (o.rows * vuCols (vecOp p) n * fmtBytes o.fmt) noJob
    kickAll (addVu s {
      id := 0
      queued := false
      cmd := id
      core := c
      op := vecOp p
      alt := vecAlt p
      eps := p.par 7 1
      ins := vecIns p
      inExps := (vecIns p).map fun _ => 0
      out := out
      rows := o.rows
      cols := n
      aux := vecAux p
      auxA := a
      auxB := b
      outNum := p.par 20 4
      mode := .op })

def vecIssue (q : Nat) (p : Packet) (s : State) : State :=
  let st := vecStatus s (q % 64) p
  if st ≠ 0 then refuseAtIssue s q p st
  else if !diesIssue s [coreDie (p.par 0 1)] then s
  else vecStart q p s

/-- VEC (R435). -/
def execVec (q : Nat) (s : State) : Out := onHead 0x25 q s (vecIssue q)

/-! The operations. -/

/-- The input is in place: it is held, can be acquired, or is the output written in place. -/
def vuInReady (s : State) (v : VuOp) (h : Nat) : Bool :=
  (h = v.out || (s.cmd? v.cmd).any (fun c => c.ins.contains (hKey v.core h)) || canAcquire (hnd s v.core h) v.cmd)
    && groupsReady s v.core (hnd s v.core h) false

def vuOutReady (s : State) (v : VuOp) : Bool :=
  let e := hnd s v.core v.out
  e.claimed && e.owner == v.cmd && e.state == hFilling && groupsReady s v.core e true

/-- Every operand of the operation is in place. -/
def vuReady (s : State) (v : VuOp) : Bool := (v.ins.all (vuInReady s v)) && vuOutReady s v

def vuAcquire (s : State) (v : VuOp) : State :=
  v.ins.foldl (fun s h =>
    if h = v.out || (s.cmd? v.cmd).any (fun c => c.ins.contains (hKey v.core h)) then s
    else readHandle s v.cmd v.core h) s

def vuWake (s : State) (v : VuOp) : State :=
  (v.out :: v.ins).foldl (fun s h => wakeGroups s v.core (hnd s v.core h)) s

/-- The operation takes its inputs, computes and writes its rows, and leaves the queue. -/
def vuFinish (v : VuOp) (hz : Nat) (s : State) : State :=
  let s := hazardOn (runVu s v) v.core v.out 2 hz (ctxOf s v.cmd)
  kickAll (s.onCore fun c => { c with vuq := c.vuq.filter (·.id != v.id) })

/-- The operation runs: an armed injection or an uncorrectable input ends its command (R109, R140). -/
def vuPerform (v : VuOp) (hz : Nat) (s : State) : State :=
  let ctl := s.reg (coreBlk v.core)
  if bit ctl 12 && bits ctl 8 3 == 6 then kickAll (coreFaultAt (disarmInj s v.core) v.core 6 6 0)
  else
    let (s, bad) := vuCheck (vuAcquire s v) v
    if bad.isEmpty then vuFinish v hz s else kickAll (latchFault s v.core [15] 1 6 0 [v.cmd] false)

/-- The operation at the front of the core's vector unit. -/
def vuFront (s : State) (core : Nat) : Option VuOp := s.core.vuq.find? fun v => v.core == core && v.queued

/-- The next operation of the core's vector unit, when it is `op` (with `alt`, where the row names
one). -/
def vuRun (op : Nat) (alt : Option Bool) (core hz : Nat) (s : State) : Out :=
  unitStep (decide (core < 256)) (coreDie core) s fun s =>
    match vuFront s core with
    | none => s
    | some v =>
      if v.op != op || (alt.any (· != v.alt)) || !coreUsable s core || bit (s.reg (coreLatch core)) 15 then s
      else withCluster core (fun s => if vuReady s v then vuPerform v hz s else vuWake s v) s

/-- ADD (R105, R603). -/
def execAdd (core hz : Nat) (s : State) : Out := vuRun 0x01 (some false) core hz s
/-- SUB (R105, R603). -/
def execSub (core hz : Nat) (s : State) : Out := vuRun 0x01 (some true) core hz s
/-- MUL (R105, R603). -/
def execMul (core hz : Nat) (s : State) : Out := vuRun 0x02 none core hz s
/-- FMA (R105, R603). -/
def execFma (core hz : Nat) (s : State) : Out := vuRun 0x03 none core hz s
/-- MAX (R105, R603). -/
def execMax (core hz : Nat) (s : State) : Out := vuRun 0x04 (some false) core hz s
/-- MIN (R105, R603). -/
def execMin (core hz : Nat) (s : State) : Out := vuRun 0x04 (some true) core hz s
/-- SCALE_BIAS (R105, R603). -/
def execScaleBias (core hz : Nat) (s : State) : Out := vuRun 0x05 none core hz s
/-- EXP2 (R105, R603). -/
def execExp2 (core hz : Nat) (s : State) : Out := vuRun 0x08 none core hz s
/-- LOG2 (R105, R603). -/
def execLog2 (core hz : Nat) (s : State) : Out := vuRun 0x09 none core hz s
/-- RCP (R105, R603). -/
def execRcp (core hz : Nat) (s : State) : Out := vuRun 0x0A none core hz s
/-- RSQRT (R105, R603). -/
def execRsqrt (core hz : Nat) (s : State) : Out := vuRun 0x0B none core hz s
/-- GELU (R105, R603). -/
def execGelu (core hz : Nat) (s : State) : Out := vuRun 0x10 none core hz s
/-- SILU (R105, R603). -/
def execSilu (core hz : Nat) (s : State) : Out := vuRun 0x11 none core hz s
/-- SIGMOID (R105, R603). -/
def execSigmoid (core hz : Nat) (s : State) : Out := vuRun 0x12 none core hz s
/-- TANH (R105, R603). -/
def execTanh (core hz : Nat) (s : State) : Out := vuRun 0x13 none core hz s
/-- ROW_SUM (R107). -/
def execRowSum (core hz : Nat) (s : State) : Out := vuRun 0x20 (some false) core hz s
/-- ROW_MAX (R105, R603). -/
def execRowMax (core hz : Nat) (s : State) : Out := vuRun 0x20 (some true) core hz s
/-- SOFTMAX_ROW (R105, R603). -/
def execSoftmaxRow (core hz : Nat) (s : State) : Out := vuRun 0x28 none core hz s
/-- NORM_ROW (R604). -/
def execNormRow (core hz : Nat) (s : State) : Out := vuRun 0x29 none core hz s
/-- CAST (R70, R106). -/
def execCast (core hz : Nat) (s : State) : Out := vuRun 0x30 none core hz s

end Sys2Proof.Machine
end

