-- ==== Sys2Proof/Machine/Blocks.lean ====
section
/-! DEFINITION. Block commands (R153 to R206), ATTN (R430), and the steps of the saddlebag: stash,
offload, rebuild, park, patrol and scrub (R172 to R207), VERSION_RELEASE (R222). -/
namespace Sys2Proof.Machine

open Sys2Proof

/-! Issue. -/

/-- Descriptors, auxiliary entries and gradient records as read at issue; a cause when a read
fails. -/
structure Descs where
  raw : List (List Byte)
  grads : List (List Byte)
  layers : List Layer
  deriving DecidableEq, Repr

def readDescs (s : State) (x n table : Nat) (bwd : Bool) : State × Nat × Descs :=
  let m := homeDie s x
  (List.range n).foldl (fun (a : State × Nat × Descs) i =>
    if a.2.1 ≠ 0 then a else
    let (s, c, b) := vaRead a.1 m x (table + 128 * i) 128
    let named := (List.range 8).any fun k => fieldLE b (64 + 8 * k + 1) 1 / 8 % 4 != 0
    let (s, c2, aux) := if named && c == 0 then vaRead s m x (fieldLE b 40 8) 48 else (s, 0, [])
    let gr := fieldLE b 56 8
    let (s, c3, g) := if bwd && c == 0 && gr % 128 == 0 then vaRead s m x gr 128 else (s, 0, [])
    (s, max c (max c2 c3), { raw := a.2.2.raw ++ [b], grads := a.2.2.grads ++ [g],
                             layers := a.2.2.layers ++ [layerOf b aux g] })) (s, 0, ⟨[], [], []⟩)

/-- The rules of R157 to R160, R168 and R197 to R206 on the layers of a command. -/
def layersStatus (kind : Nat) (p : Packet) (d : Descs) : Nat :=
  let ls := d.layers
  let g := bpG p
  let ok := (List.range ls.length).all fun i =>
    (ls[i]?).all fun l =>
      let xn := xNumOf ls (bpXNum p) i
      let b := d.raw.getD i []
      let gin := if i = 0 then bpDxNum p else l.grad.ginNum
      let dg := if i + 1 = ls.length then bpDyNum p else (ls[i + 1]?).elim 0 (·.grad.ginNum)
      layerOk l b g (bpKp p) (bpTokens p) xn
        && (kind == 0 || (gradOk l b (d.grads.getD i []) (i == 0) && bwdPairs l xn dg
          && sweepRows l g (bpKp p) xn gin dg != 0))
  if ok && chainOk ls then stOk else stBadParam

/-- The command's outputs and inputs in memory (R200). -/
def blockOuts (kind : Nat) (p : Packet) (ls : List Layer) : List (Nat × Nat) :=
  let y := if bpY p = 0 then [] else [(bpY p, bpTokens p * (ls.getLast?.elim 0 (·.outW))
    * fmtBytes (numFmt (ls.getLast?.elim 0 Layer.lastNum)))]
  if kind = 0 then y
  else y ++ (bpDx p, bpTokens p * (ls.head?.elim 0 (·.kIn)) * fmtBytes (numFmt (bpDxNum p)))
    :: ls.flatMap Layer.gradOuts

def blockIns (p : Packet) (d : Descs) (bufs : List Nat) : List (Nat × Nat) :=
  let ls := d.layers
  [(bpX p, bpTokens p * (ls.head?.elim 0 (·.kIn)) * fmtBytes (numFmt (bpXNum p))),
   (bpDy p, bpTokens p * (ls.getLast?.elim 0 (·.outW)) * fmtBytes (numFmt (bpDyNum p))),
   (bpTable p, 128 * ls.length)]
  ++ ls.flatMap Layer.gradIns
  ++ List.zipWith (fun b l => (b, l.bufLen)) bufs ls
  ++ d.raw.map fun b => (fieldLE b 56 8, 128)

/-- Parameters by which BLOCK_BWD and its stash must agree (R201). -/
def stashFields (l : List Byte) : List Nat :=
  [fieldLE l 8 1, fieldLE l 12 4, fieldLE l 16 4, fieldLE l 10 1, fieldLE l 20 2, fieldLE l 24 8, fieldLE l 32 4]

/-- The refusals of a command's stash (R180, R201); the tag of a BLOCK_FWD that still runs is refused too
(assumption log 53). -/
def stashStatus (s : State) (x kind : Nat) (p : Packet) (ls : List Layer) : Nat :=
  if kind = 2 then
    match findStash s x (bpTag p) with
    | none => stBadParam
    | some t => if stashFields t.params = stashFields p.params && t.versions == ls.map (·.version) then stOk else stBadParam
  else if kind = 0 && bpStash p && ((findStash s x (bpTag p)).isSome
      || s.blk.runs.any fun r => r.ctx == x && r.kind == 0 && bpStash r.pkt && bpTag r.pkt == bpTag p) then stBadParam
  else stOk

/-- Reach the records of the layers: their addresses, or the status of a refusal (R217). -/
def reachAll (s : State) (x : Nat) (ls : List Layer) : State × Nat × List Nat :=
  ls.foldl (fun (a : State × Nat × List Nat) l =>
    if a.2.1 ≠ 0 then a else
    match reachVRec a.1 x l.wAddr with
    | (s, .inr st) => (s, st, a.2.2)
    | (s, .inl pa) => (s, 0, a.2.2 ++ [pa])) (s, 0, [])

/-- Acquire a reference for each layer (R218): 0, 1 wait, or the status of a refusal. -/
def acquireAll (s : State) (refs : List (Nat × Nat)) : State × Nat :=
  refs.foldl (fun (a : State × Nat) r =>
    if a.2 ≠ 0 then a else
    let c := acquireCase a.1 r.1 r.2
    if c ≤ 1 then (acquireRef a.1 r.1 r.2, 0) else (a.1, if c = 2 then 1 else stBadParam)) (s, 0)

/-- The effective policies (R171). -/
def policies (kind : Nat) (p : Packet) (ls : List Layer) : List Nat :=
  (List.range ls.length).map fun i =>
    let pol := (ls[i]?).elim 1 (·.policy)
    if kind = 2 || (kind == 0 && !bpStash p) then 1
    else if pol = 2 then 2 else if pol = 1 then 1
    else if ls.length - bpKeep p ≤ i then 0 else 1

def layerFwd (i n : Nat) : List BStep := (List.range n).map (BStep.fwd i) ++ [.endFwd i]

/-- The steps of layer i's backward (R205), and the parking of its result (R206). -/
def layerBwd (i : Nat) (l : Layer) (sweeps : Nat) : List BStep :=
  .needX i :: (List.range sweeps).flatMap (fun sw =>
    .sweep i sw :: l.reStages.map (fun k => BStep.recompute i k sw)
      ++ (List.range l.stages.length).reverse.map fun k => BStep.bwd i k sw)
    ++ .endBwd i :: (if i = 0 then [] else [.parkG i])

def blockSteps (kind : Nat) (p : Packet) (ls : List Layer) (sweep : List Nat) : List BStep :=
  let sweeps := fun i => 128 / max 1 (sweep.getD i 128)
  let fwd := .loadX :: (ls.zipIdx).flatMap (fun l => layerFwd l.2 l.1.stages.length)
    ++ (if bpY p = 0 then [] else [.storeY])
  let bwd := (List.range (sweeps (ls.length - 1))).map BStep.loadDy ++ .parkG ls.length ::
    (ls.zipIdx).reverse.flatMap (fun l => layerBwd l.2 l.1 (sweeps l.2)) ++ (List.range (sweeps 0)).map BStep.storeDx
  if kind = 0 then fwd else if kind = 1 then fwd ++ bwd else bwd

/-- Slots that a block command names. -/
def blockSlots (kind : Nat) (p : Packet) (ls : List Layer) : List Nat :=
  ([bpXNum p] ++ (if kind = 0 then [] else [bpDyNum p, bpDxNum p])
    ++ ls.flatMap fun l => [l.w0Num, l.w1Num] ++ l.stages.map (·.num) ++ l.aux.map (·.2.1)
      ++ (if kind = 0 then [] else [l.grad.dw0Num, l.grad.dw1Num, l.grad.dauxNum, l.grad.ginNum] ++ l.grad.gNum)).map numSlot

def blockRun (id x kind : Nat) (p : Packet) (ls : List Layer) : BRun :=
  let sweep := (List.range ls.length).map fun i =>
    if kind = 0 then 128 else
    let gin := if i = 0 then bpDxNum p else (ls[i]?).elim 0 (·.grad.ginNum)
    let dg := if i + 1 = ls.length then bpDyNum p else (ls[i + 1]?).elim 0 (·.grad.ginNum)
    (ls[i]?).elim 128 fun l => sweepRows l (bpG p) (bpKp p) (xNumOf ls (bpXNum p) i) gin dg
  let parts := partsOf (bpClusters p) (bpG p) (bpTokens p / 128)
  { cmd := id
    ctx := x
    kind := kind
    pkt := p
    layers := ls
    parts := parts
    steps := blockSteps kind p ls sweep
    pos := parts.map fun _ => 0
    begun := parts.map fun _ => 0
    sub := parts.map fun _ => 0
    pol := policies kind p ls
    sweep := sweep
    decided := []
    copied := []
    demoted := 0
    rebuilds := 0
    stashUe := 0
    spilled := 0
    offUsed := 0
    spillUsed := 0
    batch := []
    wbuf := 0
    lost := []
    outRegions := blockOuts kind p ls }

/-- A block command begins, with the references it holds and the layers it runs. -/
def blockStart (kind q : Nat) (p : Packet) (refs : List (Nat × Nat)) (ls : List Layer) (s : State) : State :=
  let x := q % 64
  let (s, id) := issue s q p (diesOf (bpClusters p))
  let s := s.updCmd id fun k => { k with
    clusters := bpClusters p
    refs := if kind = 2 then [] else refs }
  let s := readExps s id x (blockSlots kind p ls)
  kickAll (s.onBlk fun b => { b with runs := b.runs ++ [blockRun id x kind p ls] })

/-- Issue a block command (R153 to R160, R171, R200, R201, R217 to R219). -/
def blockIssue (kind q : Nat) (p : Packet) (s : State) : State :=
  let x := q % 64
  let shape := blockShape s x kind p
  if shape ≠ 0 then refuseAtIssue s q p shape
  else if !diesIssue s (diesOf (bpClusters p)) then s
  else
    let (s, c, d) := readDescs s x (bpLayers p) (bpTable p) (kind != 0)
    let st := max (max (layersStatus kind p d) (if kind = 2 then stOk else blockRegions s x p))
      (max (stashStatus s x kind p d.layers)
        (coresFenced s (partsOf (bpClusters p) (bpG p) (bpTokens p / 128))))
    if c ≠ 0 then refuseAtIssue s q p stAborted
    else if st ≠ 0 then refuseAtIssue s q p st
    else
      let (s, rs, pas) := reachAll s x d.layers
      if rs ≠ 0 then refuseAtIssue s q p rs
      else
        let pas := if kind = 2 then ((findStash s x (bpTag p)).elim [] (·.refs)).map (·.1) else pas
        let refs := List.zipWith (fun pa l => (pa, l.version)) pas d.layers
        let bufs := refs.map fun r => bufOf s r.1 r.2
        let (s', a) := if kind = 2 then (s, 0) else acquireAll s refs
        if kind ≠ 0 && anyMeet (blockOuts kind p d.layers) (blockIns p d bufs) then
          refuseAtIssue s q p (if 1 < a then max a stOverlap else stOverlap)
        else if a = 1 then s
        else if a ≠ 0 then refuseAtIssue s q p a
        else
          blockStart kind q p refs (List.zipWith (fun b l => { l with buf := b }) bufs d.layers) s'

/-- BLOCK_FWD (R153). -/
def execBlockFwd (q : Nat) (s : State) : Out := onHead 0x21 q s (blockIssue 0 q)
/-- BLOCK_TRAIN (R153). -/
def execBlockTrain (q : Nat) (s : State) : Out := onHead 0x22 q s (blockIssue 1 q)
/-- BLOCK_BWD (R201, R202). -/
def execBlockBwd (q : Nat) (s : State) : Out := onHead 0x23 q s (blockIssue 2 q)

/-! ATTN (R430). -/

def attnStatus (s : State) (x : Nat) (p : Packet) : Nat :=
  let g := p.par 40 1
  let mask := p.par 20 4
  let t := p.par 16 4
  let heads := p.par 36 2
  let d := p.par 38 2
  let word := p.par 32 4
  let f := numFmt (p.par 24 4)
  if !colGroupsOk g || !clustersOk s x mask || !evenClusters mask g || t = 0 || t % 128 ≠ 0
      || !attnWordOk word || t % seqLen word ≠ 0 || 1024 * popcount mask 32 / g < t
      || heads = 0 || heads % g ≠ 0 || !headDimOk d || !numOk (p.par 24 4) || !numOk (p.par 28 4)
      || !(isFp8 f || f == 1 || f == 2) || fmtBytes (numFmt (p.par 28 4)) = 0 || !allZero (p.params.drop 41)
      || 3 * fmtBytes f < fmtBytes (numFmt (p.par 28 4))
      || 2048 < padWords 128 (3 * heads * d / g) f + attnWords d f
  then stBadParam else coresFenced s (partsOf mask g (t / 128))

/-- The one layer that an ATTN command runs. -/
def attnLayer (p : Packet) : Layer :=
  { Layer.blank with
    heads := p.par 36 2
    headDim := p.par 38 2
    kIn := 3 * p.par 36 2 * p.par 38 2
    aux := [(0, 0, p.par 32 4)]
    stages := [{ stageOf [] with op := 0x82, aux := 1, num := p.par 28 4 }] }

/-- An attention run begins: load, compute, store. -/
def attnStart (q : Nat) (p : Packet) (s : State) : State :=
  let x := q % 64
  let mask := p.par 20 4
  let (s, id) := issue s q p (diesOf mask)
  let s := s.updCmd id fun k => { k with clusters := mask }
  let s := readExps s id x [numSlot (p.par 24 4), numSlot (p.par 28 4)]
  let parts := partsOf mask (p.par 40 1) (p.par 16 4 / 128)
  kickAll (s.onBlk fun b => { b with
    runs := b.runs ++ [{ blockRun id x 0 p [] with
      kind := 4
      layers := [attnLayer p]
      parts := parts
      steps := .loadX :: layerFwd 0 1 ++ [.storeY]
      pos := parts.map fun _ => 0
      begun := parts.map fun _ => 0
      sub := parts.map fun _ => 0
      pol := [1]
      outRegions := [] }] })

def attnIssue (q : Nat) (p : Packet) (s : State) : State :=
  let st := attnStatus s (q % 64) p
  if st ≠ 0 then refuseAtIssue s q p st
  else if !diesIssue s (diesOf (p.par 20 4)) then s
  else attnStart q p s

/-- ATTN (R430 to R433). -/
def execAttn (q : Nat) (s : State) : Out := onHead 0x24 q s (attnIssue q)

/-! VERSION_RELEASE (R222). -/

/-- VERSION_RELEASE. -/
def execVersionRelease (q : Nat) (s : State) : Out :=
  onHead 0x42 q s fun p s =>
    let x := q % 64
    let all := s.blk.stashes.filter (·.ctx == x)
    if 2 ≤ p.par 4 4 || !allZero (p.params.drop 8) then completeNow s q p stBadParam 0
    else if bit (p.par 4 4) 0 then completeNow (all.foldl releaseStash s) q p stOk 0
    else match findStash s x (p.par 0 4) with
      | none => completeNow s q p stBadParam 0
      | some t => completeNow (releaseStash s t) q p stOk 0

/-! Stash, offload and rebuild. -/

/-- Lift a step of run `id`. -/
def onRun (id : Nat) (s : State) (f : BRun → State → State) : Out :=
  .next (match runOf s id with
    | some r => if dieRuns s 0 && !ended s id then f r s else s
    | none => s)

/-- Layers become RECOMPUTE: layer i, and with `later` every later KEEP layer (R176, R182). -/
def demote (s : State) (r : BRun) (i : Nat) (later : Bool) : State :=
  let hit := (List.range r.layers.length).filter fun j => j == i || (later && decide (i < j) && r.polOf j == 0)
  let s := updRun s r.cmd fun r => { r with
    pol := (List.range r.layers.length).map fun j => if hit.contains j then 1 else r.polOf j
    demoted := r.demoted + hit.length
    decided := i :: r.decided }
  (diesOf r.mask).foldl (fun s d => s.count32 (saddleBlk d + 0x2C) hit.length) s

/-- Blocks are held for X_i: use 0 kept, 1 offload staging, 2 rebuild, 3 fetched. -/
def hold (s : State) (r : BRun) (i use : Nat) (blocks : List (List Nat)) : State :=
  s.onBlk fun b => { b with
    stored := b.stored ++ [{ cmd := r.cmd, ctx := r.ctx, tag := none, layer := i, use := use, blocks := blocks,
                             landed := false, checked := false, away := false }] }

/-- Where an offloaded input goes (R182): to host memory, and the address. -/
def offloadPlace (r : BRun) (i : Nat) : Option (Bool × Nat) :=
  let n := r.xBytes i
  if r.offUsed + n ≤ bpOffLen r.pkt * 2 ^ 20 then some (false, bpOff r.pkt + r.offUsed)
  else if bpSpillEn r.pkt && decide (r.spillUsed + n ≤ bpSpillLen r.pkt * 2 ^ 20) then
    some (true, bpSpill r.pkt + r.spillUsed)
  else none

def reserveOffload (s : State) (r : BRun) (i : Nat) : State :=
  match offloadPlace r i with
  | none => demote s r i false
  | some (host, addr) =>
    let n := r.xBytes i
    let blocks := pickBlocks s r i
    let s := updRun s r.cmd fun r => { r with
      decided := i :: r.decided
      offUsed := r.offUsed + (if host then 0 else n)
      spillUsed := r.spillUsed + (if host then n else 0)
      spilled := r.spilled + b2n host }
    let s := s.onBlk fun b => { b with
      offloads := b.offloads ++ [{ cmd := r.cmd, ctx := r.ctx, tag := none, layer := i, host := host, fn := r.pkt.fn,
                                   addr := addr, st := 0, direct := blocks.isNone, tried := 0, checked := false }] }
    blocks.elim s (hold s r i 1)

/-- STASH_RESERVE (R175, R176, R182, R183). -/
def execStashReserve (id layer : Nat) (s : State) : Out :=
  onRun id s fun r s =>
    let due := r.polOf layer != 1 && decide (layer < r.layers.length) && !r.decided.contains layer && !r.again
      && (List.range r.parts.length).any fun j => r.steps[r.pos.getD j 0]? = some (.fwd layer 0)
    if !due then s
    else if !waysReady s r then wakeWays s r
    else if r.polOf layer = 2 then kickAll (reserveOffload s r layer)
    else match pickBlocks s r layer with
      | some bs => kickAll (hold (updRun s id fun r => { r with decided := layer :: r.decided }) r layer 0 bs)
      | none => kickAll (demote s r layer true)

/-- Progress of the saddlebags of the run's dies. -/
def beatWays (s : State) (r : BRun) : State := (diesOf r.mask).foldl (fun s d => s.beat (dieCpath d 0x20)) s

/-- The rows of X_i are in the blocks reserved for them. -/
def copyStash (r : BRun) (layer : Nat) (t : Stored) (s : State) : State :=
  let s := beatWays (stashRows s r layer t.blocks) r
  if ended s r.cmd then kickAll s
  else kickAll (updRun (updStored s t fun t => { t with landed := true }) r.cmd fun r => { r with
    copied := layer :: r.copied })

/-- STASH_COPY_LANDED (R175). -/
def execStashCopyLanded (id layer : Nat) (s : State) : Out :=
  onRun id s fun r s =>
    match s.blk.stored.find? fun t => t.cmd == id && t.layer == layer && t.use ≤ 1 && !t.landed with
    | none => s
    | some t => if allHold s r layer then copyStash r layer t s else s

/-! Drains and fetches of offloaded inputs (R183 to R187). -/

/-- The staging blocks of a layer are free again. -/
def freeStaging (r : BRun) (layer : Nat) (s : State) : State :=
  dropStored s fun t => t.cmd == r.cmd && t.layer == layer && t.use == 1

/-- The bytes of an offloaded input go to where it is kept; those of a relayed command through its lead, as
writes of job `drainJob layer`. -/
def putOffload (r : BRun) (o : Offload) (bs : List Byte) (s : State) : State :=
  if o.host then
    match s.cmd? r.cmd with
    | some c => (pieces 0 bs.length).foldl (fun s p =>
        if ended s r.cmd then s
        else hostPut s c o.fn (o.addr + p.1) (slice bs p.1 p.2) noIssuer (drainJob o.layer)) s
    | none => s
  else
    let (s, c) := vaWrite s 4 r.ctx o.addr bs
    if c ≠ 0 then endCmd s r.cmd stAborted else s

/-- The layer's bytes are on their way, or, of a command of this device, in the far tier. -/
def drainOut (r : BRun) (layer : Nat) (o : Offload) (bs : List Byte) (s : State) : State :=
  let s := putOffload r o bs s
  if ended s r.cmd then kickAll s
  else
    let s := (diesOf r.mask).foldl (fun s d => if o.direct then s else sthMove s d (r.dieBytes layer d)) s
    kickAll (updOffload s o fun o => { o with st := 2 })

/-- A direct drain writes the rows of the pads (R183). -/
def drainPads (r : BRun) (layer : Nat) (o : Offload) (s : State) : State :=
  let (s, bs) := (r.parts.filter (·.g == 0)).foldl (fun (a : State × List Byte) p =>
    let (s, b) := partBytes a.1 r p layer
    (s, a.2 ++ b)) (s, [])
  if ended s r.cmd then kickAll s else drainOut r layer o bs s

/-- A drain of staging blocks: words that read uncorrectable lose the input (R181). -/
def drainBlocks (r : BRun) (layer : Nat) (o : Offload) (t : Stored) (s : State) : State :=
  let (s, bad) := sthCheck s 0 (some r.ctx) fun w =>
    (List.range 4).any fun d => sthHas d (t.blocks.getD d []) 0 (r.dieBytes layer d) w
  if bad then kickAll (freeStaging r layer (dropOffload (loseX s r layer) o))
  else drainOut r layer o ((List.range 4).flatMap fun d => sthRead s d (t.blocks.getD d []) 0 (r.dieBytes layer d)) s

/-- OFFLOAD_DRAIN_DONE (R183, R184). -/
def execOffloadDrainDone (id layer : Nat) (s : State) : Out :=
  onRun id s fun r s =>
    match s.blk.offloads.find? fun o => o.cmd == id && o.layer == layer && o.st == 0 with
    | none => s
    | some o =>
      if o.direct then (if allHold s r layer then drainPads r layer o s else s)
      else match s.blk.stored.find? fun t => t.cmd == id && t.layer == layer && t.use == 1 && t.landed with
        | none => s
        | some t => drainBlocks r layer o t s

/-- Some part's backward pass of layer i has begun. -/
def bwdBegun (r : BRun) (i : Nat) : Bool :=
  match r.steps.findIdx? (· = .needX i) with
  | none => false
  | some n => r.pos.any fun q => decide (n ≤ q)

/-- The lowest layer whose backward pass has begun. -/
def bwdLayer (r : BRun) : Nat := ((List.range r.layers.length).find? (bwdBegun r)).getD r.layers.length

/-- Every piece of an offloaded input is asked of the lead, for the saddlebag. -/
def askFetch (r : BRun) (o : Offload) (i : Nat) (s : State) : State :=
  let n := r.xRowBytes i
  (r.parts.filter (·.g == 0)).foldl (fun s p => (List.range 128).foldl (fun s j => (pieces 0 n).foldl (fun s q =>
    let off := rowsOffset r p i + j * n + q.1
    leadRead s r o off q.2 (.sth r.cmd i off)) s) s) s

/-- A fetch begins, where blocks can be reserved; else it tries again at the backward pass of the next layer
(R185). -/
def startFetch (r : BRun) (layer : Nat) (o : Offload) (s : State) : State :=
  match pickBlocks s r layer with
  | some bs =>
    let s := hold s r layer 3 bs
    if viaLead r o then kickAll (askFetch r o layer s) else s
  | none => updOffload s o fun o => { o with tried := bwdLayer r + 1 }

/-- OFFLOAD_FETCH_START (R185, R186). -/
def execOffloadFetchStart (id layer : Nat) (s : State) : Out :=
  onRun id s fun r s =>
    match offloadOf s r layer with
    | none => s
    | some o =>
      let due := r.kind != 0 && bwdBegun r (min (layer + bpLead r.pkt) (r.layers.length - 1))
        && o.tried != bwdLayer r + 1 && (storedOf s r layer).isNone
        && !(s.blk.stored.any fun t => t.cmd == id && t.layer == layer) && !allHold s r layer
      if !due then s else if !waysReady s r then wakeWays s r else startFetch r layer o s

/-- A fetched input is in the blocks reserved for it. -/
def fetchIn (r : BRun) (layer : Nat) (t : Stored) (b : List Byte) (s : State) : State :=
  let s := (List.range 4).foldl (fun s d =>
    let n := r.dieBytes layer d
    if n = 0 then s
    else sthMove (sthWrite s d (t.blocks.getD d []) 0 (slice b (dieOffset r layer d) n)) d n) s
  kickAll (updStored (beatWays s r) t fun t => { t with landed := true })

/-- OFFLOAD_FETCH_DONE (R185, R187). -/
def execOffloadFetchDone (id layer : Nat) (s : State) : Out :=
  onRun id s fun r s =>
    match s.blk.stored.find? (fun t => t.cmd == id && t.layer == layer && t.use == 3 && !t.landed), offloadOf s r layer with
    | some t, some o =>
      if viaLead r o then
        if s.mov.remote.any fun m => match m.dst with
            | .sth c l _ => c == id && l == layer
            | _ => false then s
        else kickAll (updStored (beatWays s r) t fun t => { t with landed := true })
      else
        let (s, b) := offloadBytes s r o layer 0 (r.xBytes layer)
        match b with
        | none => kickAll (dropStored s fun u => u = t)
        | some b => fetchIn r layer t b s
    | _, _ => s

/-- Bytes that a lead read for a fetch land in its blocks, if these are still reserved. -/
def landFetch (s : State) (cmd layer off : Nat) (bs : List Byte) : State :=
  match runOf s cmd, s.blk.stored.find? fun t => t.cmd == cmd && t.layer == layer && t.use == 3 && !t.landed with
  | some r, some t =>
    let d := ((List.range 4).find? fun d =>
      decide (dieOffset r layer d ≤ off) && decide (off < dieOffset r layer d + r.dieBytes layer d)).getD 0
    sthMove (sthWrite s d (t.blocks.getD d []) (off - dieOffset r layer d) bs) d bs.length
  | _, _ => s

/-! Rebuilding (R188, R189). -/

/-- Every part waits for X_i, and no checkpoint holds it. -/
def rebuildDue (s : State) (r : BRun) (i : Nat) : Bool :=
  let at_ := r.pos.headD 0
  i != 0 && r.pos.all (· == at_) && (r.steps[at_]? = some (.needX i) || r.steps[at_]? = some (.loadCk i))
    && !allHold s r i && (storedOf s r i).isNone
    && !(s.blk.stored.any fun t => t.cmd == r.cmd && t.layer == i && t.use ≤ 1)
    && !(s.blk.offloads.any fun o => myTag r o.cmd o.ctx o.tag && o.layer == i && !r.lost.contains i)

/-- The nearest checkpoint below layer i (R188). -/
def checkpoint (s : State) (r : BRun) (i : Nat) : Nat :=
  ((List.range i).reverse.find? fun k => (storedOf s r k).isSome
    || s.blk.offloads.any (fun o => myTag r o.cmd o.ctx o.tag && o.layer == k && !r.lost.contains k)).getD 0

/-- Reserve blocks for layers below i, downwards, while they fit. -/
def keepBelow (r : BRun) (j : Nat) : Nat → State × List Nat → State × List Nat
  | 0, a => a
  | k + 1, a =>
    if k ≤ j then a
    else match pickBlocks a.1 r k with
      | some bs => keepBelow r j k (hold a.1 r k 2 bs, k :: a.2)
      | none => a

/-- The rebuild of X_i from its nearest checkpoint is put before the parts' next step. -/
def rebuildNow (r : BRun) (layer : Nat) (s : State) : State :=
  let j := checkpoint s r layer
  let (s, kept) := keepBelow r j layer (s, [])
  let steps := BStep.loadCk j :: ((List.range layer).filter (j ≤ ·)).flatMap fun m =>
    (if kept.contains m then [BStep.keep m] else []) ++ layerFwd m ((r.layer m).stages.length)
  let n := r.pos.headD 0
  kickAll (updRun s r.cmd fun r => { r with
    rebuilds := r.rebuilds + 1
    steps := r.steps.take n ++ steps ++ r.steps.drop n
    begun := r.begun.map fun _ => 0 })

/-- REBUILD_RUN (R188, R189). -/
def execRebuildRun (id layer : Nat) (s : State) : Out :=
  onRun id s fun r s =>
    if !rebuildDue s r layer then s
    else if !waysReady s r then wakeWays s r
    else rebuildNow r layer s

/-! Parking (R206, R207). -/

/-- The transfer that a core's part of a run waits for. -/
def parkStep (s : State) (core : Nat) : Option State :=
  s.blk.runs.findSome? fun r => (List.range r.parts.length).findSome? fun j =>
    match r.parts[j]?, r.steps[r.pos.getD j 0]? with
    | some p, some step =>
      if p.core == core && r.begun.getD j 0 == 0 && !ended s r.cmd then parkNext s r p (r.pos.getD j 0) step else none
    | _, _ => none

/-- PARK_TRANSFER (R206, R207): the next transfer that the core's step waits for. -/
def execParkTransfer (core : Nat) (s : State) : Out :=
  unitStep (decide (core < 256)) (coreDie core) s fun s =>
    if scrubHolds s core then s else ((parkStep s core).map kickAll).getD s

/-! Patrol and scrubs. -/

/-- Another requester of the die's saddlebag waits: a copy, a drain, a fetch or a scrub (R173, R193). -/
def sthBusy (s : State) (die : Nat) : Bool :=
  s.blk.scrubs.any (·.1 == die)
    || (s.blk.stored.any fun t => !t.away && !(t.blocks.getD die []).isEmpty
      && (!t.landed || s.blk.offloads.any fun o => o.cmd == t.cmd && o.layer == t.layer && o.st != 1 && !o.direct))

/-- STH_PATROL_READ (R181, R193): `word` counts 32-byte words of the die; the check finds one symbol (1), an
uncorrectable word (2), or what is known of the word. -/
def execSthPatrolRead (die word finding : Nat) (s : State) : Out :=
  unitStep (decide (die < 4) && decide (word < 768 * 2048)) die s fun s =>
    if !bit (s.reg (saddleBlk die)) 0 || (gateOf s (fuWay die (word / 2048 / 48))).st != 0 || sthBusy s die then s
    else
      let w := 2 ^ 21 * die + word
      let s := s.onBlk fun b =>
        if finding = 2 then { b with ue := insertAsc w b.ue, sym := b.sym.erase w }
        else if finding = 1 && !b.ue.contains w then { b with sym := insertAsc w b.sym }
        else b
      (sthCheck s 1 none (· == w)).1

end Sys2Proof.Machine
end

