-- ==== Sys2Proof/Machine/Pads.lean ====
section
/-! DEFINITION. The steps of the core pads: patrol, scrubs and bank-group power (R139 to R146). -/
namespace Sys2Proof.Machine

open Sys2Proof

/-- A requester of the core's X port waits (R143): a scrub, or the vector unit. -/
def xWaits (s : State) (core : Nat) : Bool :=
  s.pad.scrubs.any (·.core == core) || (vuFront s core).any (vuReady s)

/-- What a line's check finds new in bank b is digit b of `findings`, in base 4: 1 one symbol in error, 2 or 3
uncorrectable. -/
def foundCells (s : State) (line findings : Nat) : State :=
  (List.range 64).foldl (fun s b =>
    let k := line + b
    let d := findings / 4 ^ b % 4
    s.onPad fun p =>
      if d = 0 then p
      else if d = 1 then (if p.ue.contains k then p else { p with sym := insertAsc k p.sym })
      else { p with ue := insertAsc k p.ue, sym := p.sym.erase k }) s

/-- PAD_PATROL_READ (R139, R143): the next line of the core's patrol, and what its check found from `bank`
up. A gated group wakes, and the patrol waits for it (R146). -/
def execPadPatrolRead (core word bank findings : Nat) (s : State) : Out :=
  unitStep (decide (core < 256) && decide (word < 2048)) (coreDie core) s fun s =>
    if !bit (s.reg (coreBlk core + 0x400)) 0 || word != Tbl.get 0 s.pad.patrol core || xWaits s core then s
    else if 2 ≤ (groupOf s core (word / 256)).st then wakeGroup core s (word / 256)
    else
      let s := s.onPad fun p => { p with patrol := Tbl.set 0 p.patrol core ((word + 1) % 2048) }
      let line := 2 ^ 17 * core + 64 * word
      (checkCells (useWords (foundCells s line (4 ^ (bank % 64) * findings)) core word 1) core 3 none none
        ((List.range 64).map (line + ·))).1

/-- PAD_SCRUB_DONE (R142): the oldest scrub of the core ends. -/
def execPadScrubDone (core : Nat) (s : State) : Out :=
  unitStep (decide (core < 256)) (coreDie core) s fun s =>
    match s.pad.scrubs.find? (·.core == core) with
    | none => s
    | some e => kickAll (s.onPad fun p => { p with scrubs := p.scrubs.erase e })

/-- No bound handle covers a word of the group. -/
def groupUncovered (s : State) (c g : Nat) : Bool := (boundOn s c).all fun (_, e) => !handleInGroup e g

/-- Writes to the group whose issuers have sent or requested the data, and which have still to land (R145). -/
def staleWrites (s : State) (c g : Nat) : Bool :=
  (((s.mov.flight.filter (!·.write)).map (·.dst)) ++ s.mov.remote.map (·.dst)).any fun d => match d with
    | .pad k _ _ _ w => k == c && meets w 2 (256 * g) 256
    | _ => false

/-- BANK_GROUP_GATE_REQUEST (R144, R145 item 1). -/
def execBankGroupGateRequest (core group : Nat) (s : State) : Out :=
  unitStep (decide (core < 256) && decide (group < 8)) (coreDie core) s fun s =>
    let ctl := s.reg (coreBlk core + 0x400)
    let g := groupOf s core group
    if bit ctl 8 && g.st == 0 && groupUncovered s core group && decide (g.lastUse + bits ctl 16 8 ≤ s.nowUs) then
      setGroup s core group 1
    else s

/-- The group is gated: its contents are lost. -/
def gateGroup (s : State) (c g : Nat) : State :=
  let lo := padWordAddr c (256 * g)
  (setGroup s c g 2).onPad fun p => { p with
    mem := memZero p.mem lo (lo + 256 * 1024)
    ue := p.ue.filter fun k => k / 2 ^ 14 != 8 * c + g
    sym := p.sym.filter fun k => k / 2 ^ 14 != 8 * c + g }

/-- BANK_GROUP_GATED (R145 item 3). A bind meanwhile ends the request. -/
def execBankGroupGated (core group : Nat) (s : State) : Out :=
  unitStep (decide (core < 256) && decide (group < 8)) (coreDie core) s fun s =>
    if (groupOf s core group).st != 1 then s
    else if !groupUncovered s core group then setGroup s core group 0
    else if staleWrites s core group then s
    else gateGroup s core group

/-- BANK_GROUP_WAKE_DONE (R146): every cell is zero. -/
def execBankGroupWakeDone (core group : Nat) (s : State) : Out :=
  unitStep (decide (core < 256) && decide (group < 8)) (coreDie core) s fun s =>
    if (groupOf s core group).st = 3 then kickAll (setGroup s core group 0) else s

def gateAbort (s : State) (d : Nat) : State := s.count32 (diePowerBlk d + 0x8) 1

/-- GATE_ABANDON (R145 item 4, R568): kind 0 bank group 8 × core + group, 1 cluster, 2 way
16 × die + way. A gate that nothing holds back proceeds instead. -/
def execGateAbandon (kind unit : Nat) (s : State) : Out :=
  if kind = 0 then
    unitStep (decide (unit < 2048)) (coreDie (unit / 8)) s fun s =>
      let c := unit / 8
      let g := unit % 8
      if (groupOf s c g).st != 1 then s
      else if staleWrites s c g then gateAbort (setGroup s c g 0) (coreDie c)
      else if groupUncovered s c g then gateGroup s c g else setGroup s c g 0
  else if kind = 1 then
    unitStep (decide (unit < 32)) (clusterDie unit) s fun s =>
      if (gateOf s unit).st != 1 then s
      else if clusterTraffic s unit then gateAbort (setGate s unit 0) (clusterDie unit)
      else setGate s unit 2
  else
    unitStep (decide (kind = 2) && decide (unit < 64)) (unit / 16) s fun s =>
      let k := fuWay (unit / 16) (unit % 16)
      if (gateOf s k).st = 1 then gateAbort (setGate s k 0) (unit / 16) else s

end Sys2Proof.Machine
end

