-- ==== Sys2Proof/Machine/Reduce.lean ====
section
/-! DEFINITION. Checked reduction (chapter 9): entry into ALIGNED32, chunks and their checks, adders,
tails and result headers, the step table, and the order in which messages leave. -/
namespace Sys2Proof.Machine

open Sys2Proof

/-! Chunks (R289, R290, R293). -/

def groupMask (g : LaneGroup) : Nat := g.nf % 2 ^ 64

def groupBytes (g : LaneGroup) : List Byte :=
  g.lanes.flatMap (fun v => toLE 4 (unsigned 32 v)) ++ toLE 8 (groupMask g)
    ++ toLE 8 (g.residue % 2 ^ 16 + b2n g.sat * 2 ^ 16 + b2n (g.nf != 0) * 2 ^ 17)

def groupOfBytes (b : List Byte) : LaneGroup where
  lanes := (List.range 64).map fun i => signed 32 (fieldLE b (4 * i) 4)
  nf := fieldLE b 256 8
  residue := fieldLE b 264 2
  sat := bit (fieldLE b 264 8) 16

/-- An exponent as State keeps it. -/
def encExp (e : Int) : Nat := (e + 65536).toNat
def decExp (n : Nat) : Int := (n : Int) - 65536

def chunkBytes (c : Chunk) : List Byte :=
  toLE 2 c.job ++ toLE 1 c.gen ++ toLE 1 c.kind ++ toLE 4 c.serial ++ toLE 4 c.index
    ++ toLE 2 (unsigned 16 (decExp c.exp)) ++ toLE 1 c.groups.length ++ toLE 1 0 ++ toLE 4 c.offset
    ++ List.replicate 12 0#8 ++ c.groups.flatMap groupBytes

def chunkOfBytes (b : List Byte) : Chunk where
  job := fieldLE b 0 2
  gen := fieldLE b 2 1
  kind := fieldLE b 3 1 % 4
  serial := fieldLE b 4 4
  index := fieldLE b 8 4
  exp := encExp (signed 16 (fieldLE b 12 2))
  offset := fieldLE b 16 4
  groups := (List.range (fieldLE b 14 1)).map fun i => groupOfBytes (slice b (32 + 272 * i) 272)

/-- The first group of a chunk that fails its check. -/
def badGroup (c : Chunk) : Option Nat := c.groups.findIdx? (!groupPasses ·)

/-! Headers (R301). -/

def hdrBytes (h : RedHdr) : List Byte :=
  toLE 2 h.job ++ toLE 1 h.gen ++ toLE 1 h.flags ++ toLE 4 h.serial ++ toLE 4 h.step
    ++ toLE 2 (unsigned 16 (decExp h.exp)) ++ toLE 2 h.contrib ++ toLE 4 h.ovfSat ++ toLE 4 h.ovfNonfin
    ++ toLE 4 h.amax ++ toLE 1 h.status ++ List.replicate 3 0#8 ++ toLE 4 h.satGroups ++ toLE 4 h.chunks
    ++ List.replicate 24 0#8

def hdrOfBytes (b : List Byte) : RedHdr where
  job := fieldLE b 0 2
  gen := fieldLE b 2 1
  flags := fieldLE b 3 1
  serial := fieldLE b 4 4
  step := fieldLE b 8 4
  exp := encExp (signed 16 (fieldLE b 12 2))
  contrib := fieldLE b 14 2
  ovfSat := fieldLE b 16 4
  ovfNonfin := fieldLE b 20 4
  amax := fieldLE b 24 4
  status := fieldLE b 28 1
  satGroups := fieldLE b 32 4
  chunks := fieldLE b 36 4

/-- Combine two tails (R301); tails of tensors of other sizes set COUNT_MISMATCH. -/
def addHdr (a b : RedHdr) : RedHdr :=
  { a with
    flags := orNat (orNat a.flags b.flags) (if a.chunks = b.chunks then 0 else 0x10)
    contrib := a.contrib + b.contrib
    ovfSat := satAdd 32 a.ovfSat b.ovfSat
    ovfNonfin := satAdd 32 a.ovfNonfin b.ovfNonfin
    amax := max a.amax b.amax
    satGroups := satAdd 32 a.satGroups b.satGroups }

/-- STATUS of the sum (R303). -/
def hdrStatus (h : RedHdr) (members : Nat) : Nat :=
  if bit h.flags 3 then stResidue
  else if bit h.flags 2 then stAborted
  else if h.contrib ≠ members || bit h.flags 4 then stBadParam
  else stOk

/-! Entry (R287, R288). -/

/-- Enter real values: each narrowing on the lane of its cluster unit; non-finite marks. -/
def enterGroup (c : Cmd) (num : Nat) (e : Int) (lane : Nat → Nat) (xs : List FVal) : Cmd × LaneGroup :=
  let r := xs.foldl (fun (a : Cmd × List Int × Nat × Bool) x =>
    let (c, l, nf, sat) := a
    let (c', w) := narrowElem c 6 (numSlot num) (numSto num) e (lane l.length) x
    let (v, bad) := laneOf w x
    (c', l ++ [v], nf + (if bad then 2 ^ l.length else 0), sat || c'.ovfSat != c.ovfSat)) (c, [], 0, false)
  let lanes := r.2.1 ++ List.replicate (64 - r.2.1.length) 0
  (r.1, { lanes := lanes, nf := r.2.2.1, residue := residue lanes, sat := r.2.2.2 })

/-- The n named clusters of a mask; chunk c is entered by the (c mod n)-th (R312). -/
def chunkCluster (mask c : Nat) : Nat :=
  let l := bitsOf mask 32
  l.getD (c % max 1 l.length) 0

def enterChunk (c : Cmd) (proto : Chunk) (num : Nat) (e : Int) (mask idx : Nat) (xs : List FVal) : Cmd × Chunk :=
  let g := chunkCluster mask idx
  let r := (List.range (ceilDiv xs.length 64)).foldl (fun (a : Cmd × List LaneGroup) k =>
    let (c, gr) := enterGroup a.1 num e (fun j => clusterRedLane g j) (slice xs (64 * k) 64)
    (c, a.2 ++ [gr])) (c, [])
  (r.1, { proto with index := idx, groups := r.2 })

def enterAll (c : Cmd) (proto : Chunk) (num : Nat) (e : Int) (mask : Nat) (xs : List FVal) : Cmd × List Chunk :=
  (List.range (ceilDiv xs.length 1024)).foldl (fun (a : Cmd × List Chunk) i =>
    let (c, k) := enterChunk a.1 proto num e mask i (slice xs (1024 * i) 1024)
    (c, a.2 ++ [k])) (c, [])

/-- Bytes as the lanes of COPY chunks (R290). -/
def copyChunks (proto : Chunk) (first off : Nat) (bs : List Byte) : List Chunk :=
  (List.range (ceilDiv bs.length 4096)).map fun i =>
    let b := slice bs (4096 * i) 4096
    { proto with
      index := first + i
      offset := off + 4096 * i
      groups := (List.range (ceilDiv b.length 256)).map fun k =>
        let d := padTo (slice b (256 * k) 256) 256
        let lanes := (List.range 64).map fun j => signed 32 (fieldLE d (4 * j) 4)
        { lanes := lanes, nf := 0, residue := residue lanes, sat := false } }

/-- The data bytes of a COPY chunk, at most `n`. -/
def copyData (c : Chunk) (n : Nat) : List Byte :=
  (c.groups.flatMap fun g => g.lanes.flatMap fun v => toLE 4 (unsigned 32 v)).take n

/-! The step table (R307, R308). -/

def stepVa (s : State) (x step : Nat) : Nat := (s.ctx x).regions.getD (homeDie s x) 0 + 0x80000 + 32 * (step % 4)

def stepEntry (s : State) (x step : Nat) : List Byte :=
  let (c, pa) := peek s (homeDie s x) x (stepVa s x step) true
  if c = 0 then dpaRead s pa 32 else List.replicate 32 0#8
def setStepEntry (s : State) (x step : Nat) (b : List Byte) : State :=
  let (c, pa) := peek s (homeDie s x) x (stepVa s x step) true
  if c = 0 then (dpaWrite s pa b).1 else s

def steFlags (b : List Byte) : Nat := fieldLE b 4 1
def steSealed (b : List Byte) : Bool := bit (steFlags b) 2
/-- The entry serves step n. -/
def steFor (b : List Byte) (n : Nat) : Bool := bit (steFlags b) 0 && fieldLE b 0 4 == n

/-- A collective naming step n is issued: the state, or a refusal. -/
def stepIssue (s : State) (x n : Nat) : Option State :=
  let b := stepEntry s x n
  if steFor b n then some s
  else if !bit (steFlags b) 0 || steSealed b then
    some (setStepEntry s x n (toLE 4 n ++ toLE 1 1 ++ List.replicate 27 0#8))
  else none

def orStepFlags (s : State) (x n f : Nat) : State :=
  let b := stepEntry s x n
  if steFor b n then setStepEntry s x n (patch b 4 (toLE 1 (orNat (steFlags b) f))) else s

/-! Collectives. -/

def updColl (s : State) (cmd serial : Nat) (f : Coll → Coll) : State :=
  s.onRed fun r => { r with colls := r.colls.map fun c => if c.cmd == cmd && c.serial == serial then f c else c }
def collOf (s : State) (cmd serial : Nat) : Option Coll :=
  s.red.colls.find? fun c => c.cmd == cmd && c.serial == serial
def dropColl (s : State) (cmd serial : Nat) : State :=
  s.onRed fun r => { r with colls := r.colls.filter fun c => !(c.cmd == cmd && c.serial == serial) }

/-- The reduction that a message of a job names on this device (R299). -/
def collFor (s : State) (job serial : Nat) : Option Coll :=
  s.red.colls.find? fun c => c.job == job && c.serial == serial && c.gen == s.gen c.ctx

def Coll.isCopy (c : Coll) : Bool := c.kind == 3 || c.kind == 5
/-- Sums or blocks of this reduction are no longer used (R292, R297). -/
def Coll.failing (c : Coll) : Bool := c.resFail || c.expMismatch

/-! Sending (R296, R298, R300). -/

/-- A chunk leaves unit `u`, which may have an injection armed (R321). -/
def injectSend (s : State) (u : Nat) (c : Chunk) : State × Chunk :=
  let (s, gs) := injectGroups s u c.groups
  (s, { c with groups := gs })

/-- A chunk leaves unit `u` for another device. -/
def transmit (s : State) (u dest ctx : Nat) (c : Chunk) : State :=
  let (s, k) := injectSend (countOut s u) u c
  sendPkt s { mkPkt 0x21 2 dest (chunkBytes k) with job := c.job, gen := c.gen, ctx := ctx, tag := c.serial }

def sendHdr (s : State) (type dest ctx gen : Nat) (h : RedHdr) : State :=
  sendPkt s { mkPkt type 2 dest (hdrBytes h) with job := h.job, gen := gen, ctx := ctx, tag := h.serial }

/-- Whether the first message of the queue toward its destination and reduction may leave. -/
def mayLeave (s : State) (o : RedOut) : Bool :=
  let same := fun (d n : Nat) => d == o.dest && n == o.serial
  match o.msg with
  | .chunk _ => decide ((s.red.retain.filter (·.unit == o.unit)).length < 64)
  | .hdr _ _ => !(s.red.retain.any fun r => r.cmd == o.cmd && same r.dest r.chunk.serial)

/-- The first message that may leave: none earlier of its reduction goes to the same device. -/
def nextOut (s : State) : List RedOut → List RedOut → Option RedOut
  | _, [] => none
  | before, o :: t =>
    if !(before.any fun b => b.dest == o.dest && b.serial == o.serial && b.cmd == o.cmd) && mayLeave s o then some o
    else nextOut s (before ++ [o]) t

def leave (s : State) (o : RedOut) : State :=
  let s := s.onRed fun r => { r with sendq := r.sendq.erase o }
  match o.msg with
  | .chunk c =>
    transmit (s.onRed fun r => { r with
      retain := r.retain ++ [{ unit := o.unit, dest := o.dest, cmd := o.cmd, ctx := o.ctx, chunk := c, refused := false }] })
      o.unit o.dest o.ctx c
  | .hdr t h => sendHdr s t o.dest o.ctx o.gen h

def pumpReds : Nat → State → State
  | 0, s => s
  | n + 1, s => match nextOut s [] s.red.sendq with
    | some o => pumpReds n (leave s o)
    | none => s

def queueOut (s : State) (c : Coll) (unit dest : Nat) (m : RedMsg) : State :=
  s.onRed fun r => { r with
    sendq := r.sendq ++ [{ unit := unit, dest := dest, cmd := c.cmd, ctx := c.ctx, gen := c.gen, job := c.job,
                           serial := c.serial, msg := m }] }

/-- Everything sent for a reduction has been acknowledged. -/
def outClear (s : State) (c : Coll) : Bool :=
  !(s.red.sendq.any fun o => o.cmd == c.cmd && o.serial == c.serial)
    && !(s.red.retain.any fun r => r.cmd == c.cmd && r.chunk.serial == c.serial)

/-! Checks (R294 to R297). -/

/-- A check of chunk `idx` failed at unit `u`: ask again, or after the fourth fail the reduction. -/
def checkFailed (s : State) (c : Coll) (u idx group kind : Nat) : State × Bool :=
  let k := 2 ^ 32 * u + idx
  let n := Tbl.get 0 c.retries k
  let s := redEvent s u 0 c.serial c.job group kind idx
  if 3 ≤ n then
    let s := (redEvent s u 1 c.serial c.job group kind idx).count32 (redBlk u + 0x40) 1
    (s, true)
  else
    let s := s.count64 (redBlk u + 0x30) 1
    (updColl s c.cmd c.serial fun c => { c with
      retries := Tbl.insert c.retries k (n + 1)
      retx := min 255 (c.retx + 1) }, false)

def ackChunk (s : State) (k : FPkt) (c : Chunk) : State :=
  sendPkt s { answer k 0x17 [] with addr := c.index, aux := c.kind }
def againChunk (s : State) (dest : Nat) (ctx gen : Nat) (c : Chunk) : State :=
  sendPkt s { mkPkt 0x18 1 dest [] with job := c.job, gen := gen, ctx := ctx, tag := c.serial, addr := c.index, aux := c.kind }

/-! Adding (R291, R292). -/

/-- A received chunk of lanes, and how many of them are the value no unit produces (R45). The lanes of a
COPY chunk are bytes of data and stay as they are. -/
def takeChunk (c : Chunk) : Chunk × Nat :=
  if c.kind = 2 then (c, 0)
  else
    let r := c.groups.map takeGroup
    ({ c with groups := r.map (·.1) }, sumNat (r.map (·.2)))

def countSats (s : State) (cmd n : Nat) : State := s.updCmd cmd fun m => { m with ovfSat := satAdd 32 m.ovfSat n }

/-- Sum of two chunks, the lanes that saturated, and the groups this unit saturated. A tensor of fewer
elements has lanes of 0 there. -/
def addChunks (a b : Chunk) : Chunk × Nat × Nat :=
  let n := max a.groups.length b.groups.length
  let fill := fun (l : List LaneGroup) => l ++ List.replicate (n - l.length) zeroGroup
  let r := List.zipWith addGroups (fill a.groups) (fill b.groups)
  ({ a with groups := r.map (·.1) }, sumNat (r.map (·.2)), (r.filter (·.2 != 0)).length)

/-- The acknowledgement of a chunk from child `j`. -/
def ackChild (s : State) (c : Coll) (j : Nat) (k : Chunk) : State :=
  sendPkt s { mkPkt 0x17 1 (c.children.getD j 0) [] with
    job := c.job, gen := k.gen, ctx := c.ctx, tag := c.serial, addr := k.index, aux := k.kind }

/-- A reduction that has failed accepts and discards the chunks that wait for their partners (R292,
R297). -/
def discardHeld (s : State) (cmd serial : Nat) : State :=
  match collOf s cmd serial with
  | none => s
  | some c =>
    let held := c.inputs.filter (·.1 != 8)
    let s := updColl s cmd serial fun c => { c with inputs := c.inputs.filter (·.1 == 8) }
    if c.kind = 4 then s
    else held.foldl (fun s e => (ackChild s c e.1 e.2.2).beat (redCpath (32 + e.2.1))) s

/-- The partial sum meets child `j`'s chunk at the unit of its port (R311). -/
def addStage (s : State) (c : Coll) (held : Chunk) (port : Nat) (k : Chunk) (child : Nat) : State :=
  let u := 32 + port
  let drop := fun (s : State) => updColl s c.cmd c.serial fun c => { c with
    inputs := c.inputs.filter fun e => !(e.1 == child && e.2.2.index == k.index) }
  -- the previous unit sends its partial sum here
  let (s, mine) := injectSend (countOut s c.unit) c.unit held
  let (mine, bad) := takeChunk mine
  let (h, bad') := takeChunk k
  if mine.exp ≠ k.exp then
    let s := redEvent s u 2 c.serial c.job 0 0 k.index
    discardHeld (updColl s c.cmd c.serial fun c => { c with expMismatch := true }) c.cmd c.serial
  else
    let (sum, lanes, groups) := addChunks mine h
    let lanes := lanes + bad + bad'
    let other := mine.groups.length != h.groups.length
    match badGroup sum with
    | none =>
      let s := passIn (ackChild (drop s) c child k) u
      let s := s.count64 (redBlk u + 0x38) groups
      let s := countSats s c.cmd lanes
      updColl s c.cmd c.serial fun c => { c with
        part := some sum
        stage := c.stage + 1
        unit := u
        hdr := { c.hdr with
          ovfSat := satAdd 32 c.hdr.ovfSat lanes
          satGroups := satAdd 32 c.hdr.satGroups groups
          flags := orNat c.hdr.flags (b2n (groups != 0) * 0x20 + b2n other * 0x10) } }
    | some g =>
      let (s, dead) := checkFailed s c u k.index g 0
      if dead then discardHeld (updColl s c.cmd c.serial fun c => { c with resFail := true }) c.cmd c.serial
      else againChunk (drop s) (c.children.getD child 0) c.ctx k.gen k

/-- One step of the sum of chunk `next`. -/
def upSum (s : State) (c : Coll) : Option State :=
  if c.failing || c.nChunks ≤ c.next then none
  else match c.part with
    | none => (c.own[c.next]?).map fun k => updColl s c.cmd c.serial fun c => { c with
        part := some k
        stage := 0
        unit := chunkCluster c.clusters c.next }
    | some k =>
      if c.children.length ≤ c.stage then
        let s := updColl s c.cmd c.serial fun c => { c with
          next := c.next + 1
          part := none
          sums := if c.root then c.sums ++ [k] else c.sums }
        some (if c.root then s else queueOut s c c.unit c.parent (.chunk k))
      else
        match c.inputs.find? fun e => e.1 == c.stage && e.2.2.index == c.next with
        | some e => some (addStage s c k e.2.1 e.2.2 c.stage)
        | none =>
          -- a child whose tail is here sends no further chunk (R298)
          if c.tails.any (·.1 == c.stage) then
            some (updColl s c.cmd c.serial fun c => { c with stage := c.stage + 1 })
          else none

/-- One step of a concatenation (ALLGATHER, R314): this member's chunks, then each child's. The
stream is numbered anew at each member. `stage` is the stream that runs, `next` the chunks sent. -/
def upCat (s : State) (c : Coll) : Option State :=
  if c.resFail then none
  else if c.stage = 0 then
    if c.own.length ≤ c.next then some (updColl s c.cmd c.serial fun c => { c with stage := 1 })
    else (c.own[c.next]?).map fun k =>
      let s := updColl s c.cmd c.serial fun c => { c with
        next := c.next + 1
        sums := if c.root then c.sums ++ [k] else c.sums }
      if c.root then s else queueOut s c (chunkCluster c.clusters c.next) c.parent (.chunk { k with index := c.next })
  else if c.children.length < c.stage then none
  else
    let child := c.stage - 1
    match c.inputs.find? (·.1 == child) with
    | some e =>
      let s := updColl s c.cmd c.serial fun c => { c with
        inputs := c.inputs.erase e
        next := c.next + 1
        sums := if c.root then c.sums ++ [e.2.2] else c.sums }
      some (if c.root then s else queueOut s c (32 + e.2.1) c.parent (.chunk { e.2.2 with index := c.next, gen := c.gen }))
    | none =>
      if c.tails.any (·.1 == child) then some (updColl s c.cmd c.serial fun c => { c with stage := c.stage + 1 }) else none

/-- The way up is complete: every chunk is added or the reduction has failed, and every child's tail
is here. -/
def upDone (c : Coll) : Bool :=
  c.tails.length == c.children.length
    && (c.failing || (if c.kind = 4 then decide (c.children.length < c.stage) else decide (c.nChunks ≤ c.next)))

/-- The combined tail of a member. -/
def combined (s : State) (c : Coll) : RedHdr :=
  let h := c.tails.foldl (fun h t => addHdr h t.2) c.hdr
  let nf := c.seals && bit (steFlags (stepEntry s c.ctx c.step)) 1 && steFor (stepEntry s c.ctx c.step) c.step
  { h with flags := orNat h.flags (b2n nf + b2n c.seals * 2 + b2n c.expMismatch * 4 + b2n c.resFail * 8) }

/-! Delivery (R304). -/

def laneReal (c : Chunk) (g : LaneGroup) (j : Nat) : FVal :=
  if bit g.nf j then .nan else fscale (.ofInt (g.lanes.getD j 0)) (decExp c.exp)

/-- Convert the lanes of a summed chunk: narrowed by the numeric word on the lanes of unit `u`;
non-finite marks become the canonical NaN, uncounted. -/
def deliverElems (s : State) (cmd u num n : Nat) (k : Chunk) : State × List Nat :=
  s.narrow cmd [] fun c =>
    let vals := (List.range n).map fun i => (i, k.groups.getD (i / 64) ⟨[], 0, 0, false⟩)
    vals.foldl (fun (a : Cmd × List Nat) e =>
      let j := e.1 % 64
      let lane := if u < 32 then clusterRedLane u j else portRedLane (u - 32) j
      let (c, w) := narrowDelivered a.1 num lane (bit e.2.nf j) (laneReal k e.2 j)
      (c, a.2 ++ [w])) (c, [])

def putAt (l : List Nat) (off : Nat) (vs : List Nat) : List Nat := l.take off ++ vs ++ l.drop (off + vs.length)

/-- Deliver chunk `k` of a sum at unit `u`: to memory, or to the factors of a REDUCE_LR. -/
def deliverChunk (s : State) (c : Coll) (u : Nat) (k : Chunk) : State :=
  let n := min 1024 (c.elems - 1024 * k.index)
  let (s, vs) := deliverElems s c.cmd u c.destNum n k
  let s := s.beat (redCpath u)
  if c.kind = 1 || c.kind = 2 then
    s.onRed fun r => { r with
      lrs := r.lrs.map fun l => if l.cmd == c.cmd then
          (if c.kind = 1 then { l with pHat := putAt l.pHat (1024 * k.index) vs }
           else { l with qHat := putAt l.qHat (1024 * k.index) vs })
        else l }
  else
    let f := numFmt c.destNum
    let (s, cause) := vaWrite s (homeDie s c.ctx) c.ctx (c.destAddr + 1024 * k.index * fmtBytes f) (elemBytes f vs)
    if cause ≠ 0 then endCmd s c.cmd stAborted else s

/-- Write the data of a COPY chunk to the destination. -/
def writeCopy (s : State) (c : Coll) (k : Chunk) : State :=
  let total := if c.kind = 4 then c.elems * c.members else c.elems
  let (s, cause) := vaWrite s (homeDie s c.ctx) c.ctx (c.destAddr + k.offset)
    (copyData k (total - k.offset))
  if cause ≠ 0 then endCmd s c.cmd stAborted else s

/-! Completion of a collective (R305, R306, R309, R315). -/

def Coll.word (c : Coll) (h : RedHdr) (sealed_ : Bool) : Nat :=
  b2n (bit h.flags 0) + b2n (bit h.flags 2) * 2 + b2n sealed_ * 4 + b2n c.downFail * 8 + c.retx * 2 ^ 8
    + min 65535 h.satGroups * 2 ^ 16

/-- The step table and the scale push of a collective that ends (R61, R308, R309). -/
def stepEnd (s : State) (c : Coll) (h : RedHdr) (st : Nat) : State :=
  if c.kind = 3 || c.kind = 4 || c.kind = 5 then s
  else
    let s := if bit h.flags 0 then orStepFlags s c.ctx c.step 2 else s
    let s := if c.seals && st == 0 && steFor (stepEntry s c.ctx c.step) c.step then
        let b := stepEntry s c.ctx c.step
        let b := patch b 4 (toLE 1 (orNat (steFlags b) (4 + 8 * b2n (bit h.flags 0))))
        setStepEntry s c.ctx c.step (patch b 8 (toLE 4 h.ovfSat ++ toLE 4 h.ovfNonfin))
      else s
    s.updCmd c.cmd fun k => { k with pushOver := Tbl.insert k.pushOver (numSlot c.redNum) h.amax }

/-- Status of the member's command: the header's, or RESIDUE_FAIL below a failed path. -/
def Coll.ends (c : Coll) (h : RedHdr) : Nat := if c.downFail then stResidue else h.status

def writeHdr (s : State) (c : Coll) (h : RedHdr) : State :=
  if c.hdrAddr = 0 then s
  else
    let (s, cause) := vaWrite s (homeDie s c.ctx) c.ctx c.hdrAddr (hdrBytes h)
    if cause ≠ 0 then endCmd s c.cmd stAborted else s

/-- A member's collective ends with header `h`. It leaves its place once nothing more comes down. -/
def endColl (s : State) (c : Coll) (h : RedHdr) : State :=
  let st := c.ends h
  let s := stepEnd s c h st
  let s := writeHdr s c h
  let s := s.updCmd c.cmd fun k => { k with
    csw := c.word h (c.seals && st == 0)
    status := max k.status st }
  let s := if 0x10 ≤ st then openRegions s c.ctx c.outRegions else s
  if c.kind = 3 && c.got.length < c.nChunks && !c.root then
    updColl s c.cmd c.serial fun c => { c with done := true }
  else dropColl s c.cmd c.serial

/-- A header that reports a failed path below the root (R305): only its residue flag is used. -/
def failHdr (c : Coll) : RedHdr := { c.hdr with flags := 8, status := stResidue }

/-! REDUCE_LR (R317). -/

def f32Add (a b : Nat) : Nat := toF32 (add32 (ofF32 a) (ofF32 b))

/-- Core that computes row i, and whose lanes narrow it (assumption log 40): slices of 128 rows over the
cores of the clusters. -/
def lrCore (mask i : Nat) : Nat :=
  let l := bitsOf mask 32
  let n := i / 128 % (8 * max 1 l.length)
  8 * l.getD (n / 8) 0 + n % 8

/-- Narrow FP32 operands to BF16 by `LR_NUM`, rows of `w` elements. -/
def lrNarrow (s : State) (cmd num mask w : Nat) (l : List Nat) : State × List FVal :=
  let (s, r) := s.narrow cmd [] fun c =>
    narrowList c num (fun i => coreLane (lrCore mask (i / max 1 w)) 6 (i % max 1 w % 128)) (l.map ofF32)
  (s, r.map (decodeElem 1))

/-- A product of m × k and k × n operands, drained in FP32 (R54). -/
def lrProduct (s : State) (cmd x num mask m k n : Nat) (a b : Nat → Nat → FVal) : State × List Nat :=
  let e := -2 * expOf s cmd num
  let s := s.charge x acOps (4 * m * k * n)
  (List.range (m * n)).foldl (fun (acc : State × List Nat) i =>
    let v := freeSum addX acc.1.free (.zero true :: (List.range k).map fun t => fmul (a (i / n) t) (b t (i % n)))
    let (s, w) := { acc.1 with free := acc.1.free + k + 1 }.narrow cmd 0 fun c =>
      narrowElem c 0 0 false 0 (coreLane (lrCore mask (i / n)) (i / n % 128 / 64) (i % n % 64)) (fscale v e)
    (s, acc.2 ++ [w])) (s, [])

/-- One column of the modified Gram-Schmidt, in FP32: sums in an open order (R107). -/
def orthoCol (m r j : Nat) (s : State) (l : List Nat) : State × List Nat :=
  let col := fun (l : List Nat) (c : Nat) => (List.range m).map fun i => ofF32 (l.getD (i * r + c) 0)
  let sum := fun (s : State) (xs : List FVal) => ({ s with free := s.free + xs.length }, freeSum add32 s.free xs)
  let (s, l) := (List.range j).foldl (fun (a : State × List Nat) i =>
    let (s, d) := sum a.1 (List.zipWith (fun u v => f32 (fmul u v)) (col a.2 i) (col a.2 j))
    (s, (List.range m).foldl (fun l t =>
      l.set (t * r + j) (toF32 (add32 (ofF32 (l.getD (t * r + j) 0)) (f32 (fmul d (ofF32 (l.getD (t * r + i) 0)))).neg)))
      a.2)) (s, l)
  let (s, q) := sum s ((col l j).map fun v => f32 (fmul v v))
  let norm := f32 (bsqrt q)
  (s, (List.range m).foldl (fun l t =>
    l.set (t * r + j) (if q.isZero then 0 else toF32 (bdiv (ofF32 (l.getD (t * r + j) 0)) norm))) l)

def orthonormalise (m r : Nat) (s : State) (l : List Nat) : State × List Nat :=
  (List.range r).foldl (fun a j => orthoCol m r j a.1 a.2) (s, l)

def LrState.par (l : LrState) (off n : Nat) : Nat := fieldLE l.params off n

/-- The header a contribution starts with. -/
def startHdr (c : Cmd) (job serial step exp chunks : Nat) (ks : List Chunk) (nf : Bool) (amax : Nat) : RedHdr :=
  let sat := (ks.flatMap (·.groups)).filter (·.sat)
  { job := job, gen := c.gen
    flags := b2n (nf || ks.any fun k => k.groups.any (·.nf != 0)) + b2n (!sat.isEmpty) * 2 ^ 5
    serial := serial, step := step, exp := exp, contrib := 1, ovfSat := c.ovfSat, ovfNonfin := c.ovfNonfin,
    amax := amax, status := 0, satGroups := sat.length, chunks := chunks }

/-- Tails that came before the issue, and the devices whose chunks were refused (R300). -/
def absorbEarly (s : State) (c : Coll) : State :=
  let mine := s.red.early.filter fun e => e.2.job == c.job && e.2.serial == c.serial
  let waits := s.red.refusedHere.filter fun e => e.2.1 == c.job && e.2.2.1 == c.serial
  let s := s.onRed fun r => { r with
    early := r.early.filter fun e => !(e.2.job == c.job && e.2.serial == c.serial)
    refusedHere := r.refusedHere.filter fun e => !(e.2.1 == c.job && e.2.2.1 == c.serial)
    colls := r.colls ++ [{ c with
      tails := (List.range c.children.length).filterMap fun i =>
        (mine.find? fun e => e.1 == c.children.getD i 0).map fun e => (i, e.2) }] }
  (dedupNat (waits.map (·.1))).foldl (fun s d =>
    sendPkt s { mkPkt 0x1A 1 d [] with job := c.job, gen := c.gen, ctx := c.ctx, tag := c.serial }) s

/-- Start an all-reduce of FP32 factors. -/
def startFactor (s : State) (l : LrState) (base : Coll) (kind : Nat) (vals : List Nat) (nf : Bool) : State :=
  let num := if kind = 1 then l.par 88 4 else l.par 92 4
  let serial := l.par 80 4 + (if kind = 1 then 0 else 1)
  let h : Int := clog2 base.members
  let e := expOf s l.cmd num
  let proto : Chunk := { job := base.job, gen := base.gen, kind := 0, serial := serial, index := 0,
                         exp := encExp (h - e), offset := 0, groups := [] }
  let xs := vals.map ofF32
  let (s, ks) := s.narrow l.cmd [] fun c => enterAll c proto num (e - h) base.clusters xs
  match s.cmd? l.cmd with
  | none => s
  | some c =>
    absorbEarly s { base with
      kind := kind
      serial := serial
      nChunks := ks.length
      elems := vals.length
      exp := encExp (h - e)
      redNum := num
      destNum := 0
      seals := kind == 2 && bit (l.par 100 4) 0
      hdrAddr := if l.par 112 8 = 0 then 0 else l.par 112 8 + (if kind = 1 then 0 else 64)
      own := ks
      next := 0
      part := none
      stage := 0
      got := []
      tails := []
      inputs := []
      retries := []
      retx := 0
      sums := []
      result := none
      tailSent := false
      expMismatch := false
      resFail := false
      downFail := false
      done := false
      hdr := startHdr c base.job serial base.step (encExp (h - e)) ks.length ks nf
        (xs.foldl (fun a x => max a (maxBits x)) 0) }

/-- The P reduction has ended with OK: orthonormalise, form Q and reduce it. -/
def lrAfterP (s : State) (c : Coll) (h : RedHdr) (l : LrState) : State :=
  let jobNf := bit h.flags 0
  let (s, p) := orthonormalise l.m l.r s l.pHat
  let num := l.par 96 4
  let (s, q) := if jobNf then (s, List.replicate (l.n * l.r) 0)
    else
      let (s, a) := lrNarrow s l.cmd num c.clusters l.n l.mm
      let (s, b) := lrNarrow s l.cmd num c.clusters l.r p
      lrProduct s l.cmd c.ctx num c.clusters l.n l.m l.r (fun i t => a.getD (t * l.n + i) .nan) fun t j => b.getD (t * l.r + j) .nan
  let l' := { l with pHat := p, q := q, qHat := List.replicate (l.n * l.r) 0, jobNf := jobNf }
  let s := s.onRed fun r => { r with lrs := r.lrs.map fun k => if k.cmd == l.cmd then l' else k }
  startFactor (dropColl s c.cmd c.serial) l' c 2 q jobNf

def lrWrite (s : State) (x cmd va : Nat) (vals : List Nat) : State :=
  if ended s cmd then s
  else
    let (s, c) := vaWrite s (homeDie s x) x va (elemBytes 0 vals)
    if c ≠ 0 then endCmd s cmd stAborted else s

def lrRead (s : State) (x cmd va n : Nat) : State × List Nat :=
  let (s, c, b) := vaRead s (homeDie s x) x va (4 * n)
  if c ≠ 0 then (endCmd s cmd stAborted, []) else (s, bytesElems 0 b)

/-- The Q reduction has ended with OK: residual, warm start, factors and the root's product. -/
def lrAfterQ (s : State) (c : Coll) (l : LrState) : State :=
  let x := c.ctx
  let num := l.par 96 4
  let prod := fun (s : State) (q : List Nat) =>
    let (s, a) := lrNarrow s l.cmd num c.clusters l.r l.pHat
    let (s, b) := lrNarrow s l.cmd num c.clusters l.r q
    lrProduct s l.cmd x num c.clusters l.m l.r l.n (fun i t => a.getD (i * l.r + t) .nan) fun t j => b.getD (j * l.r + t) .nan
  let s := if l.jobNf then
      let (s, res) := lrRead s x l.cmd (l.par 8 8) (l.m * l.n)
      let (s, q) := lrRead s x l.cmd (l.par 24 8) (l.n * l.r)
      lrWrite (lrWrite s x l.cmd (l.par 16 8) res) x l.cmd (l.par 32 8) q
    else
      let (s, pq) := prod s l.q
      let res := List.zipWith (fun a b => toF32 (add32 (ofF32 a) (ofF32 b).neg)) l.mm pq
      lrWrite (lrWrite s x l.cmd (l.par 16 8) res) x l.cmd (l.par 32 8) l.qHat
  let s := lrWrite s x l.cmd (l.par 40 8) l.pHat
  if c.root && l.par 48 8 != 0 && !ended s l.cmd then
    let (s, d) := prod s l.qHat
    lrWrite s x l.cmd (l.par 48 8) d
  else s

def dropLr (s : State) (cmd : Nat) : State := s.onRed fun r => { r with lrs := r.lrs.filter (·.cmd != cmd) }

/-- A member's reduction ends with header `h`; a REDUCE_LR goes on after OK. -/
def finishColl (s : State) (c : Coll) (h : RedHdr) : State :=
  match s.red.lrs.find? (·.cmd == c.cmd) with
  | none => endColl s c h
  | some l =>
    if c.ends h ≠ 0 then dropLr (endColl s c h) c.cmd
    else if c.kind = 1 then
      let s := writeHdr (stepEnd s c h 0) c h
      if ended s c.cmd then s else lrAfterP s c h l
    else
      let s := lrAfterQ s c l
      if ended s c.cmd then s else dropLr (endColl s c h) c.cmd

/-! Progress of a collective. -/

/-- The unit at which the last add took place, or that made the entry (R304). -/
def Coll.outUnit (c : Coll) : Nat := c.unit

/-- The root has every tail: STATUS, delivery, and what goes down (R303 to R305). -/
def rootDecides (s : State) (c : Coll) (h : RedHdr) : State :=
  let st := hdrStatus h c.members
  let h := { h with status := st }
  let s := updColl s c.cmd c.serial fun c => { c with tailSent := true, result := some h }
  if st ≠ 0 then s
  else if c.kind = 4 then
    let s := c.sums.foldl (fun s k => writeCopy s c k) s
    if ended s c.cmd then s
    else (c.sums.zipIdx).foldl (fun s e =>
      c.children.foldl (fun s d => queueOut s c c.outUnit d (.chunk { e.1 with kind := 2, index := e.2, gen := c.gen })) s) s
  else
    let s := c.sums.foldl (fun s k => if ended s c.cmd then s else deliverChunk s c c.outUnit k) s
    if ended s c.cmd || !c.all then s
    else c.sums.foldl (fun s k =>
      c.children.foldl (fun s d => queueOut s c c.outUnit d (.chunk { k with kind := 1, gen := c.gen })) s) s

/-- Send the result header to every child, and end here. -/
def sendResult (s : State) (c : Coll) (h : RedHdr) : State :=
  finishColl (c.children.foldl (fun s d => queueOut s c c.outUnit d (.hdr 0x23 { h with gen := c.gen })) s) c h

/-- A sum's root with no children delivers what its cluster unit entered: the unit checks it. -/
def soloUnit (c : Coll) : Bool := c.root && c.children.isEmpty && c.kind != 4

/-- One step of a collective on this device. -/
def collStep (s : State) (c : Coll) : Option State :=
  if c.done then none
  else if c.isCopy then
    if c.root && c.kind == 3 && outClear s c then some (finishColl s c { c.hdr with status := 0 }) else none
  else if c.tailSent then
    match c.result with
    | some h => if c.root then some (sendResult s c h) else none
    | none => none
  else match (if c.kind = 4 then upCat s c else upSum s c) with
    | some s => some s
    | none =>
      if !upDone c then none
      else if c.root then some (rootDecides s c (combined s c))
      else if outClear s c then
        let h := combined s c
        let s := if bit h.flags 0 && c.kind != 4 then orStepFlags s c.ctx c.step 2 else s
        some (queueOut (updColl s c.cmd c.serial fun c => { c with tailSent := true }) c c.unit c.parent (.hdr 0x22 h))
      else none

def collsStep (s : State) : Option State := s.red.colls.findSome? (collStep s)

/-- Every collective takes the steps it can, and what may leave leaves. -/
def kickReds : Nat → State → State
  | 0, s => s
  | n + 1, s =>
    let s := pumpReds 4096 s
    match collsStep s with
    | some s => kickReds n s
    | none => s

def kickRed (s : State) : State := kickReds 100000 s

end Sys2Proof.Machine
end

