-- ==== Sys2Proof/Machine/Collectives.lean ====
section
/-! DEFINITION. The collective commands and the packets of checked reduction (R296 to R318, R321). -/
namespace Sys2Proof.Machine

open Sys2Proof

/-! Tree records (R311). -/

structure Tree where
  root : Bool
  parent : Nat
  children : List Nat
  /-- a reserved field is not 0, or CHILDREN is above 8 -/
  bad : Bool
  deriving DecidableEq, Repr

def treeOf (b : List Byte) : Tree where
  root := bit (fieldLE b 0 2) 15
  parent := fieldLE b 0 2 % 4096
  children := (List.range (min 8 (fieldLE b 2 1))).map fun j => fieldLE b (4 + 2 * j) 2 % 4096
  bad := bits (fieldLE b 0 2) 12 3 != 0 || decide (8 < fieldLE b 2 1) || fieldLE b 3 1 != 0
    || !allZero (b.drop 20) || (List.range 8).any fun j => fieldLE b (4 + 2 * j) 2 / 4096 != 0

def Tree.named (t : Tree) : List Nat := (if t.root then [] else [t.parent]) ++ t.children

/-- The rules of R313 and R395 on a tree record. -/
def treeStatus (s : State) (t : Tree) : Nat :=
  if t.bad || t.named.any (fun d => d == s.devId || actPort s d == rpAbsent) then stBadParam
  else if t.named.all (levelShared s) then stOk else stLevel

/-- Read a tree record: a cause, and the record. A record that is not aligned is a bad parameter. -/
def readTree (s : State) (x va : Nat) : State × Nat × Tree :=
  if va % 64 ≠ 0 then (s, 0, { treeOf [] with bad := true })
  else
    let (s, c, b) := vaRead s (homeDie s x) x va 64
    (s, c, treeOf b)

/-! Issue (R300, R308, R309, R313). -/

/-- Collective commands, and owner entries of an UPDATE, in progress on the device (R300, R333). -/
def collectives (s : State) : Nat :=
  (s.red.colls.filter fun c => !c.done && (c.kind == 0 || c.kind == 3 || c.kind == 4)).length + s.red.lrs.length
    + (s.upd.entries.filter fun e => !e.replica && decide (1 ≤ e.phase) && decide (e.phase ≤ 4)
        && (s.upd.cmds.find? (·.cmd == e.cmd)).all (!·.precond)).length

/-- Those that still wait for a place: the head packet of a queue, and the update die (R33). -/
def placesWanted (s : State) : List Nat := s.red.placeWait.filter fun r =>
  if r < 256 then (s.headPkt r).any fun p => [0x30, 0x31, 0x32, 0x33].contains p.op && mayIssue s r p
  else s.upd.entries.any fun e => !e.replica && e.phase == 0
    && (s.upd.cmds.find? (·.cmd == e.cmd)).all (!·.precond)

/-- Requester `r` asks for a place: granted when one is free and no one asked before it (R33, R300). -/
def askPlace (s : State) (r : Nat) : State × Bool :=
  let l := placesWanted s
  let ok := decide (collectives s < 64) && (l.head?.getD r == r)
  (s.onRed fun d => { d with
    placeWait := if ok then l.filter (· != r) else if l.contains r then l else l ++ [r] }, ok)

/-- Every earlier collective of the context for the step has sent its tail. -/
def tailsSent (s : State) (x step : Nat) : Bool :=
  (s.red.colls.all fun c => c.ctx != x || c.step != step || c.isCopy || c.kind == 4 || c.tailSent)
    && s.red.lrs.all fun l => (s.cmd? l.cmd).all (fun c => c.ctx != x) || l.par 84 4 != step
        || s.red.colls.any fun c => c.cmd == l.cmd && c.kind == 2 && c.tailSent

def emptyHdr : RedHdr := ⟨0, 0, 0, 0, 0, 0, 0, 0, 0, 0, 0, 0, 0⟩

def baseColl (s : State) (id x kind job serial : Nat) (t : Tree) (members clusters : Nat) : Coll where
  cmd := id
  ctx := x
  gen := s.gen x
  kind := kind
  job := job
  serial := serial
  step := 0
  root := t.root
  parent := t.parent
  children := t.children
  members := members
  rank := 0
  clusters := clusters
  all := false
  seals := false
  nChunks := 0
  elems := 0
  exp := encExp 0
  destAddr := 0
  destNum := 0
  redNum := 0
  hdrAddr := 0
  own := []
  inputs := []
  next := 0
  part := none
  stage := 0
  unit := chunkCluster clusters 0
  got := []
  tails := []
  hdr := { emptyHdr with job := job, gen := s.gen x, serial := serial }
  tailSent := false
  expMismatch := false
  resFail := false
  downFail := false
  retries := []
  retx := 0
  sums := []
  result := none
  done := false
  outRegions := []

/-- A collective begins: its command is issued and its entry made. -/
def collStart (q : Nat) (p : Packet) (mask : Nat) (go : Nat → State → State) (s : State) : State :=
  let (s, id) := issue s q p (diesOf mask)
  kickRed (go id (s.updCmd id fun k => { k with clusters := mask }))

/-- Status of a collective at issue: of its parameters `st`, its tree record, its clusters and its
regions. -/
def collStatus (s : State) (x st mask : Nat) (t : Tree) (outs ins : List (Nat × Nat)) : Nat :=
  let st := max st (max (treeStatus s t) (if clustersOk s x mask then stOk else stBadParam))
  if anyMeet outs ins then max st stOverlap else st

/-- Issue a collective: its parameters' status `st` and regions are judged with the tree record; it
waits for one of the 64 places, and a sealing reduction for the tails before it. -/
def collIssue (q : Nat) (p : Packet) (st mask treeAddr : Nat) (outs ins : Tree → List (Nat × Nat))
    (step : Option (Nat × Bool)) (go : Nat → Tree → State → State) (s : State) : State :=
  let x := q % 64
  if !diesIssue s (diesOf mask) then s
  else
    let (s', c, t) := readTree s x treeAddr
    let st := collStatus s x st mask t (outs t) (ins t ++ [(treeAddr, 64)])
    if c ≠ 0 then refuseAtIssue s' q p (max stAborted st)
    else if st ≠ 0 then refuseAtIssue s' q p st
    else if step.any (fun e => e.2 && !tailsSent s x e.1) then s
    else if step.any (fun e => e.2 && steFor (stepEntry s x e.1) e.1 && steSealed (stepEntry s x e.1)) then
      refuseAtIssue s' q p stBadParam
    else match (match step with
        | none => some s'
        | some e => stepIssue s' x e.1) with
      | none => refuseAtIssue s' q p stBadParam
      | some s' =>
        if (askPlace s q).2 then collStart q p mask (fun id => go id t) (askPlace s' q).1 else (askPlace s q).1

def redNumOk (n : Nat) : Bool := numOk n && numFmt n == 6
def memNumOk (n : Nat) : Bool := numOk n && (fmtOf (numFmt n)).isSome

def reduceStatus (p : Packet) : Nat :=
  let flags := p.par 52 4
  if 4 ≤ flags || 2 ^ 31 ≤ p.par 16 4 || (p.par 16 4 = 0 && !bit flags 1) || p.par 48 2 = 0 || 4096 < p.par 48 2
      || !memNumOk (p.par 20 4) || !redNumOk (p.par 24 4) || !numOk (p.par 28 4) || 1 < numFmt (p.par 28 4)
      || p.par 60 4 ≠ 0 || !allZero (p.params.drop 72)
  then stBadParam else stOk

/-- The contribution enters ALIGNED32 (R287, R288). -/
def reduceStart (p : Packet) (id : Nat) (t : Tree) (s : State) : State :=
  let x := ((s.cmd? id).map (·.ctx)).getD 0
  let n := p.par 16 4
  let src := p.par 20 4
  let num := p.par 24 4
  let all := bit (p.par 52 4) 0
  let s := readExps s id x [numSlot src, numSlot num, numSlot (p.par 28 4)]
  let f := numFmt src
  let (s, c, b) := vaRead s (homeDie s x) x (p.par 0 8) (n * fmtBytes f)
  if c ≠ 0 then endCmd s id stAborted
  else
    let h : Int := clog2 (p.par 48 2)
    let e := expOf s id num
    let es := expOf s id src
    let xs := (bytesElems f b).map fun w => fscale (decodeElem f w) (-es)
    let base := baseColl s id x 0 (p.par 50 2) (p.par 40 4) t (p.par 48 2) (p.par 56 4)
    let proto : Chunk := { job := base.job, gen := base.gen, kind := 0, serial := base.serial, index := 0,
                           exp := encExp (h - e), offset := 0, groups := [] }
    let (s, ks) := s.narrow id [] fun c => enterAll c proto num (e - h) base.clusters xs
    match s.cmd? id with
    | none => s
    | some c =>
      let bytes := n * fmtBytes (numFmt (p.par 28 4))
      absorbEarly s { base with
        step := p.par 44 4
        all := all
        seals := bit (p.par 52 4) 1
        nChunks := ks.length
        elems := n
        exp := encExp (h - e)
        destAddr := p.par 8 8
        destNum := p.par 28 4
        redNum := num
        hdrAddr := p.par 64 8
        own := ks
        hdr := startHdr c base.job base.serial (p.par 44 4) (encExp (h - e)) ks.length ks false
          (xs.foldl (fun a x => max a (maxBits x)) 0)
        outRegions := if t.root || all then [(p.par 8 8, bytes)] else [] }

/-- REDUCE (R312). -/
def execReduce (q : Nat) (s : State) : Out :=
  onHead 0x30 q s fun p => collIssue q p (reduceStatus p) (p.par 56 4) (p.par 32 8)
    (fun t => (if t.root || bit (p.par 52 4) 0 then [(p.par 8 8, p.par 16 4 * fmtBytes (numFmt (p.par 28 4)))] else [])
      ++ (if p.par 64 8 = 0 then [] else [(p.par 64 8, 64)]))
    (fun _ => [(p.par 0 8, p.par 16 4 * fmtBytes (numFmt (p.par 20 4)))])
    (some (p.par 44 4, bit (p.par 52 4) 1)) (reduceStart p)

def lrM (p : Packet) : Nat := p.par 64 4
def lrN (p : Packet) : Nat := p.par 68 4
def lrR (p : Packet) : Nat := p.par 72 1

def lrStatus (p : Packet) : Nat :=
  if lrM p = 0 || 65536 < lrM p || lrN p = 0 || 65536 < lrN p || lrR p = 0 || 64 < lrR p
      || p.par 73 1 ≠ 0 || p.par 78 2 ≠ 0 || p.par 108 4 ≠ 0 || p.par 120 8 ≠ 0 || 2 ≤ p.par 100 4
      || p.par 74 2 = 0 || 4096 < p.par 74 2
      || !redNumOk (p.par 88 4) || !redNumOk (p.par 92 4) || !numOk (p.par 96 4) || numFmt (p.par 96 4) ≠ 1
  then stBadParam else stOk

def lrOuts (p : Packet) (t : Tree) : List (Nat × Nat) :=
  [(p.par 16 8, 4 * lrM p * lrN p), (p.par 32 8, 4 * lrN p * lrR p), (p.par 40 8, 4 * lrM p * lrR p)]
    ++ (if t.root && p.par 48 8 != 0 then [(p.par 48 8, 4 * lrM p * lrN p)] else [])
    ++ (if p.par 112 8 = 0 then [] else [(p.par 112 8, 128)])

def lrIns (p : Packet) : List (Nat × Nat) :=
  [(p.par 0 8, 4 * lrM p * lrN p), (p.par 8 8, 4 * lrM p * lrN p), (p.par 24 8, 4 * lrN p * lrR p)]

/-- The first factor: mm = m0 + res_in, P = mm · q_in (R317). -/
def lrStart (p : Packet) (id : Nat) (t : Tree) (s : State) : State :=
  let x := ((s.cmd? id).map (·.ctx)).getD 0
  let (m, n, r) := (lrM p, lrN p, lrR p)
  let num := p.par 96 4
  let s := readExps s id x [numSlot (p.par 88 4), numSlot (p.par 92 4), numSlot num]
  let (s, m0) := lrRead s x id (p.par 0 8) (m * n)
  let (s, res) := lrRead s x id (p.par 8 8) (m * n)
  let (s, q) := lrRead s x id (p.par 24 8) (n * r)
  if ended s id then s
  else
    let mm := List.zipWith f32Add m0 res
    let bad := (mm.filter fun w => !(ofF32 w).isFin).length
    let s := s.updCmd id fun c => { c with ovfNonfin := satAdd 32 c.ovfNonfin bad }
    let mask := p.par 104 4
    let (s, pv) := if bad ≠ 0 then (s, List.replicate (m * r) 0)
      else
        let (s, a) := lrNarrow s id num mask n mm
        let (s, b) := lrNarrow s id num mask r q
        lrProduct s id x num mask m n r (fun i k => a.getD (i * n + k) .nan) fun k j => b.getD (k * r + j) .nan
    let l : LrState := { cmd := id, m := m, n := n, r := r, params := p.params, mm := mm,
                         pHat := List.replicate (m * r) 0, q := [], qHat := [], jobNf := false }
    let s := s.onRed fun k => { k with lrs := k.lrs ++ [l] }
    startFactor s l { baseColl s id x 1 (p.par 76 2) (p.par 80 4) t (p.par 74 2) mask with
      step := p.par 84 4
      all := true
      outRegions := lrOuts p t } 1 pv (bad != 0)

/-- REDUCE_LR (R316, R317). -/
def execReduceLr (q : Nat) (s : State) : Out :=
  onHead 0x31 q s fun p => collIssue q p (lrStatus p) (p.par 104 4) (p.par 56 8) (lrOuts p) (fun _ => lrIns p)
    (some (p.par 84 4, bit (p.par 100 4) 0)) (lrStart p)

/-- Parameters of BROADCAST and ALLGATHER (R314). -/
def copyStatus (gather : Bool) (p : Packet) : Nat :=
  let n := p.par 16 4
  let m := p.par 32 2
  if n = 0 || n % 4 ≠ 0 || m = 0 || 4096 < m || (if gather then decide (2 ^ 31 < n * m) else decide (2 ^ 31 - 4 < n))
      || (gather && decide (m ≤ p.par 36 2)) || p.par 38 2 ≠ 0 || !allZero (p.params.drop 44)
  then stBadParam else stOk

/-- Copy chunks leave the cluster units of the mask in turn. -/
def sendCopies (s : State) (c : Coll) (ks : List Chunk) : State :=
  ks.foldl (fun s k =>
    c.children.foldl (fun s d => queueOut s c (chunkCluster c.clusters k.index) d (.chunk k)) s) s

def copyProto (c : Coll) (kind : Nat) : Chunk where
  job := c.job
  gen := c.gen
  kind := kind
  serial := c.serial
  index := 0
  exp := encExp 0
  offset := 0
  groups := []

def broadcastStart (p : Packet) (id : Nat) (t : Tree) (s : State) : State :=
  let x := ((s.cmd? id).map (·.ctx)).getD 0
  let n := p.par 16 4
  let base := { baseColl s id x 3 (p.par 34 2) (p.par 20 4) t (p.par 32 2) (p.par 40 4) with
    destAddr := p.par 8 8
    elems := n
    nChunks := ceilDiv n 4096
    outRegions := [(p.par 8 8, n)] }
  if !t.root then absorbEarly s base
  else
    let (s, c, b) := vaRead s (homeDie s x) x (p.par 0 8) n
    let (s, c2) := if c ≠ 0 then (s, c) else vaWrite s (homeDie s x) x (p.par 8 8) b
    if c2 ≠ 0 then endCmd s id stAborted
    else
      let s := absorbEarly s base
      sendCopies s base (copyChunks (copyProto base 2) 0 0 b)

/-- BROADCAST (R314). -/
def execBroadcast (q : Nat) (s : State) : Out :=
  onHead 0x32 q s fun p => collIssue q p (copyStatus false p) (p.par 40 4) (p.par 24 8)
    (fun _ => [(p.par 8 8, p.par 16 4)]) (fun t => if t.root then [(p.par 0 8, p.par 16 4)] else []) none (broadcastStart p)

def allgatherStart (p : Packet) (id : Nat) (t : Tree) (s : State) : State :=
  let x := ((s.cmd? id).map (·.ctx)).getD 0
  let n := p.par 16 4
  let m := p.par 32 2
  let (s, c, b) := vaRead s (homeDie s x) x (p.par 0 8) n
  if c ≠ 0 then endCmd s id stAborted
  else
    let base := baseColl s id x 4 (p.par 34 2) (p.par 20 4) t m (p.par 40 4)
    absorbEarly s { base with
      destAddr := p.par 8 8
      rank := p.par 36 2
      elems := n
      nChunks := m * ceilDiv n 4096
      all := true
      own := copyChunks (copyProto base 0) 0 (p.par 36 2 * n) b
      hdr := { base.hdr with contrib := 1, chunks := m * ceilDiv n 4096 }
      outRegions := [(p.par 8 8, m * n)] }

/-- ALLGATHER (R314). -/
def execAllgather (q : Nat) (s : State) : Out :=
  onHead 0x33 q s fun p => collIssue q p (copyStatus true p) (p.par 40 4) (p.par 24 8)
    (fun _ => [(p.par 8 8, p.par 32 2 * p.par 16 4)]) (fun _ => [(p.par 0 8, p.par 16 4)]) none (allgatherStart p)

/-! Chunks (R294 to R300, R305, R314, R319). -/

/-- A chunk accepted and discarded: acknowledged, and counted as progress. -/
def discardChunk (s : State) (p : Nat) (k : FPkt) (c : Chunk) : State :=
  (ackChunk s k c).beat (redCpath (32 + p))

def childOf (c : Coll) (d : Nat) : Option Nat := c.children.findIdx? (· == d)

/-- A contribution or partial sum from child `j`: it waits for its partner; the blocks of an ALLGATHER
are checked here, since no adder does. -/
def takeUp (s : State) (p : Nat) (k : FPkt) (c : Coll) (j : Nat) (h : Chunk) : State :=
  let u := 32 + p
  let keep := fun (s : State) => updColl s c.cmd c.serial fun c => { c with inputs := c.inputs ++ [(j, p, h)] }
  if c.failing || (c.kind != 4 && decide (c.nChunks ≤ h.index)) then discardChunk s p k h
  else if c.kind = 4 then
    match badGroup h with
    | none => keep (passIn (ackChunk s k h) u)
    | some g =>
      let (s, dead) := checkFailed s c u h.index g 0
      if dead then discardChunk (updColl s c.cmd c.serial fun c => { c with resFail := true }) p k h
      else againChunk s k.src c.ctx k.gen h
  else keep s

/-- The path down has failed at this member: it and its subtree fail. -/
def failDown (s : State) (c : Coll) : State :=
  let s := updColl s c.cmd c.serial fun c => { c with
    downFail := true
    inputs := c.inputs.filter (·.1 != 8) }
  if c.isCopy then
    let c := { c with downFail := true }
    let s := c.children.foldl (fun s d => queueOut s c c.outUnit d (.hdr 0x23 (failHdr c))) s
    if c.kind = 3 then endColl s c { c.hdr with status := 0 } else s
  else s

/-- The data of a multicast chunk are written to the destination buffer; false when they cannot be. -/
def writeInstall (s : State) (c : Coll) (k : Chunk) : State × Bool :=
  let (s, cause) := vaWrite s (homeDie s c.ctx) c.ctx (c.destAddr + k.offset) (copyData k (c.elems - k.offset))
  (s, cause == 0)

/-- What a chunk of the way down does where it lands: an install write may fail. -/
def downLand (s : State) (c : Coll) (u : Nat) (k : Chunk) : State × Bool :=
  if c.kind = 5 then writeInstall s c k
  else if k.kind = 2 then (writeCopy s c k, true)
  else if c.all then (deliverChunk s c u k, true)
  else (s, true)

/-- Pass on, in order, the chunks that have come down and passed their check. -/
def downStep (s : State) (c : Coll) : Option State :=
  (c.inputs.find? fun e => e.1 == 8 && e.2.2.index == c.got.length).map fun e =>
    let k := e.2.2
    let u := 32 + e.2.1
    let s := updColl s c.cmd c.serial fun c => { c with
      inputs := c.inputs.erase e
      got := c.got ++ [k.index] }
    let (s, ok) := downLand s c u k
    if !ok then failDown s c
    else if ended s c.cmd then s
    else
      let s := c.children.foldl (fun s d => queueOut s c u d (.chunk { k with gen := c.gen })) s
      if (c.kind = 3 || c.kind = 4) && c.got.length + 1 == c.nChunks then
        match collOf s c.cmd c.serial with
        | some c => finishColl s c { c.hdr with status := 0 }
        | none => s
      else s

def downAll : Nat → Nat → Nat → State → State
  | 0, _, _, s => s
  | n + 1, cmd, serial, s => match (collOf s cmd serial).bind (downStep s) with
    | some s => downAll n cmd serial s
    | none => s

/-- A chunk from the parent. -/
def takeDown (s : State) (p : Nat) (k : FPkt) (c : Coll) (h : Chunk) : State :=
  let u := 32 + p
  if c.downFail || c.done then
    let s := discardChunk s p k h
    let s := updColl s c.cmd c.serial fun c => { c with got := c.got ++ [h.index] }
    if c.done && c.got.length + 1 == c.nChunks then dropColl s c.cmd c.serial else s
  else
   let (h, bad) := takeChunk h
   match badGroup h with
    | some g =>
      let (s, dead) := checkFailed s c u h.index g h.kind
      if !dead then againChunk s k.src c.ctx k.gen h
      else
        let s := updColl (discardChunk s p k h) c.cmd c.serial fun c => { c with got := c.got ++ [h.index] }
        match collOf s c.cmd c.serial with
        | some c => failDown s c
        | none => s
    | none =>
      let s := countSats s c.cmd bad
      let s := updColl (passIn (ackChunk s k h) u) c.cmd c.serial fun c => { c with inputs := c.inputs ++ [(8, p, h)] }
      downAll 100 c.cmd c.serial s

/-- CHUNK (R294, R299, R300). -/
def execChunk (port : Nat) (s : State) : Out :=
  onRx 0x21 2 port s (fun _ => awake s) fun k s =>
    let h := chunkOfBytes k.pay
    if (ctxOfJob s h.job).isNone then staleChunk s port k
    else match collFor s h.job h.serial with
      | none =>
        let s := (sendPkt s { answer k 0x19 [] with addr := h.index, aux := h.kind }).count32 (redBlk (32 + port) + 0x44) 1
        s.onRed fun r => { r with refusedHere := r.refusedHere ++ [(k.src, h.job, h.serial, h.index)] }
      | some c =>
        if h.kind = 0 then
          match childOf c k.src with
          | some j => kickRed (takeUp s port k c j h)
          | none => staleChunk s port k
        else if !c.root && k.src == c.parent then kickRed (takeDown s port k c h)
        else staleChunk s port k

/-- TAIL (R301). -/
def execTail (port : Nat) (s : State) : Out :=
  onRx 0x22 2 port s (fun _ => awake s) fun k s =>
    let h := hdrOfBytes k.pay
    if (ctxOfJob s h.job).isNone then s
    else match collFor s h.job h.serial with
      | none => s.onRed fun r => { r with early := r.early ++ [(k.src, h)] }
      | some c => match childOf c k.src with
        | some j => kickRed (updColl s c.cmd c.serial fun c => { c with tails := c.tails ++ [(j, h)] })
        | none => s

/-- The result header reaches a member: it passes it on and ends with it. -/
def takeResult (s : State) (c : Coll) (h : RedHdr) : State :=
  if c.done then dropColl s c.cmd c.serial
  else if c.kind = 5 then
    let s := updColl s c.cmd c.serial fun c => { c with result := some h, downFail := c.downFail || bit h.flags 3 }
    if c.downFail then s
    else c.children.foldl (fun s d => queueOut s c c.outUnit d (.hdr 0x23 { h with gen := c.gen })) s
  else
    let s := c.children.foldl (fun s d => queueOut s c c.outUnit d (.hdr 0x23 { h with gen := c.gen })) s
    let lost := c.downFail || c.kind == 3 || (h.status == 0 && c.all && decide (c.got.length < c.nChunks))
    let c := { c with downFail := lost }
    dropColl (finishColl (updColl s c.cmd c.serial fun _ => c) c (if c.kind = 3 then { c.hdr with status := 0 } else h))
      c.cmd c.serial

/-- RESULT (R305). -/
def execResult (port : Nat) (s : State) : Out :=
  onRx 0x23 2 port s (fun _ => awake s) fun k s =>
    let h := hdrOfBytes k.pay
    if (ctxOfJob s h.job).isNone then s
    else match collFor s h.job h.serial with
      | some c => if !c.root && k.src == c.parent then kickRed (takeResult s c h) else s
      | none => s

/-! Acknowledgements and retransmission (R296, R300). -/

/-- The retained chunk that an answer names: `TAG` the serial, `ADDR` the index, `AUX` the kind. -/
def Retained.named (r : Retained) (k : FPkt) : Bool :=
  r.dest == k.src && r.ctx == k.ctx && r.chunk.job == k.job && r.chunk.serial == k.tag
    && r.chunk.index == k.addr && r.chunk.kind == k.aux

/-- CHUNK_ACK (R296). -/
def execChunkAck (port : Nat) (s : State) : Out :=
  onAnswer 0x17 port s fun k s =>
    kickRed (s.onRed fun r => { r with retain := r.retain.filter fun e => !e.named k })

/-- CHUNK_AGAIN (R296). -/
def execChunkAgain (port : Nat) (s : State) : Out :=
  onAnswer 0x18 port s fun k s =>
    match s.red.retain.find? (·.named k) with
    | some r => kickRed (transmit s r.unit r.dest r.ctx r.chunk)
    | none => s

/-- REFUSED (R300). -/
def execRefused (port : Nat) (s : State) : Out :=
  onAnswer 0x19 port s fun k s =>
    s.onRed fun r => { r with retain := r.retain.map fun e => if e.named k then { e with refused := true } else e }

/-- ISSUED (R300). -/
def execIssued (port : Nat) (s : State) : Out :=
  onAnswer 0x1A port s fun k s =>
    let mine := fun (e : Retained) => e.refused && e.dest == k.src && e.ctx == k.ctx && e.chunk.job == k.job
      && e.chunk.serial == k.tag
    let again := s.red.retain.filter mine
    let s := s.onRed fun r => { r with retain := r.retain.map fun e => if mine e then { e with refused := false } else e }
    kickRed (again.foldl (fun s e => transmit s e.unit e.dest e.ctx e.chunk) s)

/-! Fault injection (R321). -/

def redCtlWrite (unit : Nat) (v : W64) (s : State) : State := s.setReg (redBlk unit) (v.toNat % 4)

/-- RED_INJ_ARM: a write of `RED_CTL` that sets INJ_ARM. -/
def execRedInjArm (fn unit : Nat) (v : W64) (s : State) : Out :=
  withUnit (decide (unit < 56)) <| (touchReg s fn (redBlk unit)).when (owWrite s fn && bit v.toNat 0) (redCtlWrite unit v)

/-- INJ_HOLD: a write of `RED_CTL` that sets or clears INJ_HOLD. -/
def execInjHold (fn unit : Nat) (v : W64) (s : State) : Out :=
  withUnit (decide (unit < 56)) <| (touchReg s fn (redBlk unit)).when (owWrite s fn) (redCtlWrite unit v)

end Sys2Proof.Machine
end

