-- ==== Sys2Proof/Machine/UpdOps.lean ====
section
/-! DEFINITION. The update die (chapter 10): rule images, parameter descriptors, reservations,
installs, multicast, reports, and the tasks of the update engine. -/
namespace Sys2Proof.Machine

open Sys2Proof

/-! Rule images (R347, R348, R350). -/

def ruleEntry (img : List Byte) (k : Nat) : Nat := fieldLE img (8 * k) 8
def ruleStart (e : Nat) : Nat := bits e 0 12
def ruleMode (e : Nat) : Nat := bits e 12 2
def ruleLen (e : Nat) : Nat := bits e 16 12
def ruleWord (img : List Byte) (i : Nat) : Nat := fieldLE img (64 + 8 * i) 8

/-- Mode of entry k of a context's rule image: 0 for an entry that does not exist. -/
def modeOf (s : State) (x k : Nat) : Nat := if k < 8 then ruleMode (ruleEntry (s.ctx x).rule k) else 0

def wOpc (w : Nat) : Nat := bits w 0 8
def wVd (w : Nat) : Nat := bits w 8 5
def wVa (w : Nat) : Nat := bits w 13 5
def wVb (w : Nat) : Nat := bits w 18 5
def wVc (w : Nat) : Nat := bits w 23 5
def wBs (w : Nat) : Bool := bit w 28
def wCs (w : Nat) : Bool := bit w 29
def wRnd (w : Nat) : Bool := bit w 30
def wSel (w : Nat) : Nat := bits w 32 4
def wSd (w : Nat) : Nat := bits w 36 4
def wRow (w : Nat) : Nat := bits w 40 10
def wCol (w : Nat) : Nat := bits w 50 10
def wRowLc (w : Nat) : Nat := bits w 60 2
def wColLc (w : Nat) : Nat := bits w 62 2

/-- The modes in which an instruction may stand (R348): 1 element, 2 block, 3 root. -/
def opcModes (o : Nat) : List Nat :=
  if (0x01 ≤ o && o ≤ 0x0A) || (0x10 ≤ o && o ≤ 0x14) || o == 0x18 || o == 0x30 || o == 0x3C || o == 0x3E || o == 0x3F
  then [1, 2, 3]
  else if o = 0x20 || o = 0x21 then [1, 2]
  else if (0x22 ≤ o && o ≤ 0x25) || o == 0x38 || o == 0x39 then [2, 3]
  else if o = 0x26 || o = 0x27 then [2]
  else if o = 0x3D then [1]
  else []

/-- Streams, slots, scalars, sub-operations and counters that an instruction names exist. -/
def namesOk (w : Nat) : Bool :=
  let o := wOpc w
  let sel := wSel w
  !bit w 31
    && (o != 0x20 || decide (sel ≤ 6) && sel != 2)
    && (o != 0x21 || decide (2 ≤ sel) && decide (sel ≤ 6))
    && (!(0x22 ≤ o && o ≤ 0x27) || decide (sel < 4))
    && (o != 0x30 || decide (sel < 8) && decide (wVa w < 16) && decide (wVb w < 16) && decide (wVc w < 16))
    && (!wBs w || decide (wVb w < 16)) && (!wCs w || decide (wVc w < 16))
    && (o != 0x38 || wSd w % 4 != 0)

/-- Loops are closed where a marker or the end stands, and nest at most three deep. -/
def loopsOk : Nat → List Nat → Bool
  | d, [] => d == 0
  | d, o :: t =>
    if o = 0x38 then decide (d < 3) && loopsOk (d + 1) t
    else if o = 0x39 then decide (0 < d) && loopsOk (d - 1) t
    else if o = 0x3C || o = 0x3D || o = 0x3E || o = 0x3F then d == 0 && loopsOk d t
    else loopsOk d t

def ruleEntryOk (img : List Byte) (words e : Nat) : Bool :=
  let m := ruleMode e
  let code := (List.range (ruleLen e)).map fun i => ruleWord img (ruleStart e + i)
  let ops := code.map wOpc
  let marks := ops.filter fun o => o == 0x3C || o == 0x3D || o == 0x3E
  m == 0 || (bits e 14 2 == 0 && bits e 28 36 == 0
    && ruleLen e != 0 && decide (ruleStart e + ruleLen e ≤ words)
    && ops.getLast? == some 0x3F
    && (marks == [0x3C, 0x3E] || marks == [0x3C, 0x3D, 0x3E])
    && code.all (fun w => (opcModes (wOpc w)).contains m && namesOk w)
    && loopsOk 0 ops)

def ruleImageOk (img : List Byte) (words : Nat) : Bool :=
  (List.range 8).all fun k => ruleEntryOk img words (ruleEntry img k)

/-- Streams that the code of a rule entry uses. -/
def ruleStreams (img : List Byte) (k : Nat) : List Nat :=
  let e := ruleEntry img k
  ((List.range (ruleLen e)).map fun i => ruleWord img (ruleStart e + i)).filterMap fun w =>
    if wOpc w = 0x20 || wOpc w = 0x21 then some (wSel w) else none

/-! Parameter descriptors (R325, R326, R346, R353). -/

def pdLayer (d : List Byte) : Nat := bits (fieldLE d 0 4) 0 20
def pdFrozen (d : List Byte) : Bool := bit (fieldLE d 0 4) 20
def pdPrecond (d : List Byte) : Bool := bit (fieldLE d 0 4) 21
def pdCur (d : List Byte) : Nat := bits (fieldLE d 0 4) 22 1
def pdOwner (d : List Byte) : Nat := fieldLE d 4 2 % 4096
def pdSlots (d : List Byte) : Nat := fieldLE d 6 1
def pdStep (d : List Byte) : Nat := fieldLE d 8 4
def pdPeriod (d : List Byte) : Nat := fieldLE d 12 4
def pdK (d : List Byte) (q : Nat) : Nat := fieldLE d (if q = 0 then 16 else 24) 4
def pdN (d : List Byte) (q : Nat) : Nat := fieldLE d (if q = 0 then 20 else 28) 4
def pdSegs (d : List Byte) : Nat := if pdK d 1 = 0 then 1 else 2
/-- Index of a segment's first element in the buffer, in BF16 elements (R346). -/
def pdSegOff (d : List Byte) (q : Nat) : Nat := if q = 0 then 0 else w1Offset (pdK d 0) (pdN d 0) / 2
def pdBufBytes (d : List Byte) : Nat :=
  if pdSegs d = 1 then 2 * pdK d 0 * pdN d 0 else w1Offset (pdK d 0) (pdN d 0) + 2 * pdK d 1 * pdN d 1
def pdSlotBytes (d : List Byte) : Nat := ceilDiv (2 * pdBufBytes d) (2 ^ 21) * 2 ^ 21
def pdSetBytes (d : List Byte) : Nat := pdSlots d * pdSlotBytes d
/-- Dimension of factor f (0 left, 1 right) of segment q. -/
def pdDim (d : List Byte) (q f : Nat) : Nat := if f = 0 then pdK d q else pdN d q
def pdFactors (d : List Byte) : List (Nat × Nat) :=
  (List.range (pdSegs d)).flatMap fun q => [(q, 0), (q, 1)]
def pdDimsOk (d : List Byte) : Bool := (pdFactors d).all fun e => decide (pdDim d e.1 e.2 ≤ 8192)
/-- Number of block i of factor f of segment q. -/
def pdBlock (d : List Byte) (q f i : Nat) : Nat :=
  sumNat (((pdFactors d).takeWhile (· != (q, f))).map fun e => ceilDiv (pdDim d e.1 e.2) 1024) + i
/-- Every block: its number and the dimension it holds. -/
def pdBlocks (d : List Byte) : List (Nat × Nat) :=
  (pdFactors d).flatMap fun e => (List.range (ceilDiv (pdDim d e.1 e.2) 1024)).map fun i =>
    (pdBlock d e.1 e.2 i, min 1024 (pdDim d e.1 e.2 - 1024 * i))
def pdStat (d : List Byte) (b : Nat) : Nat := fieldLE d 40 8 + 2 ^ 22 * b
def pdRoot (d : List Byte) (set b : Nat) : Nat := fieldLE d 48 8 + 2 ^ 22 * ((pdBlocks d).length * set + b)

/-! Parameters and entries (R329, R330). -/

def upList (b : List Byte) : Nat := fieldLE b 0 8
def upEntries (b : List Byte) : Nat := fieldLE b 8 2
def upJob (b : List Byte) : Nat := fieldLE b 10 2
def upStep (b : List Byte) : Nat := fieldLE b 12 4
def upExpect (b : List Byte) : Nat := fieldLE b 16 4
def upAdopt (b : List Byte) : Bool := bit (fieldLE b 20 4) 0
def upResend (b : List Byte) : Bool := bit (fieldLE b 20 4) 1
def upReport (b : List Byte) : Nat := fieldLE b 24 8
def upHyper (b : List Byte) : Nat := fieldLE b 32 8
def upRule (b : List Byte) : Nat := fieldLE b 40 1
def upRootRule (b : List Byte) : Nat := fieldLE b 41 1
/-- Fields of PRECOND (R355) that differ. -/
def pcReport (b : List Byte) : Nat := fieldLE b 16 8
def pcRule (b : List Byte) : Nat := fieldLE b 10 1

def State.updEntry (s : State) (id : Nat) (f : UpdEntry → UpdEntry) : State :=
  s.onUpd fun u => { u with entries := u.entries.map fun e => if e.id == id then f e else e }
def State.updEnt? (s : State) (id : Nat) : Option UpdEntry := s.upd.entries.find? (·.id == id)
def dropEntry (s : State) (id : Nat) : State :=
  s.onUpd fun u => { u with
    entries := u.entries.filter (·.id != id)
    resvs := u.resvs.filter (·.entry != id) }
def State.updCmdRec (s : State) (id : Nat) (f : UpdCmd → UpdCmd) : State :=
  s.onUpd fun u => { u with cmds := u.cmds.map fun c => if c.cmd == id then f c else c }
def State.updCmd? (s : State) (id : Nat) : Option UpdCmd := s.upd.cmds.find? (·.cmd == id)

def State.task? (s : State) (id : Nat) : Option Task := s.upd.tasks.find? (·.id == id)
def State.updTask (s : State) (id : Nat) (f : Task → Task) : State :=
  s.onUpd fun u => { u with tasks := u.tasks.map fun t => if t.id == id then f t else t }
def dropTask (s : State) (id : Nat) : State :=
  s.onUpd fun u => { u with
    tasks := u.tasks.filter (·.id != id)
    running := u.running.filter (· != id) }

def updEnabled (s : State) : Bool := bit (s.reg updBlk) 0 && !fenced s fuUpdate
def updWindow (s : State) : Nat := s.fld updBlk 8 4

/-- Latch event `b` of the update engine; the first since the latches were clear is recorded
(R358, R359). -/
def updLatch (s : State) (b cause stream layer x : Nat) : State :=
  let s := if s.reg (updBlk + 0x8) = 0 then
      s.setReg (updBlk + 0x10) (layer + x * 2 ^ 20 + s.gen x * 2 ^ 26 + cause * 2 ^ 34 + stream * 2 ^ 38)
    else s
  s.latch (updBlk + 0x8) b

/-! Reports (R339, R340). -/

/-- CUR_VER of a record, where it can be read. -/
def curVerOf (s : State) (x va : Nat) : Nat :=
  let (c, pa) := peek s (homeDie s x) x va false
  if c = 0 && va != 0 then (readVRec s pa).cur else 0

def updSkip (st : Nat) : Bool := st == stFrozen || st == stNonfinite || st == stStepMismatch

def heldUsOf (e : UpdEntry) : Nat :=
  match e.heldFrom with
  | some t => (e.heldTo - t) / 1000
  | none => 0

/-- Every layer has reported: the command's work ends (R340). -/
def closeUpd (s : State) (cmd : Nat) : State :=
  match s.updCmd? cmd with
  | none => s
  | some u =>
    if u.reports.length < u.entries then s
    else
      let s := s.updCmd cmd fun c => { c with csw := u.installed + u.skipped * 2 ^ 11 + min 1023 u.held * 2 ^ 22 }
      s.onUpd fun d => { d with cmds := d.cmds.filter (·.cmd != cmd) }

/-- The layer of an entry reports `st`. -/
def reportEntry (s : State) (e : UpdEntry) (st : Nat) : State :=
  match s.updCmd? e.cmd with
  | none => s
  | some u =>
    let held := if e.replica || u.precond then 0 else heldUsOf e
    let addr := (if u.precond then pcReport u.params else upReport u.params) + 16 * e.idx
    let count := if e.replica then 0 else if e.committed && !u.precond then (e.t + 1) % 2 ^ 32 else pdStep e.desc
    let b := toLE 1 st ++ toLE 1 0 ++ toLE 2 (curVerOf s e.ctx e.vrec) ++ toLE 4 (min (2 ^ 32 - 1) held)
      ++ toLE 4 count ++ toLE 4 0
    let (s, c) := vaWrite s 4 e.ctx addr b
    let s := s.raise e.cmd (if st = stVersionHeld then stOk else st)
    let s := if c ≠ 0 then s.raise e.cmd stAborted else s
    let s := if e.replica || u.precond then s else (s.count64 (updBlk + 0x30) (b2n (updSkip st))).count64 (updBlk + 0x38) held
    let s := s.updCmdRec e.cmd fun k => { k with
      reports := k.reports ++ [(e.idx, st)]
      installed := k.installed + b2n (e.committed && !u.precond)
      skipped := k.skipped + b2n (updSkip st)
      held := k.held + b2n (held != 0) }
    closeUpd (s.updEntry e.id fun k => { k with phase := 5, status := st }) e.cmd

/-! Packets of the tree. -/

def entryPkt (s : State) (e : UpdEntry) (type vc dest : Nat) : FPkt :=
  { mkPkt type vc dest [] with job := e.job, gen := s.gen e.ctx, ctx := e.ctx, tag := e.serial }

def toChildren (s : State) (e : UpdEntry) (k : Nat → FPkt) : State :=
  e.children.foldl (fun s d => sendPkt s (k d)) s

/-- The notice of R336. -/
def sendNotice (s : State) (e : UpdEntry) (st : Nat) : State :=
  toChildren s e fun d => { entryPkt s e 0x24 2 d with aux := st }

/-- An install is abandoned (R220): the reservation is let go, and chunks of it are dropped. -/
def abandonEntry (s : State) (e : UpdEntry) : State :=
  let s := if e.ownGranted && !e.committed then writeVRec s e.pa { readVRec s e.pa with reserved := false } else s
  let s := s.onUpd fun u => { u with resvs := u.resvs.filter (·.entry != e.id) }
  let s := s.onRed fun r => { r with
    sendq := r.sendq.filter fun o => !(o.cmd == e.cmd && o.serial == e.serial)
    retain := r.retain.filter fun o => !(o.cmd == e.cmd && o.chunk.serial == e.serial) }
  let s := dropColl s e.cmd e.serial
  s.updEntry e.id fun k => { k with ownGranted := false }

/-- An owner's entry ends before its install: notice and report (R334, R336). -/
def earlyReturn (s : State) (e : UpdEntry) (st : Nat) : State :=
  let s := sendNotice (abandonEntry s e) e st
  dropEntry (reportEntry s { e with ownGranted := false } st) e.id

/-! Multicast (R319, R334). -/

def entryColl (s : State) (e : UpdEntry) : Coll :=
  { baseColl s e.cmd e.ctx 5 e.job e.serial ⟨e.root, e.parent, e.children, false⟩ e.members 0 with
    destAddr := e.newBuf
    elems := if e.ownGranted then 2 ^ 48 else 0
    nChunks := 2 ^ 32
    unit := 32 }

/-- Unit that sends toward a child: that of the port. -/
def childUnit (s : State) (d : Nat) : Nat := if actPort s d < 24 then 32 + actPort s d else 32

def segChunks (d : List Byte) (q : Nat) : Nat := ceilDiv (2 * pdK d q * pdN d q) 4096

/-- Segment q of buffer `buf` goes down the tree. -/
def mcastSeg (s : State) (e : UpdEntry) (buf q : Nat) : State :=
  if e.children.isEmpty then s
  else
    let off := 2 * pdSegOff e.desc q
    let (s, c, b) := vaRead s 4 e.ctx (buf + off) (2 * pdK e.desc q * pdN e.desc q)
    if c ≠ 0 then s
    else
      let k := entryColl s e
      (copyChunks (copyProto k 2) (if q = 0 then 0 else segChunks e.desc 0) off b).foldl (fun s h =>
        e.children.foldl (fun s d => queueOut s k (childUnit s d) d (.chunk h)) s) s

/-- The header that ends a multicast: how many chunks it had, and the owner's status. -/
def mcastEnd (s : State) (e : UpdEntry) : State :=
  let k := entryColl s e
  let n := sumNat ((List.range (pdSegs e.desc)).map (segChunks e.desc))
  e.children.foldl (fun s d => queueOut s k (childUnit s d) d
    (.hdr 0x23 { k.hdr with chunks := n, status := if heldUsOf e ≠ 0 then stVersionHeld else stOk })) s

/-- The owner's entry is complete once its roots are computed and every child has reported. -/
def ownerDone (s : State) (e : UpdEntry) : State :=
  if e.phase = 4 && e.grants.length == e.children.length then
    let st := match e.refused with
      | some _ => stResidue
      | none => if heldUsOf e ≠ 0 then stVersionHeld else stOk
    dropEntry (reportEntry s e (max e.status st)) e.id
  else s

def settleOwner (s : State) (id : Nat) : State :=
  match s.updEnt? id with
  | some e => ownerDone s e
  | none => s

/-! Tasks (R344, R351). -/

def ticket (s : State) : Nat × State := (s.upd.next, s.onUpd fun u => { u with next := u.next + 1 })

def newTask (s : State) (e : UpdEntry) (root : Bool) (rule : Nat) : State :=
  let (id, s) := ticket s
  let t : Task := { id := id, cmd := e.cmd, ctx := e.ctx, entry := e.id, root := root, rule := rule,
                    mode := modeOf s e.ctx rule, seg := 0, unit := 0, pass := 0, part := 0,
                    pc := ruleStart (ruleEntry (s.ctx e.ctx).rule rule), start := 0, v := [], base := 0, sreg := [],
                    lc := [], loops := [], age := id, fresh := true,
                    blocks := if root then pdBlocks e.desc else [] }
  s.onUpd fun u => { u with tasks := u.tasks ++ [t] }

/-- FP32 of a small natural number. -/
def f32Nat (n : Nat) : Nat := toF32 (.ofNat n)

/-- The registers at the start of a segment (R344): vector registers and loop counters hold open
values, and so do the scalars that PRECOND gives no value. A cause when `HYPER_ADDR` cannot be
read. -/
def startSeg (s : State) (t : Task) (e : UpdEntry) : State × Nat :=
  let base := s.free
  let s := { s with free := s.free + 131072 }
  let open_ := fun (i : Nat) => (Config.freeBits (base + 131072 + i)).toNat
  match s.updCmd? t.cmd with
  | none => (s, 1)
  | some u =>
    let (s, c, hy) := if u.precond then (s, 0, []) else vaRead s 4 t.ctx (upHyper u.params) 44
    let n := pdK e.desc t.seg * pdN e.desc t.seg
    let top := if u.precond then (List.range 13).map fun i => open_ i % 2 ^ 32
      else (List.range 11).map (fun i => fieldLE hy (4 * i) 4) ++ [e.lrMult, f32Nat (e.t + 1)]
    let s := { s with free := s.free + 16 }
    (s.updTask t.id fun t => { t with
      v := []
      base := base
      sreg := top ++ [f32Nat n, f32Nat t.seg, 0]
      lc := (List.range 3).map fun i => open_ (13 + i) % 1024
      loops := []
      part := 0
      unit := 0
      pass := 0
      pc := ruleStart (ruleEntry (s.ctx t.ctx).rule t.rule) }, c)

/-- Units of work of a segment (R343). -/
def segUnits (t : Task) (d : List Byte) : Nat :=
  if t.mode = 1 then ceilDiv (pdK d t.seg * pdN d t.seg) 4096
  else if t.mode = 2 then ceilDiv (pdK d t.seg) 1024 * ceilDiv (pdN d t.seg) 1024
  else 1

/-- Row and column of a sub-block. -/
def subRow (t : Task) (d : List Byte) : Nat := t.unit / ceilDiv (pdN d t.seg) 1024
def subCol (t : Task) (d : List Byte) : Nat := t.unit % ceilDiv (pdN d t.seg) 1024

/-! The working store (R349). -/

def storeRow (s : State) (slot r : Nat) : List Nat := Tbl.get (List.replicate 1024 0) s.upd.store (1024 * slot + r)
def setStoreRow (s : State) (slot r : Nat) (l : List Nat) : State :=
  s.onUpd fun u => { u with store := Tbl.set (List.replicate 1024 0) u.store (1024 * slot + r) l }

/-- A 1,024 × 1,024 block moves into a slot, the lanes beyond dimension `d` as the identity
(R353). -/
def blockIn (s : State) (x slot va d : Nat) : State × Nat :=
  (List.range 1024).foldl (fun (a : State × Nat) r =>
    if a.2 ≠ 0 then a else
    let (s, c, b) := vaRead a.1 4 x (va + 4096 * r) 4096
    if c ≠ 0 then (s, c)
    else
      let w := bytesElems 0 b
      (setStoreRow s slot r ((List.range 1024).map fun j =>
        if r < d && j < d then w.getD j 0 else if r = j then f32Nat 1 else 0), 0)) (s, 0)

def blockOut (s : State) (x slot va : Nat) : State × Nat :=
  (List.range 1024).foldl (fun (a : State × Nat) r =>
    if a.2 ≠ 0 && a.2 ≠ 6 then a
    else
      let (s, c) := vaWrite a.1 4 x (va + 4096 * r) (elemBytes 0 (storeRow a.1 slot r))
      (s, if c = 0 then a.2 else c)) (s, 0)

/-! Streams (R345, R346). -/

/-- Format and address of element `i` of the current segment on stream `sel`. -/
def streamFmt (e : UpdEntry) (sel : Nat) : Nat :=
  if sel = 0 then numFmt e.gradNum else if sel ≤ 2 then 1 else 0

def streamVa (t : Task) (e : UpdEntry) (sel : Nat) (write : Bool) (i : Nat) : Nat :=
  let k := pdSegOff e.desc t.seg + i
  if sel = 0 then e.grad + fmtBytes (numFmt e.gradNum) * k
  else if sel = 1 then e.curBuf + 2 * k
  else if sel = 2 then e.newBuf + 2 * k
  else fieldLE e.desc 32 8 + (e.t + b2n write) % 2 * pdSetBytes e.desc + (sel - 3) * pdSlotBytes e.desc + 4 * k

/-- Read `n` elements of a stream, widened exactly: a cause, and FP32 bits. -/
def streamRead (s : State) (t : Task) (e : UpdEntry) (sel i n : Nat) : State × Nat × List Nat :=
  let f := streamFmt e sel
  let (s, c, b) := vaRead s 4 t.ctx (streamVa t e sel false i) (n * fmtBytes f)
  (s, c, (bytesElems f b).map fun w => toF32 (decodeElem f w))

/-- The sub-block of GRAD goes to slot 2; lanes outside the segment keep their words (R343, R354). -/
def gradIn (s : State) (t : Task) (e : UpdEntry) : State × Nat :=
  let n := pdN e.desc t.seg
  let r0 := 1024 * subRow t e.desc
  let c0 := 1024 * subCol t e.desc
  (List.range (min 1024 (pdK e.desc t.seg - r0))).foldl (fun (a : State × Nat) r =>
    if a.2 ≠ 0 then a else
    let w := min 1024 (n - c0)
    let (s, c, l) := streamRead a.1 t e 0 ((r0 + r) * n + c0) w
    if c ≠ 0 then (s, c) else (setStoreRow s 2 r (l ++ (storeRow s 2 r).drop w), 0)) (s, 0)

/-- What the engine loads before a unit of work (R354, R355). -/
def loadUnit (s : State) (t : Task) (e : UpdEntry) : State × Nat :=
  if t.mode = 2 then
    let (s, c) := if pdPrecond e.desc then
        let i := subRow t e.desc
        let j := subCol t e.desc
        let (s, c) := blockIn s t.ctx 0 (pdRoot e.desc (pdCur e.desc) (pdBlock e.desc t.seg 0 i)) (pdK e.desc t.seg - 1024 * i)
        if c ≠ 0 then (s, c)
        else blockIn s t.ctx 1 (pdRoot e.desc (pdCur e.desc) (pdBlock e.desc t.seg 1 j)) (pdN e.desc t.seg - 1024 * j)
      else (s, 0)
    if c ≠ 0 then (s, c) else gradIn s t e
  else if t.mode = 3 then
    match t.blocks with
    | b :: _ => blockIn s t.ctx 0 (pdStat e.desc b.1) b.2
    | [] => (s, 0)
  else (s, 0)

/-- A task ends on a fault (R352): its layer reports ABORTED. After the commit only the roots are
lost. -/
def failTask (s : State) (t : Task) (st : Nat) : State :=
  let s := dropTask s t.id
  match s.updEnt? t.entry with
  | none => s
  | some e =>
    match s.updCmd? e.cmd with
    | some u =>
      if u.precond then dropEntry (reportEntry s e st) e.id
      else if t.root then settleOwner (s.updEntry e.id fun k => { k with phase := 4, status := max k.status st }) e.id
      else earlyReturn s e st
    | none => s

/-- A read by the engine failed: an uncorrectable word is latched (R352). -/
def readFailed (s : State) (t : Task) (cause stream : Nat) : State :=
  let s := if cause = 6 then
      updLatch s 0 1 stream ((s.updEnt? t.entry).elim 0 (·.layerId)) t.ctx
    else s
  failTask s t stAborted

/-! Commit (R220, R334). -/

def commitRec (s : State) (pa ver : Nat) : State :=
  let v := readVRec s pa
  writeVRec s pa { v with
    prev := v.cur
    prevRefs := v.curRefs
    cur := ver
    curRefs := 0
    inB := !v.inB
    prevValid := true
    reserved := false }

/-- Every segment is written: the record and the step counter change together. -/
def commitOwner (s : State) (e : UpdEntry) : State :=
  let (s, c) := vaWrite s 4 e.ctx (e.param + 8) (toLE 4 ((e.t + 1) % 2 ^ 32))
  if c ≠ 0 then earlyReturn s e stAborted
  else
    let s := (commitRec s e.pa e.newVer).count64 (updBlk + 0x28) 1
    let e := { e with committed := true }
    let due := pdPrecond e.desc && pdPeriod e.desc != 0 && (e.t + 1) % pdPeriod e.desc == 0
    let e := { e with phase := if due then 3 else 4 }
    let s := s.updEntry e.id fun _ => e
    let s := mcastEnd s e
    if due then
      match s.updCmd? e.cmd with
      | some u => newTask s e true (upRootRule u.params)
      | none => s
    else ownerDone s e

/-! Reservations (R220, R221, R337, R338). -/

def mergeRefusal (r : Option Nat) (st : Nat) : Option Nat :=
  match r with
  | none => some st
  | some a => some (if a = st then a else stAborted)

/-- The record is free for a reservation. -/
def recFree (v : VRec) : Bool := !v.reserved && (!v.prevValid || v.prevRefs == 0)

def refuseOwn (s : State) (e : UpdEntry) (st : Nat) : State :=
  let s := s.updEntry e.id fun k => { k with ownDone := true, refused := mergeRefusal k.refused st }
  if e.replica then updLatch s 3 4 0 e.layerId e.ctx else s

/-- Ask for the own record: granted, refused, or made to wait. On a RESEND a replica that holds the
version already is left as it is (R341). -/
def tryOwn (s : State) (e : UpdEntry) : State :=
  match reachVRec s e.ctx e.vrec with
  | (s, .inr st) => refuseOwn s e st
  | (s, .inl pa) =>
    let v := readVRec s pa
    if v.layer ≠ e.layerId then refuseOwn s e stBadParam
    else if e.resend && v.cur != (e.newVer + 65535) % 65536 then
      s.updEntry e.id fun k => { k with ownDone := true }
    else if !recFree v then
      let s := s.updEntry e.id fun k => { k with heldFrom := if k.heldFrom.isNone then some s.tim.fabricNs else k.heldFrom }
      if s.upd.resvs.any (·.entry == e.id) then s
      else s.onUpd fun u => { u with resvs := u.resvs ++ [{ vrec := pa, ctx := e.ctx, entry := e.id }] }
    else
      let s := s.onUpd fun u => { u with resvs := u.resvs.filter (·.entry != e.id) }
      if e.newVer ≠ (v.cur + 1) % 65536 then refuseOwn s e stBadParam
      else
        let s := writeVRec s pa { v with reserved := true, prevValid := false }
        s.updEntry e.id fun k => { k with
          ownDone := true
          ownGranted := true
          pa := pa
          curBuf := v.curBuf
          newBuf := v.otherBuf
          heldTo := max k.heldTo s.tim.fabricNs }

/-- The answer of a replica: AUX as R337, and 16 bytes with the fabric time from which a record of
its subtree was held, plus 1, and that of its last grant. -/
def sendGrant (s : State) (e : UpdEntry) : State :=
  let pay := toLE 8 (e.heldFrom.elim 0 (· + 1)) ++ toLE 8 e.heldTo
  sendPkt s { mkPkt 0x14 1 e.askedBy pay with
    job := e.job
    gen := e.askGen
    ctx := e.askCtx
    tag := e.serial
    aux := match e.refused with
      | none => 1
      | some st => st * 256 }

/-- Every record of the subtree is decided. -/
def grantsIn (s : State) (id : Nat) : State :=
  match s.updEnt? id with
  | none => s
  | some e =>
    if !e.ownDone || e.grants.length < e.children.length then s
    else if e.replica then
      if e.phase ≠ 11 then s
      else
        let s := sendGrant s e
        let s := s.updEntry id fun k => { k with phase := 12, grants := [] }
        if e.refused.isSome then s
        else absorbEarly s (entryColl s e)
    else if e.phase ≠ 1 then s
    else match e.refused with
      | some st => earlyReturn s e st
      | none =>
        match s.updCmd? e.cmd with
        | none => s
        | some u =>
          if e.resend then
            let e := { e with phase := 4, grants := [] }
            let s := s.updEntry id fun _ => e
            let s := (List.range (pdSegs e.desc)).foldl (fun s q => mcastSeg s e e.curBuf q) s
            ownerDone (mcastEnd s e) e
          else newTask (s.updEntry id fun k => { k with phase := 2, grants := [] }) { e with phase := 2 } false (upRule u.params)

def askChildren (s : State) (e : UpdEntry) : State :=
  toChildren s e fun d => { entryPkt s e 0x03 0 d with addr := e.vrec, aux := e.newVer + 65536 * b2n e.resend }

/-- The owner's reservations are requested. -/
def startReserve (s : State) (e : UpdEntry) : State :=
  let s := askChildren (s.updEntry e.id fun _ => e) e
  let s := if e.resend then s.updEntry e.id fun k => { k with ownDone := true } else tryOwn s e
  grantsIn s e.id

/-! Owner entries (R333 to R335, R341). -/

/-- The checks of R334 before the reservations: a status, or t. -/
def ownerCheck (s : State) (e : UpdEntry) (u : UpdCmd) (d : List Byte) : Nat ⊕ Nat :=
  if pdLayer d ≠ e.layerId || pdOwner d ≠ s.devId then .inl stNotOwner
  else if e.resend then .inr (pdStep d)
  else if pdFrozen d then .inl stFrozen
  else if bit (steFlags (stepEntry s e.ctx (upStep u.params))) 3 then .inl stNonfinite
  else
    let t := if pdStep d = upExpect u.params then pdStep d else upExpect u.params
    if pdStep d ≠ upExpect u.params && !upAdopt u.params then .inl stStepMismatch
    else if 4 < pdSlots d || (pdPrecond d && !pdDimsOk d)
        || (ruleStreams (s.ctx e.ctx).rule (upRule u.params)).any (fun k => decide (3 + pdSlots d ≤ k)) then .inl stBadParam
    else .inr t

/-- Take an owner's entry. -/
def takeOwner (s : State) (e : UpdEntry) (u : UpdCmd) : State :=
  let (s, c, d) := vaRead s 4 e.ctx e.param 128
  let e := { e with phase := 1, desc := d }
  let s := s.updEntry e.id fun _ => e
  if c ≠ 0 then earlyReturn s { e with desc := [] } stAborted
  else match ownerCheck s e u d with
    | .inl st => earlyReturn s e st
    | .inr t => match reachVRec s e.ctx e.vrec with
      | (s, .inr st) => earlyReturn s e st
      | (s, .inl pa) =>
        let v := readVRec s pa
        if e.resend then startReserve s { e with t := t, newVer := v.cur, curBuf := v.curBuf }
        else if e.newVer ≠ (v.cur + 1) % 65536 then earlyReturn s e stBadParam
        else startReserve s { e with t := t }

/-- Take a layer of a PRECOND (R355). -/
def takePrecond (s : State) (e : UpdEntry) (u : UpdCmd) : State :=
  let done := fun (s : State) (e : UpdEntry) (st : Nat) => dropEntry (reportEntry s e st) e.id
  if e.param % 128 ≠ 0 then done s e stBadParam
  else
    let (s, c, d) := vaRead s 4 e.ctx e.param 128
    let e := { e with phase := 3, desc := d, layerId := pdLayer d }
    let s := s.updEntry e.id fun _ => e
    if c ≠ 0 then done s { e with desc := [] } stAborted
    else if pdFrozen d then done s e stFrozen
    else if !pdPrecond d || !pdDimsOk d then done s e stBadParam
    else newTask s e true (pcRule u.params)

/-- Entries in progress, of the window. -/
def inWindow (s : State) : Nat :=
  (s.upd.entries.filter fun e => !e.replica && decide (1 ≤ e.phase) && decide (e.phase ≤ 4)).length

/-- The next entry that may be taken: the first of its command that is left. -/
def nextEntry (s : State) : Option (UpdEntry × UpdCmd) :=
  s.upd.cmds.findSome? fun u =>
    if u.sealed then (s.upd.entries.find? fun e => e.cmd == u.cmd && !e.replica && e.phase == 0).map fun e => (e, u)
    else none

/-- Owner entries are taken in list order while the window, the collective places and `ENABLE`
allow. -/
def kickUpdN : Nat → State → State
  | 0, s => s
  | n + 1, s =>
    if !updEnabled s || updWindow s ≤ inWindow s then
      s.onRed fun d => { d with placeWait := d.placeWait.filter (· != 256) }
    else match nextEntry s with
      | some (e, u) =>
        if u.precond then kickUpdN n (takePrecond s e u)
        else
          let (s, ok) := askPlace s 256
          if ok then kickUpdN n (takeOwner s e u) else s
      | none => s

def kickUpd (s : State) : State := kickRed (kickUpdN 2048 s)

end Sys2Proof.Machine
end

