-- ==== Sys2Proof/Machine/UpdIsa.lean ====
section
/-! DEFINITION. The instructions of the update vector engine (R342 to R349), each run by the task in
progress when its next word has that opcode; and the change of tasks (R351, R352). -/
namespace Sys2Proof.Machine

open Sys2Proof

/-! Registers (R344). -/

def Task.vreg (t : Task) (r : Nat) : List Nat :=
  match Tbl.get? t.v r with
  | some l => l
  | none => (List.range 4096).map fun i => (Config.freeBits (t.base + 4096 * r + i)).toNat % 2 ^ 32

def Task.setV (t : Task) (r : Nat) (l : List Nat) : Task := { t with v := Tbl.insert t.v r l }
def Task.s (t : Task) (i : Nat) : Nat := t.sreg.getD i 0
def Task.setS (t : Task) (i v : Nat) : Task := { t with sreg := t.sreg.set i v }
def Task.lcAt (t : Task) (k : Nat) : Nat := if k = 0 then 0 else t.lc.getD (k - 1) 0

/-- Row and column of an instruction, with its loop counters added in 10 bits. -/
def Task.row (t : Task) (w : Nat) : Nat := (wRow w + t.lcAt (wRowLc w)) % 1024
def Task.col (t : Task) (w : Nat) : Nat := (wCol w + t.lcAt (wColLc w)) % 1024

/-- Active lanes of the current tile (R343); outside the body there is no tile. -/
def tileLanes (t : Task) (d : List Byte) : Nat :=
  if t.part = 1 then min 4096 (pdK d t.seg * pdN d t.seg - 4096 * t.unit) else 0

/-- Lanes on which an instruction that reaches no stream acts. -/
def aluLanes (t : Task) (d : List Byte) : Nat :=
  if t.mode = 1 && t.part == 1 then tileLanes t d else 4096

def runningTask (s : State) : Option Task := s.upd.running.bind s.task?

/-- The task in progress moves past its instruction. -/
def pastInstr (s : State) (t : Task) : State := s.updTask t.id fun t => { t with pc := t.pc + 1 }

/-- Lift an instruction to its row: the word at the task's address has the row's opcode. -/
def updInstr (opc : Nat) (s : State) (f : Task → UpdEntry → Nat → State → State) : Out :=
  .next (match runningTask s with
    | some t => match s.updEnt? t.entry with
      | some e =>
        let w := ruleWord (s.ctx t.ctx).rule t.pc
        if dieRuns s 4 && wOpc w == opc then f t e w s else s
      | none => s
    | none => s)

/-- A lane-by-lane operation on words. -/
def updAlu (opc ops : Nat) (f : Nat → Nat → Nat → Nat) (s : State) : Out :=
  updInstr opc s fun t e w s =>
    let n := aluLanes t e.desc
    let arg := fun (sc : Bool) (r : Nat) => if sc then List.replicate 4096 (t.s r) else t.vreg r
    let a := t.vreg (wVa w)
    let b := arg (wBs w) (wVb w)
    let c := arg (wCs w) (wVc w)
    let new := (List.range n).map fun i => f (a.getD i 0) (b.getD i 0) (c.getD i 0)
    let s := s.charge t.ctx acOps (ops * n)
    pastInstr (s.updTask t.id fun t => t.setV (wVd w) (new ++ (t.vreg (wVd w)).drop n)) t

def fop1 (f : FVal → FVal) (a _ _ : Nat) : Nat := toF32 (f (ofF32 a))
def fop2 (f : FVal → FVal → FVal) (a b _ : Nat) : Nat := toF32 (f (ofF32 a) (ofF32 b))
def fop3 (f : FVal → FVal → FVal → FVal) (a b c : Nat) : Nat := toF32 (f (ofF32 a) (ofF32 b) (ofF32 c))

/-- Square root, correctly rounded (R348). -/
def sqrt32 (x : FVal) : FVal :=
  match x with
  | .nan => .nan
  | .inf n => if n then .nan else .inf false
  | .fin n m _ => if m = 0 then .fin n 0 0 else if n then .nan else f32 (bsqrt x)

/-- VADD (R348). -/
def execVadd (s : State) : Out := updAlu 0x01 1 (fop2 fadd) s
/-- VSUB (R348). -/
def execVsub (s : State) : Out := updAlu 0x02 1 (fop2 fun a b => fadd a b.neg) s
/-- VMUL (R348). -/
def execVmul (s : State) : Out := updAlu 0x03 1 (fop2 fmul) s
/-- VFMA (R348): one rounding. -/
def execVfma (s : State) : Out := updAlu 0x04 2 (fop3 fun a b c => fadd (fmul a b) c) s
/-- VMAX (R348). -/
def execVmax (s : State) : Out := updAlu 0x05 1 (fop2 fmaxIeee) s
/-- VMIN (R348). -/
def execVmin (s : State) : Out := updAlu 0x06 1 (fop2 fminIeee) s
/-- VABS (R348): the sign bit is cleared. -/
def execVabs (s : State) : Out := updAlu 0x07 1 (fop1 FVal.abs) s
/-- VNEG (R348): the sign bit is inverted. -/
def execVneg (s : State) : Out := updAlu 0x08 1 (fop1 FVal.neg) s
/-- VCMPLT (R348): 0.0 when either operand is NaN. -/
def execVcmplt (s : State) : Out :=
  updAlu 0x09 1 (fun a b _ => if flt (ofF32 a) (ofF32 b) then f32Nat 1 else 0) s
/-- VSEL (R41, R348): a NaN is taken as non-zero; a NaN it passes on is the canonical one. -/
def execVsel (s : State) : Out := updAlu 0x0A 1 (fop3 fun a b c => if a.isZero then c else b) s
/-- VRCP (R348). -/
def execVrcp (s : State) : Out := updAlu 0x10 1 (fop1 vuRcp) s
/-- VRSQRT (R348). -/
def execVrsqrt (s : State) : Out := updAlu 0x11 1 (fop1 vuRsqrt) s
/-- VSQRT (R348). -/
def execVsqrt (s : State) : Out := updAlu 0x12 1 (fop1 sqrt32) s
/-- VEXP2 (R348). -/
def execVexp2 (s : State) : Out := updAlu 0x13 1 (fop1 vuExp2) s
/-- VLOG2 (R348). -/
def execVlog2 (s : State) : Out := updAlu 0x14 1 (fop1 vuLog2) s

/-- Lane `i` takes part in a sum: in block mode's body only the lanes that lie in the matrix. -/
def accLane (t : Task) (e : UpdEntry) (w i : Nat) : Bool :=
  t.mode != 2 || t.part != 1
    || (decide (1024 * subRow t e.desc + t.row w + i / 1024 < pdK e.desc t.seg)
        && decide (1024 * subCol t e.desc + i % 1024 < pdN e.desc t.seg))

/-- VACC (R348): the order of the adds is not fixed. -/
def execVacc (s : State) : Out :=
  updInstr 0x18 s fun t e w s =>
    let n := aluLanes t e.desc
    let a := t.vreg (wVa w)
    let xs := ((List.range n).filter (accLane t e w)).map fun i => ofF32 (a.getD i 0)
    let sum := freeSum add32 s.free (ofF32 (t.s (wSd w)) :: xs)
    let s := { s with free := s.free + xs.length + 1 }
    let s := s.charge t.ctx acOps n
    pastInstr (s.updTask t.id fun t => t.setS (wSd w) (toF32 sum)) t

/-! Streams (R342, R345, R349). -/

/-- The four rows of a register in a sub-block: register row, first element, and active lanes. -/
def subRows (t : Task) (d : List Byte) (row : Nat) : List (Nat × Nat × Nat) :=
  let n := pdN d t.seg
  (List.range 4).filterMap fun u =>
    let r := 1024 * subRow t d + row + u
    let w := min 1024 (n - 1024 * subCol t d)
    if t.part = 1 && row + u < 1024 && r < pdK d t.seg then some (u, r * n + 1024 * subCol t d, w) else none

/-- Runs of consecutive elements behind the lanes of a register: first lane, first element, count. -/
def laneRuns (t : Task) (d : List Byte) (w : Nat) : List (Nat × Nat × Nat) :=
  if t.mode = 1 then
    let n := tileLanes t d
    if n = 0 then [] else [(0, 4096 * t.unit, n)]
  else (subRows t d (t.row w)).map fun e => (1024 * e.1, e.2.1, e.2.2)

/-- One run of lanes, taken into the register unless a read has failed. -/
def loadRun (t : Task) (e : UpdEntry) (w : Nat) (a : State × Nat × List Nat) (k : Nat × Nat × Nat) :
    State × Nat × List Nat :=
  if a.2.1 ≠ 0 then a else
    let r := streamRead a.1 t e (wSel w) k.2.1 k.2.2
    (r.1, r.2.1, if r.2.1 ≠ 0 then a.2.2 else a.2.2.take k.1 ++ r.2.2 ++ a.2.2.drop (k.1 + k.2.2))

/-- The lanes that a VLD reads: the state, a cause, and the register's new value. -/
def loadLanes (s : State) (t : Task) (e : UpdEntry) (w : Nat) : State × Nat × List Nat :=
  (laneRuns t e.desc w).foldl (loadRun t e w) (s, 0, t.vreg (wVd w))

/-- VLD (R348, R349): lanes with no element keep their values. -/
def execVld (s : State) : Out :=
  updInstr 0x20 s fun t e w s =>
    let r := loadLanes s t e w
    if r.2.1 ≠ 0 then kickUpd (readFailed r.1 t r.2.1 (wSel w))
    else pastInstr (r.1.updTask t.id fun t => t.setV (wVd w) r.2.2) t

/-- The lanes of a run as they are stored: new weights are narrowed through slot 0 (R342); a store of FP32
is no narrowing, draws nothing and counts nothing (R76, R78). -/
def storeLanes (s : State) (t : Task) (fmt first : Nat) (sto : Bool) (ws : List Nat) : State × List Nat :=
  if fmt = 0 then (s, ws.map fun v => toF32 (ofF32 v))
  else s.narrow t.cmd [] fun c =>
    (ws.zipIdx).foldl (fun (a : Cmd × List Nat) x =>
      let i := first + x.2
      let (c, v) := narrowElem a.1 fmt 0 sto 0 (updLane (i / 128) (i % 128)) (ofF32 x.1)
      (c, a.2 ++ [v])) (c, [])

/-- One run of lanes is narrowed and written, unless a write has failed. -/
def storeRun (t : Task) (e : UpdEntry) (w : Nat) (a : State × Nat) (k : Nat × Nat × Nat) : State × Nat :=
  if a.2 ≠ 0 && a.2 ≠ 6 then a else
    let fmt := streamFmt e (wSel w)
    let r := storeLanes a.1 t fmt k.1 (wRnd w) (slice (t.vreg (wVa w)) k.1 k.2.2)
    let b := vaWrite r.1 4 t.ctx (streamVa t e (wSel w) true k.2.1) (elemBytes fmt r.2)
    (b.1, if b.2 = 0 then a.2 else b.2)

/-- The lanes that a VST writes: the state and a cause. -/
def writeLanes (s : State) (t : Task) (e : UpdEntry) (w : Nat) : State × Nat :=
  (laneRuns t e.desc w).foldl (storeRun t e w) (s, 0)

/-- VST (R342, R348). A dropped partial word ends the task, as R275 has it. -/
def execVst (s : State) : Out :=
  updInstr 0x21 s fun t e w s =>
    let r := writeLanes s t e w
    if r.2 ≠ 0 then kickUpd (failTask r.1 t stAborted)
    else pastInstr r.1 t

/-! The working store (R348, R349, R355). -/

/-- A row of a slot; a row past the last holds open values. -/
def slotRow (s : State) (slot r : Nat) : State × List Nat :=
  if r < 1024 then (s, storeRow s slot r)
  else ({ s with free := s.free + 1024 }, (List.range 1024).map fun i => (Config.freeBits (s.free + i)).toNat % 2 ^ 32)

def slotRows (s : State) (slot : Nat) (rs : List Nat) : State × List (List Nat) :=
  rs.foldl (fun (a : State × List (List Nat)) r => let (s, l) := slotRow a.1 slot r; (s, a.2 ++ [l])) (s, [])

/-- Load a register from a slot. -/
def slotLoad (opc : Nat) (rows : Task → Nat → List Nat) (f : Task → Nat → List (List Nat) → List Nat) (s : State) : Out :=
  updInstr opc s fun t _ w s =>
    let (s, l) := slotRows s (wSel w) (rows t w)
    pastInstr (s.updTask t.id fun k => k.setV (wVd w) (f t w l)) t

def fourRows (t : Task) (w : Nat) : List Nat := (List.range 4).map fun u => t.row w + u

/-- VLDC (R348). -/
def execVldc (s : State) : Out :=
  slotLoad 0x22 fourRows (fun t w l => l.flatMap fun r => List.replicate 1024 (r.getD (t.col w) 0)) s
/-- VLDR (R348). -/
def execVldr (s : State) : Out :=
  slotLoad 0x23 (fun t w => [t.row w]) (fun _ _ l => (List.range 4).flatMap fun _ => l.headD []) s
/-- VLDW (R348). -/
def execVldw (s : State) : Out := slotLoad 0x24 fourRows (fun _ _ l => l.flatten) s

/-- VSTW (R348): a row past the last is not written. -/
def execVstw (s : State) : Out :=
  updInstr 0x25 s fun t _ w s =>
    let a := t.vreg (wVa w)
    pastInstr ((List.range 4).foldl (fun s u =>
      if t.row w + u < 1024 then setStoreRow s (wSel w) (t.row w + u) (slice a (1024 * u) 1024) else s) s) t

/-- The statistics block that WLD and WST name: number and dimension held. -/
def statBlock (t : Task) (d : List Byte) (w : Nat) : Nat × Nat :=
  let f := t.row w % 2
  let i := if f = 0 then subRow t d else subCol t d
  (pdBlock d t.seg f i, min 1024 (pdDim d t.seg f - 1024 * i))

/-- WLD (R348, R349). -/
def execWld (s : State) : Out :=
  updInstr 0x26 s fun t e w s =>
    let (b, n) := statBlock t e.desc w
    let (s, c) := blockIn s t.ctx (wSel w) (pdStat e.desc b) n
    if c ≠ 0 then kickUpd (readFailed s t c (wSel w))
    else pastInstr (s.beat (dieCpath 4 0)) t

/-- WST (R348, R349). -/
def execWst (s : State) : Out :=
  updInstr 0x27 s fun t e w s =>
    let (s, c) := blockOut s t.ctx (wSel w) (pdStat e.desc (statBlock t e.desc w).1)
    if c ≠ 0 then kickUpd (failTask s t stAborted)
    else pastInstr (s.beat (dieCpath 4 0)) t

/-! Scalars and control (R348). -/

def sopValue (sel : Nat) (a b c : FVal) : FVal :=
  if sel = 0 then fadd a b
  else if sel = 1 then fmul a b
  else if sel = 2 then fadd (fmul a b) c
  else if sel = 3 then vuRcp a
  else if sel = 4 then vuRsqrt a
  else if sel = 5 then vuExp2 a
  else if sel = 6 then vuLog2 a
  else fmaxIeee a b

/-- SOP (R348). -/
def execSop (s : State) : Out :=
  updInstr 0x30 s fun t _ w s =>
    let v := toF32 (sopValue (wSel w) (ofF32 (t.s (wVa w))) (ofF32 (t.s (wVb w))) (ofF32 (t.s (wVc w))))
    pastInstr ((s.charge t.ctx acOps 1).updTask t.id fun k => k.setS (wSd w) v) t

/-- LOOP (R348): up to `ROW` + 1 times, the counter from 0. -/
def execLoop (s : State) : Out :=
  updInstr 0x38 s fun t _ w s =>
    let k := wSd w % 4
    pastInstr (s.updTask t.id fun t => { t with
      lc := t.lc.set (k - 1) 0
      loops := (t.pc + 1, k, t.row w) :: t.loops }) t

/-- ENDL (R348). -/
def execEndl (s : State) : Out :=
  updInstr 0x39 s fun t _ _ s =>
    match t.loops with
    | [] => pastInstr s t
    | (a, k, last) :: rest =>
      if t.lcAt k < last then s.updTask t.id fun t => { t with lc := t.lc.set (k - 1) (t.lcAt k + 1), pc := a }
      else pastInstr (s.updTask t.id fun t => { t with loops := rest }) t

/-- BODY (R348): the prologue ends, and the first unit of work begins. -/
def execBody (s : State) : Out :=
  updInstr 0x3C s fun t e _ s =>
    let s := pastInstr (s.updTask t.id fun t => { t with part := 1, unit := 0, pass := 0, start := t.pc + 1 }) t
    let (s, c) := loadUnit s { t with unit := 0 } e
    if c ≠ 0 then kickUpd (readFailed s t c 0) else s

/-- A unit of work is retired: the task waits for its next turn (R351, R356). -/
def retireUnit (s : State) (t : Task) (f : Task → Task) : State :=
  let s := (s.beat (dieCpath 4 0)).count64 (updBlk + 0x20) 1
  let (n, s) := ticket s
  (s.updTask t.id fun t => { f t with age := n }).onUpd fun u => { u with running := none }

/-- PASS (R348): pass 1 runs over every tile before pass 2 begins. -/
def execPass (s : State) : Out :=
  updInstr 0x3D s fun t e _ s =>
    if t.unit + 1 < segUnits t e.desc then retireUnit s t fun t => { t with unit := t.unit + 1, pc := t.start }
    else retireUnit s t fun t => { t with unit := 0, pass := 1, pc := t.pc + 1, start := t.pc + 1 }

/-- TAIL (R348): a root computation stores slot 1 to the set that is not in use (R355). -/
def execTailInstruction (s : State) : Out :=
  updInstr 0x3E s fun t e _ s =>
    if t.mode = 3 then
      let (s, c) := match t.blocks with
        | b :: _ => blockOut s t.ctx 1 (pdRoot e.desc (1 - pdCur e.desc) b.1)
        | [] => (s, 0)
      if c ≠ 0 then kickUpd (failTask s t stAborted)
      else retireUnit s t fun t => { t with part := 2, pc := t.pc + 1 }
    else if t.unit + 1 < segUnits t e.desc then retireUnit s t fun t => { t with unit := t.unit + 1, pc := t.start }
    else retireUnit s t fun t => { t with part := 2, pc := t.pc + 1 }

/-- The segment whose factors hold block `b`. -/
def segOfBlock (d : List Byte) (b : Nat) : Nat :=
  if b < ceilDiv (pdDim d 0 0) 1024 + ceilDiv (pdDim d 0 1) 1024 then 0 else 1

/-- Every block of the layer has its root: the sets change over (R355). -/
def finishRoots (s : State) (t : Task) (e : UpdEntry) : State :=
  let s := dropTask s t.id
  let step := if e.committed then (e.t + 1) % 2 ^ 32 else pdStep e.desc
  let (s, c) := vaWrite s 4 e.ctx (e.param + 56) (toLE 4 step)
  let (s, c) := if c ≠ 0 then (s, c)
    else vaWrite s 4 e.ctx e.param (toLE 4 (Nat.xor (fieldLE e.desc 0 4) (2 ^ 22)))
  let st := if c ≠ 0 then stAborted else stOk
  match s.updCmd? e.cmd with
  | some u =>
    if u.precond then dropEntry (reportEntry s e st) e.id
    else settleOwner (s.updEntry e.id fun k => { k with phase := 4, status := max k.status st }) e.id
  | none => s

/-- The task starts on the segment that it now names. -/
def nextSeg (t : Task) (e : UpdEntry) (s : State) : State :=
  let r := startSeg (s.updTask t.id fun _ => t) t e
  if r.2 ≠ 0 then readFailed r.1 t r.2 0 else r.1

/-- END (R334, R348, R355): a segment is written, or a block has its root. -/
def execEndInstr (s : State) : Out :=
  updInstr 0x3F s fun t e _ s =>
    kickUpd (if t.root then
        match t.blocks.drop 1 with
        | [] => finishRoots s t e
        | b :: rest => nextSeg { t with blocks := b :: rest, seg := segOfBlock e.desc b.1 } e s
      else
        let s := mcastSeg s e e.newBuf t.seg
        if t.seg + 1 < pdSegs e.desc then nextSeg { t with seg := t.seg + 1 } e s
        else commitOwner (dropTask s t.id) e)

/-! Tasks. -/

/-- The oldest task that may take the engine. -/
def oldestTask (s : State) : Option Task :=
  (s.upd.tasks.filter fun t => !t.fresh || updEnabled s).foldl (fun (a : Option Task) t =>
    match a with
    | some b => if t.age < b.age then some t else some b
    | none => some t) none

/-- A task takes its turn: a fresh one starts its segment, one in the body loads its unit of work. -/
def resumeTask (t : Task) (e : UpdEntry) (s : State) : State × Nat :=
  if t.fresh then startSeg (s.updTask t.id fun t => { t with fresh := false }) { t with fresh := false } e
  else if t.part = 1 then loadUnit s t e
  else (s, 0)

/-- UPD_TASK_SWITCH (R351). -/
def execUpdTaskSwitch (s : State) : Out :=
  .next (if !dieRuns s 4 || s.upd.running.isSome || fenced s fuUpdate then s
    else match oldestTask s with
      | none => s
      | some t =>
        match s.updEnt? t.entry with
        | none => s
        | some e =>
          let r := resumeTask t e (s.onUpd fun u => { u with running := some t.id })
          if r.2 ≠ 0 then kickUpd (readFailed r.1 t r.2 0) else r.1)

/-- UPD_STREAM_UE (R352): the running task meets an uncorrectable word of memory (kind 0, at `addr`),
one of the working store (1), or a datapath parity error (2); or a word of the working store is
corrected (3, R357). -/
def execUpdStreamUe (kind : Nat) (addr : W64) (s : State) : Out :=
  withUnit (decide (kind < 4)) <|
    match runningTask s with
    | none => s
    | some t =>
      if !dieRuns s 4 then s
      else if kind = 3 then s.count64 (updBlk + 0x40) 1
      else
        let layer := (s.updEnt? t.entry).elim 0 (·.layerId)
        let s := if kind = 0 then updLatch (memUe s addr.toNat 0 false (some t.ctx)) 0 1 0 layer t.ctx
          else fenceEvent (updLatch s kind (kind + 1) 0 layer t.ctx) fuUpdate
        kickUpd (failTask s t stAborted)

end Sys2Proof.Machine
end

