-- ==== Sys2Proof/Machine/Update.lean ====
section
/-! DEFINITION. The commands of the update die (R328 to R341, R350, R355) and the packets and events of
its installs (R220, R319, R336, R337). -/
namespace Sys2Proof.Machine

open Sys2Proof

/-! UPDATE (R329 to R333, R395). -/

/-- Bytes of device memory where every page can be read, without any effect. -/
def vaPeek (s : State) (mmu x va len : Nat) : Option (List Byte) :=
  (pieces va len).foldl (fun a p =>
    a.bind fun l =>
      let (c, pa) := peek s mmu x p.1 false
      if c = 0 then some (l ++ dpaRead s pa p.2) else none) (some [])

def entryBytes (l : List Byte) (i : Nat) : List Byte := slice l (64 * i) 64
def enOwner (b : List Byte) : Bool := !bit (fieldLE b 40 4) 20

def entryStatus (s : State) (x : Nat) (b : List Byte) : State × Nat × Nat :=
  let (s, c, t) := readTree s x (fieldLE b 32 8)
  let num := fieldLE b 24 4
  let bad := bits (fieldLE b 40 4) 21 11 != 0 || fieldLE b 46 2 != 0 || fieldLE b 56 8 != 0
    || fieldLE b 52 4 = 0 || 4096 < fieldLE b 52 4 || fieldLE b 8 8 % 64 != 0 || fieldLE b 0 8 % 128 != 0
    || t.root != enOwner b || (enOwner b && (!numOk num || 1 < numFmt num || numSlot num != 0))
  (s, c, max (treeStatus s t) (if bad then stBadParam else stOk))

/-- Regions of an owner's entry that can be read now: the inactive buffer, and the gradient. -/
def entryRegions (s : State) (x : Nat) (b : List Byte) : List (Nat × Nat) × List (Nat × Nat) :=
  if !enOwner b then ([], [])
  else match vaPeek s 4 x (fieldLE b 0 8) 128, vaPeek s (homeDie s x) x (fieldLE b 8 8) 64 with
    | some d, some r =>
      let n := pdBufBytes d
      ([(fieldLE r (if bit (fieldLE r 24 4) 0 then 8 else 16) 8, n)],
       [(fieldLE b 16 8, n / 2 * fmtBytes (numFmt (fieldLE b 24 4)))])
    | _, _ => ([], [])

def updateStatus (s : State) (x : Nat) (b : List Byte) : Nat :=
  let n := upEntries b
  if n = 0 || 1024 < n || upList b % 64 ≠ 0 || !allZero (b.drop 42) || 4 ≤ fieldLE b 20 4
      || !(modeOf s x (upRule b) == 1 || modeOf s x (upRule b) == 2) || modeOf s x (upRootRule b) ≠ 3
      || (ctxRes s x).channels = 0 || (!upResend b && !steFor (stepEntry s x (upStep b)) (upStep b))
  then stBadParam else stOk

def blankEntry (s : State) (id cmd x idx : Nat) : UpdEntry where
  id := id
  cmd := cmd
  ctx := x
  gen := s.gen x
  idx := idx
  replica := false
  resend := false
  job := 0
  param := 0
  vrec := 0
  grad := 0
  gradNum := 0
  serial := 0
  root := false
  parent := 0
  children := []
  members := 0
  layerId := 0
  newVer := 0
  lrMult := 0
  phase := 0
  status := 0
  heldFrom := none
  heldTo := 0
  ownDone := false
  ownGranted := false
  pa := 0
  grants := []
  refused := none
  committed := false
  t := 0
  desc := []
  curBuf := 0
  newBuf := 0
  askedBy := 0
  askCtx := 0
  askGen := 0

def entryRec (s : State) (id cmd x idx job : Nat) (b : List Byte) (t : Tree) : UpdEntry :=
  { blankEntry s id cmd x idx with
    replica := !enOwner b
    job := job
    param := fieldLE b 0 8
    vrec := fieldLE b 8 8
    grad := fieldLE b 16 8
    gradNum := fieldLE b 24 4
    serial := fieldLE b 28 4
    root := t.root
    parent := t.parent
    children := t.children
    members := fieldLE b 52 4
    layerId := bits (fieldLE b 40 4) 0 20
    newVer := fieldLE b 44 2
    lrMult := fieldLE b 48 4
    phase := if enOwner b then 0 else 10 }

/-- The replica's entry that a packet of the tree names. -/
def replicaFor (s : State) (k : FPkt) : Option UpdEntry :=
  (ctxOfJob s k.job).bind fun x => s.upd.entries.find? fun e =>
    e.replica && e.ctx == x && e.gen == s.gen x && e.serial == k.tag

/-- A replica is asked to reserve: it asks its own record and its subtree (R221, R337). -/
def takeReserve (s : State) (e : UpdEntry) (k : FPkt) : State :=
  if e.phase ≠ 10 then s
  else
    let e := { e with
      phase := 11
      newVer := if bit k.aux 16 then k.aux % 2 ^ 16 else e.newVer
      resend := bit k.aux 16
      askedBy := k.src
      askCtx := k.ctx
      askGen := k.gen }
    let s := askChildren (s.updEntry e.id fun _ => e) e
    grantsIn (tryOwn s e) e.id

/-- A replica's entry completes with the owner's status (R336). -/
def takeNotice (s : State) (e : UpdEntry) (k : FPkt) : State :=
  if e.phase = 5 then s
  else
    let st := k.aux % 256
    let s := sendNotice (abandonEntry s e) e st
    dropEntry (reportEntry s { e with ownGranted := false } st) e.id

/-- A packet that waited for its entry. -/
def takeEarly (s : State) (k : FPkt) : State :=
  match replicaFor s k with
  | none => s
  | some e => if k.type = 0x03 then takeReserve s e k else takeNotice s e k

/-- Packets for an entry that is now registered are taken. -/
def replayEarly (s : State) : State :=
  let mine := s.upd.early.filter fun e => (replicaFor s e.2).isSome
  let s := s.onUpd fun u => { u with early := u.early.filter fun e => (replicaFor s e.2).isNone }
  mine.foldl (fun s e => takeEarly s e.2) s

/-- Register the entries of a command. -/
def addEntries (s : State) (cmd x job : Nat) (l : List Byte) (n : Nat) : State :=
  (List.range n).foldl (fun s i =>
    let (id, s) := ticket s
    let (s, _, t) := readTree s x (fieldLE (entryBytes l i) 32 8)
    s.onUpd fun u => { u with entries := u.entries ++ [entryRec s id cmd x i job (entryBytes l i) t] }) s

def newUpdCmd (cmd x : Nat) (precond : Bool) (params : List Byte) (sealed_ : Bool) (n : Nat) : UpdCmd where
  cmd := cmd
  ctx := x
  precond := precond
  params := params
  sealed := sealed_
  entries := n
  reports := []
  installed := 0
  skipped := 0
  held := 0

def stepSealed (s : State) (x n : Nat) : Bool := steFor (stepEntry s x n) n && steSealed (stepEntry s x n)

/-- An UPDATE begins with the entries of list `l`. -/
def updateStart (q : Nat) (p : Packet) (l : List Byte) (s : State) : State :=
  let x := q % 64
  let b := p.params
  let n := upEntries b
  let (s, id) := issue s q p []
  let ready := upResend b || stepSealed s x (upStep b)
  let s := s.onUpd fun u => { u with cmds := u.cmds ++ [newUpdCmd id x false b ready n] }
  let s := addEntries s id x (upJob b) l n
  let s := if upResend b then
      s.onUpd fun u => { u with entries := u.entries.map fun e =>
        if e.cmd == id && !e.replica then { e with resend := true } else e }
    else s
  kickUpd (replayEarly s)

/-- The status of the n entries of list `l` (a read that fails, and the highest code). -/
def entriesStatus (s : State) (x : Nat) (l : List Byte) (n : Nat) : State × Nat × Nat :=
  (List.range n).foldl (fun (a : State × Nat × Nat) i =>
    let r := entryStatus a.1 x (entryBytes l i)
    (r.1, max a.2.1 r.2.1, max a.2.2 r.2.2)) (s, 0, 0)

/-- What the UPDATE writes meets what it writes or reads elsewhere (R437). -/
def updateOverlap (s : State) (x : Nat) (b l : List Byte) (n : Nat) : Bool :=
  let rs := (List.range n).map fun i => entryRegions s x (entryBytes l i)
  anyMeet ((upReport b, 16 * n) :: rs.flatMap (·.1)) ([(upList b, 64 * n), (upHyper b, 44)] ++ rs.flatMap (·.2))

def updateIssue (q : Nat) (p : Packet) (s : State) : State :=
  let x := q % 64
  let b := p.params
  let st := max (updateStatus s x b) (if fenced s fuUpdate then stFenced else stOk)
  let n := upEntries b
  if st ≠ 0 then refuseAtIssue s q p st
  else
    let (s, c, l) := vaRead s 4 x (upList b) (64 * n)
    if c ≠ 0 then refuseAtIssue s q p stAborted
    else
      let (s, c, st) := entriesStatus s x l n
      let st := if updateOverlap s x b l n then max st stOverlap else st
      if c ≠ 0 || st ≠ 0 then refuseAtIssue s q p (max st (if c ≠ 0 then stAborted else 0))
      else
        updateStart q p l s

/-- UPDATE (R329 to R341). -/
def execUpdate (q : Nat) (s : State) : Out := onHead 0x40 q s (updateIssue q)

/-- UPDATE_SEAL_READY (R332): the step of a waiting UPDATE is sealed. -/
def execUpdateSealReady (id : Nat) (s : State) : Out :=
  .next (match s.updCmd? id with
    | none => s
    | some u =>
      if alive s && !u.sealed && stepSealed s u.ctx (upStep u.params) then
        kickUpd (s.updCmdRec id fun u => { u with sealed := true })
      else s)

/-! PRECOND (R355) and RULE_LOAD (R350). -/

/-- A PRECOND begins with the descriptors of list `l`. -/
def precondStart (q : Nat) (p : Packet) (l : List Byte) (s : State) : State :=
  let x := q % 64
  let b := p.params
  let n := fieldLE b 8 2
  let (s, id) := issue s q p []
  let s := s.onUpd fun u => { u with cmds := u.cmds ++ [newUpdCmd id x true b true n] }
  kickUpd ((List.range n).foldl (fun s i =>
    let (e, s) := ticket s
    s.onUpd fun u => { u with
      entries := u.entries ++ [{ blankEntry s e id x i with param := fieldLE l (8 * i) 8 }] }) s)

def precondIssue (q : Nat) (p : Packet) (s : State) : State :=
  let x := q % 64
  let b := p.params
  let n := fieldLE b 8 2
  let bad := n = 0 || 1024 < n || !allZero (slice b 11 5) || !allZero (b.drop 24) || modeOf s x (pcRule b) ≠ 3
  if bad || fenced s fuUpdate then refuseAtIssue s q p (if bad then stBadParam else stFenced)
  else
    let (s, c, l) := vaRead s 4 x (fieldLE b 0 8) (8 * n)
    if c ≠ 0 then refuseAtIssue s q p stAborted
    else
      precondStart q p l s

/-- PRECOND (R355). -/
def execPrecond (q : Nat) (s : State) : Out := onHead 0x41 q s (precondIssue q)

def ruleLoadIssue (q : Nat) (p : Packet) (s : State) : State :=
  let x := q % 64
  let words := p.par 8 4
  if words = 0 || 4096 < words || !allZero (p.params.drop 12) then refuseAtIssue s q p stBadParam
  else if (runningInCtx s x).any fun c => c.op == 0x40 || c.op == 0x41 then s
  else
    let (s, c, img) := vaRead s 4 x (p.par 0 8) (64 + 8 * words)
    if c ≠ 0 then refuseAtIssue s q p stAborted
    else if !ruleImageOk img words then refuseAtIssue s q p stBadParam
    else completeNow (s.updCtx x fun k => { k with rule := img }) q p stOk 0

/-- RULE_LOAD (R350). -/
def execRuleLoad (q : Nat) (s : State) : Out := onHead 0x43 q s (ruleLoadIssue q)

/-! Reservations (R220, R221, R336, R337). -/

/-- A packet of an update tree: to its entry, or kept until the entry is registered. -/
def toEntry (port : Nat) (k : FPkt) (s : State) : State :=
  if (ctxOfJob s k.job).isNone then s
  else match replicaFor s k with
    | some _ => kickUpd (takeEarly s k)
    | none => s.onUpd fun u => { u with early := u.early ++ [(port, k)] }

/-- RESERVE (R221, R337). -/
def execReserve (port : Nat) (s : State) : Out := onRx 0x03 0 port s (fun _ => awake s) (toEntry port)

/-- NOTICE (R336). -/
def execNotice (port : Nat) (s : State) : Out := onRx 0x24 2 port s (fun _ => awake s) (toEntry port)

/-- The entry of this device that an answer of a child names. -/
def askedEntry (s : State) (k : FPkt) : Option UpdEntry :=
  s.upd.entries.find? fun e =>
    e.ctx == k.ctx && e.serial == k.tag && e.children.contains k.src && !e.grants.contains k.src

/-- GRANT (R337, R338). -/
def execGrant (port : Nat) (s : State) : Out :=
  onAnswer 0x14 port s fun k s =>
    match askedEntry s k with
    | none => s
    | some e =>
      if !(e.phase = 1 || e.phase = 11) then s
      else
        let s := s.updEntry e.id fun e => { e with
          grants := e.grants ++ [k.src]
          refused := if bit k.aux 0 then e.refused else mergeRefusal e.refused (bits k.aux 8 8)
          heldFrom := match e.heldFrom, fieldLE k.pay 0 8 with
            | h, 0 => h
            | none, n + 1 => some n
            | some a, n + 1 => some (min a n)
          heldTo := max e.heldTo (fieldLE k.pay 8 8) }
        kickUpd (grantsIn s e.id)

/-- RESERVATION_GRANT (R220): the oldest reservation that waits on a record asks again. -/
def execReservationGrant (vrec : Nat) (s : State) : Out :=
  .next (match s.upd.resvs.find? (·.vrec == vrec) with
    | none => s
    | some r =>
      match s.updEnt? r.entry with
      | none => s
      | some e => if alive s then kickUpd (grantsIn (tryOwn s e) e.id) else s)

/-! Multicast (R319). -/

/-- A replica whose own copy and subtree are decided reports up the tree. -/
def settleCopy (s : State) (id : Nat) : State :=
  match s.updEnt? id with
  | none => s
  | some e =>
    if e.replica && e.phase == 5 && e.grants.length == e.children.length then
      dropEntry (sendPkt s { mkPkt 0x1C 1 e.askedBy [] with
        job := e.job
        gen := e.askGen
        ctx := e.askCtx
        tag := e.serial
        aux := e.refused.getD 0 }) id
    else s

/-- A replica's copy has landed: it commits, or keeps its current version. -/
def landReplica (s : State) (e : UpdEntry) (c : Coll) (h : Option RedHdr) : State :=
  if c.downFail then
    let s := if e.ownGranted then writeVRec s e.pa { readVRec s e.pa with reserved := false } else s
    let s := if h.isSome then dropColl s c.cmd c.serial else updColl s c.cmd c.serial fun c => { c with done := true }
    let e := { e with ownGranted := false, refused := some stResidue }
    settleCopy (reportEntry (s.updEntry e.id fun _ => e) e stResidue) e.id
  else
    let s := if e.ownGranted then commitRec s e.pa e.newVer else s
    let e := { e with committed := e.ownGranted }
    settleCopy (reportEntry (dropColl (s.updEntry e.id fun _ => e) c.cmd c.serial) e (h.elim 0 (·.status))) e.id

/-- MULTICAST_LANDED (R319): every chunk for replica entry `id` has landed and passed, or the copy has
failed. -/
def execMulticastLanded (id : Nat) (s : State) : Out :=
  .next (match s.updEnt? id with
    | none => s
    | some e =>
      match (if e.phase = 12 && alive s then collOf s e.cmd e.serial else none) with
      | none => s
      | some c =>
        if c.kind = 5 && (c.downFail || c.result.any fun h => decide (h.chunks ≤ c.got.length)) then
          kickUpd (landReplica s e c c.result)
        else s)

/-- COPY_STATUS (R319). -/
def execCopyStatus (port : Nat) (s : State) : Out :=
  onAnswer 0x1C port s fun k s =>
    match askedEntry s k with
    | none => s
    | some e =>
      let s := s.updEntry e.id fun e => { e with
        grants := e.grants ++ [k.src]
        refused := if k.aux % 256 = 0 then e.refused else some (k.aux % 256) }
      kickUpd (if e.replica then settleCopy s e.id else settleOwner s e.id)

end Sys2Proof.Machine
end

