-- ==== Sys2Proof/Machine/Fabric.lean ====
section
/-! DEFINITION. The packets and timers of the trace fabric (chapter 11): remote and host requests,
relay, route changes, drains, the check and commit of routing tables, and fabric time. -/
namespace Sys2Proof.Machine

open Sys2Proof

/-- Every engine takes the steps it can. -/
def kickEngines (s : State) : State := kickUpd (kickAll s)

/-! Remote requests at their destination (R248). -/

/-- A refused request: counted on the home die of the context its `JOB` maps to (CD_0 where it maps to
none) and answered with ABORTED. -/
def nackReq (s : State) (k : FPkt) : State :=
  let d := (ctxOfJob s k.job).elim 0 (homeDie s)
  sendPkt (s.count32 (dmaBlk d + 0x20) 1) { answer k 0x13 [] with aux := stAborted }

/-- Translate a remote request with no `XLATE` latch: the context and physical address. -/
def remotePlace (s : State) (k : FPkt) (write : Bool) : State × Option (Nat × Nat) :=
  match ctxOfJob s k.job with
  | none => (s, none)
  | some x =>
    let (s, c, pa) := translate s (homeDie s x) x k.addr write
    (s, if c = 0 then some (x, pa) else none)



/-- The bytes a REMOTE_WRITE asks to write. -/
def remoteLen (k : FPkt) : Nat := min (bits k.aux 16 16) k.pay.length

/-- A remote write of context `x` at `pa`: `AUX` [0] adds an unsigned 64-bit value. -/
def remoteStore (k : FPkt) (x pa : Nat) (s : State) : State :=
  let n := remoteLen k
  let s := chargeMem s x pa n
  let bad := ueWords s pa n
  if bit k.aux 0 && !bad.isEmpty then nackReq (memUes s bad (some x)) k
  else
    let d := if bit k.aux 0 then toLE n ((leNat (dpaRead s pa n) + leNat (k.pay.take n)) % 2 ^ 64)
      else k.pay.take n
    let r := dpaPut (mergeSyms s pa n (bit k.aux 0) (some x)) pa d (some x)
    if r.2 then nackReq r.1 k else sendPkt r.1 (answer k 0x11 [])

/-- REMOTE_WRITE (R248, R275): `AUX` [31:16] are the bytes written. -/
def execRemoteWrite (port : Nat) (s : State) : Out :=
  onRx 0x01 0 port s (fun _ => awake s) fun k s =>
    match remotePlace s k true with
    | (s, none) => nackReq s k
    | (s, some (x, pa)) => remoteStore k x pa s

/-- A remote read of context `x` at `pa`. -/
def remoteLoad (k : FPkt) (x pa : Nat) (s : State) : State :=
  let n := min 1024 k.aux
  let (s, bad) := checkWords (chargeMem s x pa n) pa n (some x)
  if bad then nackReq s k else sendPkt s (answer k 0x12 (dpaRead s pa n))

/-- REMOTE_READ (R247, R248): `AUX` bytes. -/
def execRemoteRead (port : Nat) (s : State) : Out :=
  onRx 0x02 0 port s (fun _ => awake s) fun k s =>
    match remotePlace s k false with
    | (s, none) => nackReq s k
    | (s, some (x, pa)) => remoteLoad k x pa s

/-! Answers at the requester (R245 to R248, R387, R396). -/

def lateResp (s : State) : State := s.count32 (trcBlk + 0x28) 1

def dropRemote (s : State) (tag : Nat) : State :=
  s.onMov fun m => { m with remote := m.remote.filter (·.tag != tag) }

/-- The request an answer is for: it is over; an answer to none is late. -/
def takeAnswer (s : State) (k : FPkt) (f : Remote → State → State) : State :=
  match s.mov.remote.find? (·.tag == k.tag) with
  | none => lateResp s
  | some r => kickEngines (f r (dropRemote s k.tag))

/-- The data of an answer as the landing of a request. -/
def remoteReq (r : Remote) (data : List Byte) : Req where
  id := 0
  cmd := r.cmd
  ctx := r.ctx
  gen := r.gen
  issuer := r.issuer
  job := r.job
  write := false
  add := false
  host := true
  fn := 0
  va := 0
  len := r.len
  data := data.take r.len
  dst := r.dst
  target := noTarget
  pa := 0
  bad := false
  runAhead := false
  stopped := false

/-- Data of an answer land, for a command that has not ended; a piece of a fetch lands in the saddlebag
(R185). -/
def landAnswer (s : State) (r : Remote) (data : List Byte) (hz : Nat) : State :=
  if (s.cmd? r.cmd).all (·.ended) || r.gen != s.gen r.ctx then s
  else match r.dst with
    | .sth cmd layer off => landFetch s cmd layer off (data.take r.len)
    | _ => landData s (remoteReq r data) hz

/-- An answer of the type lies in a receive queue: it wins over a timer that expires (R29). -/
def arrived (s : State) (f : FPkt → Bool) : Bool := s.fab.rxq.any fun e => e.2.any f

/-- WRITE_ACK (R245). -/
def execWriteAck (port : Nat) (s : State) : Out :=
  onAnswer 0x11 port s fun k s => takeAnswer s k fun _ s => s

/-- READ_DATA (R138, R247) of port `port % 32`; `port / 32` reports an alias hazard on the pad. -/
def execReadData (port : Nat) (s : State) : Out :=
  onAnswer 0x12 (port % 32) s fun k s => takeAnswer s k fun r s => landAnswer s r k.pay (port / 32)

/-- NACK (R248): the command aborts with the status carried. -/
def execNack (port : Nat) (s : State) : Out :=
  onAnswer 0x13 port s fun k s => takeAnswer s k fun r s => endCmd s r.cmd (bits k.aux 0 8)

/-- What an answered request leads to. -/
def hostAnswered (r : Remote) (k : FPkt) (hz : Nat) (s : State) : State :=
  if bits k.aux 0 8 ≠ 0 then endCmd s r.cmd (bits k.aux 0 8)
  else if r.kind = 3 then landAnswer s r k.pay hz
  else if r.kind = 6 then
    match s.cmd? r.cmd with
    | some c => if c.ended then s else scaleReadSend c s
    | none => s
  else s

/-- HOST_RESP (R387): `AUX` [7:0] is the status; data of a read land, and a granted SCALE_READ sends its
images (R601). The packet is on port `port % 32`; `port / 32` reports an alias hazard on the pad. -/
def execHostResp (port : Nat) (s : State) : Out :=
  onAnswer 0x16 (port % 32) s fun k s => takeAnswer s k fun r s => hostAnswered r k (port / 32) s

/-- RESP_TIMEOUT (R29, R396): the response timer of request `tag` expires. -/
def execRespTimeout (tag : Nat) (s : State) : Out :=
  .next (s.when (alive s && !arrived s fun k => [0x11, 0x12, 0x13, 0x16].contains k.type && k.tag == tag) fun s =>
    match s.mov.remote.find? (·.tag == tag) with
    | some r => kickEngines (endCmd (dropRemote s tag) r.cmd stTimeout)
    | none => s)

/-- The lead carries out a seat's host request and answers it. -/
def hostServe (k : FPkt) (s : State) : State :=
  let f := bits k.aux 1 5
  let n := bits k.aux 16 16
  let resp := fun (s : State) (st : Nat) (d : List Byte) => sendPkt s { answer k 0x16 d with aux := st }
  let write := bit k.aux 0
  let add := bit k.aux 6
  if bit k.aux 7 then resp s (if hostOk s f k.addr (128 * n) true then stOk else stWindow) [] else
  if !hostOk s f k.addr n write || (add && !hostOk s f k.addr n false) then resp s stWindow []
  else if write then
    let d := if add then toLE n ((leNat (hostRead s k.addr n) + leNat (k.pay.take n)) % 2 ^ 64) else k.pay.take n
    resp (hostWrite s k.addr d) 0 []
  else resp s 0 (hostRead s k.addr n)

/-- HOST_REQ (R387): the lead's host interface checks the windows of the named function. -/
def execHostReq (port : Nat) (s : State) : Out :=
  onRx 0x05 0 port s (fun _ => awake s && s.host.linkUp) hostServe

/-! Relay (R385, R386). -/

/-- The packet and queue of a `RELAY_CMD`: the prefix names the function, the epoch and the ring (64 for
an admin ring). -/
def relayedPacket (s : State) (k : FPkt) : Packet :=
  let f := fieldLE k.pay 0 1 % 32
  let ring := fieldLE k.pay 2 2
  { bytes := k.pay.drop 16, q := if ring < 64 then 128 + ring else 192 + f, fn := f,
    lead := some (k.src, fieldLE k.pay 1 1 / 16), us := s.nowUs, stride := s.nowStride }

/-- A good relayed packet waits to issue. -/
def queueRelayed (p : Packet) (s : State) : State :=
  let s := if isContextQueue p.q then arriveBatches (p.q % 64) p s else s
  s.onCp fun c => { c with waiting := Tbl.upd [] c.waiting p.q (· ++ [p]) }

/-- RELAY_CMD (R385, R386, R413): the seat makes the checks of context and generation, and executes the
packet as its own. -/
def execRelayCmd (port : Nat) (s : State) : Out :=
  onRx 0x04 0 port s (fun _ => awake s) fun k s =>
    let p := relayedPacket s k
    let st := contextCheck s p.q p
    if st ≠ 0 then s.addCpl p.q (refusalCpl s p st 0)
    else queueRelayed p s

def setRelayed (s : State) (l : List Relayed) : State := s.onFab fun f => { f with relayed := l }

/-- The completion entry of a relayed packet, from the bytes `e` of the seat's. -/
def relayedCpl (r : Relayed) (e : List Byte) : Cpl where
  serial := r.serial
  status := fieldLE e 4 1
  op := r.op
  ctx := fieldLE e 6 1 % 64
  gen := fieldLE e 7 1
  ovf := fieldLE e 8 8
  csw := fieldLE e 16 4
  runUs := fieldLE e 20 4
  overrunUs := fieldLE e 24 4
  src := fieldLE e 28 2 % 4096
  noIrq := r.noIrq
  lead := none
  fn := r.fn

/-- RELAY_CPL (R385, R386): `AUX` [3:0] is the epoch, [31:16] the ring's queue. -/
def execRelayCpl (port : Nat) (s : State) : Out :=
  onRx 0x15 1 port s (fun _ => true) fun k s =>
    let q := bits k.aux 16 16
    let e := k.pay
    if bits k.aux 0 4 ≠ Tbl.get 0 s.fab.epoch k.src then lateResp s
    else match s.fab.relayed.find? fun r => r.seat == k.src && r.q == q && r.serial == fieldLE e 0 4 with
      | none => s
      | some r =>
        (setRelayed s (s.fab.relayed.erase r)).addCpl r.q (relayedCpl r e)

/-- A packet relayed to a seat whose relay is reset completes with ABORTED. -/
def relayAborted (s : State) (r : Relayed) : Cpl where
  serial := r.serial
  status := stAborted
  op := r.op
  ctx := r.pctx
  gen := r.gen
  ovf := 0
  csw := 0
  runUs := 0
  overrunUs := 0
  src := s.devId
  noIrq := r.noIrq
  lead := none
  fn := r.fn

/-- The lead resets a seat's relay (R386). -/
def resetRelay (s : State) (seat : Nat) : State :=
  let out := s.fab.relayed.filter (·.seat == seat)
  let s := out.foldl (fun s r => s.addCpl r.q (relayAborted s r)) s
  let s := s.onFab fun f => { f with
    epoch := Tbl.upd 0 f.epoch seat fun e => (e + 1) % 16
    relayed := f.relayed.filter (·.seat != seat)
    purging := insertAsc seat f.purging }
  sendPkt s (mkPkt 0x06 0 seat [])

def isLead (s : State) : Bool := s.boot.devIdValid && s.devId % 64 == 0
def seatOfMine (s : State) (d : Nat) : Bool := isLead s && d / 64 == s.devId / 64 && d != s.devId

/-- A write of `TRC_RELAY_RESET`. -/
def relayResetWrite (s : State) (v : Nat) : State :=
  let s := s.setReg (trcBlk + 0x14) (bits v 0 6)
  let d := leadOf s + bits v 0 6
  if bit v 6 && seatOfMine s d then resetRelay s d else s

/-- RELAY_RESET (R386). -/
def execRelayReset (fn : Nat) (v : W64) (s : State) : Out :=
  .next ((touchReg s fn (trcBlk + 0x14)).when (owWrite s fn && linkRuns s 0) fun s => relayResetWrite s v.toNat)

/-- RELAY_PURGE (R386): the queued relay packets of every context are discarded. -/
def execRelayPurge (port : Nat) (s : State) : Out :=
  onRx 0x06 0 port s (fun _ => awake s) fun k s =>
    sendPkt (s.onCp fun c => { c with waiting := c.waiting.filter (·.1 < 128) }) (answer k 0x1D [])

/-- PURGE_ACK (R386): all credits of the seat are restored. -/
def execPurgeAck (port : Nat) (s : State) : Out :=
  onRx 0x1D 1 port s (fun _ => true) fun k s =>
    s.onFab fun f => { f with purging := f.purging.filter (· != k.src) }

/-! Route changes (R372). -/

/-- Lift a type that arrives on VC0, VC1 and VC2: the first channel whose oldest packet has it. -/
def onRx3 (type p : Nat) (s : State) (f : FPkt → State → State) : Out :=
  match (List.range 3).find? fun v => (rxOf s p v).head?.any (·.type == type) with
  | some v => onRx type v p s (fun _ => true) f
  | none => withUnit (decide (p ≤ 24)) s

/-- ORDER_MARK (R372): answered on VC3; `AUX` names the channel. -/
def execOrderMark (port : Nat) (s : State) : Out :=
  onRx3 0x0E port s fun k s => sendPkt s { mkPkt 0x39 3 k.src [] with aux := k.vc }

/-- Place the marks of destination `d` at the tail of its old port's queue; where one is outstanding
already, its packets go to the port of the new entry. -/
def placeMarks (old : Nat) (s : State) (d : Nat) : State :=
  (List.range 3).foldl (fun s v =>
    match markOf s v d with
    | some m => s.onFab fun f => { f with
        marks := f.marks.map fun a => if a = m then { a with newPort := actPort s d } else a }
    | none =>
      (enqueue s old (24, markPkt s v d)).onFab fun f => { f with
        marks := f.marks ++ [⟨d, v, old, actPort s d, s.nowUs⟩] }) s

/-- Destinations that waited for marks change their route, in rising order. -/
def drainOld : Nat → State → State
  | 0, s => s
  | n + 1, s =>
    match s.fab.oldPorts with
    | [] => s
    | (d, old) :: t =>
      if 256 < s.fab.marks.length + 3 then s
      else
        let s := s.onFab fun f => { f with oldPorts := t }
        drainOld n (if actPort s d != old && (portOf s old).st == 2 then placeMarks old s d else s)

/-- A mark has returned: the held packets go out of the new port. -/
def endMark (s : State) (m : Mark) : State :=
  let out := heldFor s m.vc m.dest
  let s := s.onFab fun f => { f with
    held := Tbl.erase f.held (markKey m.vc m.dest)
    marks := f.marks.filter (· != m) }
  drainOld 4096 (out.foldl (fun s x => enqueue s m.newPort x) s)

/-- ORDER_ACK (R372). -/
def execOrderAck (port : Nat) (s : State) : Out :=
  onRx 0x39 3 port s (fun _ => true) fun k s =>
    match markOf s (k.aux % 4) k.src with
    | some m => endMark s m
    | none => s

/-- ORDER_ACK_TIMEOUT (R29, R372 item 6). -/
def execOrderAckTimeout (dest vc : Nat) (s : State) : Out :=
  .next (s.when (linkRuns s 0 && !arrived s fun k => k.type == 0x39 && k.src == dest && k.aux % 4 == vc) fun s =>
    match markOf s vc dest with
    | some m => endMark (s.count32 (trcBlk + 0x30) 1) m
    | none => s)

/-! Generations (R382, R383). -/

/-- Both link dies hold generation `g` of a source context, or a later one. -/
def bothHold (s : State) (src ctx g : Nat) : Bool :=
  (List.range 2).all fun d => (genRec s d src ctx).1.any fun r => !genStale (some g) r

/-- Answer a `DRAIN`: the drop counts of both link dies, which return to 0. -/
def answerDrain (s : State) (k : FPkt) : State :=
  let n := (genRec s 0 k.src k.ctx).2 + (genRec s 1 k.src k.ctx).2
  let s := (List.range 2).foldl (fun s d => setGenRec s d k.src k.ctx ((genRec s d k.src k.ctx).1, 0)) s
  sendPkt s { answer k 0x1B [] with tag := k.vc, aux := min n (2 ^ 32 - 1) }

/-- DRAIN (R383). -/
def execDrain (port : Nat) (s : State) : Out :=
  onRx3 0x0F port s fun k s =>
    if bothHold s k.src k.ctx k.gen then answerDrain s k
    else s.onFab fun f => { f with drains := f.drains ++ [k] }

/-- Answer the drains that wait and need wait no longer. -/
def answerDrains (s : State) : State :=
  let ready := s.fab.drains.filter fun k => bothHold s k.src k.ctx k.gen
  let s := s.onFab fun f => { f with drains := f.drains.filter fun k => !bothHold s k.src k.ctx k.gen }
  ready.foldl answerDrain s

/-- GEN_NOTICE (R383). -/
def execGenNotice (port : Nat) (s : State) : Out :=
  onRx 0x37 3 port s (fun _ => true) fun k s =>
    answerDrains (raiseGen (raiseGen s 0 k.src k.ctx k.gen) 1 k.src k.ctx k.gen)

/-- RESTART (R382, R386). -/
def execRestart (port : Nat) (s : State) : Out :=
  onRx 0x38 3 port s (fun _ => true) fun k s =>
    let gone := fun (key : Nat) => key % 2 ^ 18 / 64 == k.src
    let s := s.onFab fun f => { f with gens := f.gens.filter fun e => !gone e.1 }
    if seatOfMine s k.src then resetRelay s k.src else s

/-! Routing tables (R377 to R380). -/

def pendRoute (s : State) (d : Nat) : Nat := bits (pendEntry s d) 0 5
def allDests : List Nat := List.range 4096
def allPorts : List Nat := List.range 24
def upPorts (s : State) : List Nat := allPorts.filter fun p => (portOf s p).st == 2

/-- A routing table as egress ports by destination. -/
abbrev Route := Nat → Nat

/-- A neighbour's table as received: which 0 pending, 1 active. -/
def peerRoute (s : State) (p which : Nat) : Route := fun d => Tbl.get rpAbsent s.fab.peerTabs (8192 * p + 4096 * which + d)

/-- The first destination at which tables X (this device) and Y (the neighbour on port p) break R379,
with its cause. -/
def turnFault (s : State) (p : Nat) (tx ty : Route) : Option (Nat × Nat) :=
  let q := portOf s p
  allDests.findSome? fun d =>
    if ty d ≠ q.peerPort then none
    else if tx d = rpAbsent then some (d, 5)
    else if s.devId < q.peer && tx d != rpLocal
        && !(tx d < 24 && decide ((portOf s (tx d)).peer < s.devId)) then some (d, 4)
    else none

/-- The local check (R378 step 1): the first destination that fails, with its cause. The levels compared
are both protocol levels and the feature level (assumption log 55). -/
def localFault (s : State) : Option (Nat × Nat) :=
  let nbrs := upPorts s
  allDests.findSome? fun d =>
    let e := pendEntry s d
    let r := bits e 0 5
    let own := s.boot.devIdValid && d == s.devId
    if (r == rpLocal) != own then some (d, 1)
    else if r < rpLocal && (portOf s r).st != 2 then some (d, 2)
    else if nbrs.any fun p => (portOf s p).peer == d && (portOf s p).peerValid
        && (bits e 8 8 != (portOf s p).peerHigh || bits e 16 8 != (portOf s p).peerLow
          || bits e 24 8 != (portOf s p).peerFeature) then some (d, 3)
    else none

/-- A pending table that was loaded and checked, or is being checked. -/
def ownPending (s : State) : Bool := s.fab.pendSt == 1 || s.fab.pendSt == 2

/-- Pairings of step 3 that hold the neighbour's pending table. -/
def pendFault (s : State) (p : Nat) : Option (Nat × Nat) :=
  match (if ownPending s then turnFault s p (pendRoute s) (peerRoute s p 0) else none) with
  | some e => some e
  | none => if s.fab.activeValid then turnFault s p (actPort s) (peerRoute s p 0) else none

/-- Step 3 on the tables of the neighbour on port p. -/
def ruleFault (s : State) (p : Nat) : Option (Nat × Nat) :=
  match pendFault s p with
  | some e => some e
  | none => turnFault s p (pendRoute s) (peerRoute s p 1)

/-- The packets that carry both tables of this device (assumption log 24): 1,024 entries of one byte
each, `ADDR` the first index, `AUX` [0] which table, [1] it is valid, [4] an answer is asked for. -/
def tablePkts (s : State) (p : Nat) (ask : Bool) : List FPkt :=
  [0, 1].flatMap fun w => (List.range 4).map fun i =>
    let ok := if w = 0 then ownPending s else s.fab.activeValid
    let r : Route := if w = 0 then pendRoute s else actPort s
    let pay := (List.range 1024).map fun j => BitVec.ofNat 8 (if ok then r (1024 * i + j) else rpAbsent)
    { mkPkt 0x36 3 (portOf s p).peer pay with addr := 1024 * i, aux := w + 2 * b2n ok + 16 * b2n ask }

def sendTables (ask : Bool) (s : State) (p : Nat) : State :=
  (tablePkts s p ask).foldl (fun s k => sendPort s p k) s

/-- The pending table is refused; the first failure is recorded. -/
def refuseTable (s : State) (port dest cause : Nat) : State :=
  s.onFab fun f => { f with pendSt := 3, failPort := port, failDest := dest, failCause := cause, check := none }

/-- Once every report and every neighbour's tables have come, the table has passed; the peers it passed
with are kept. -/
def settleCheck (s : State) : State :=
  match s.fab.check with
  | some (_, []) => s.onFab fun f => { f with
      pendSt := 2
      check := none
      passedPeer := (allPorts.filter fun p => (portOf s p).st == 2 || (portOf s p).st == 4).map
        fun p => (p, (portOf s p).peer + 1) }
  | _ => s

/-- What is awaited of port p: p its report, 32 + p its tables. -/
def awaitDone (s : State) (k : Nat) : State :=
  settleCheck (s.onFab fun f => { f with check := f.check.map fun c => (c.1, c.2.filter (· != k)) })

def awaits (s : State) (k : Nat) : Bool := s.fab.check.any fun c => c.2.contains k

/-- Start the check of the pending table (R378). -/
def startCheck (s : State) : State :=
  let s := s.onFab fun f => { f with failPort := 0, failDest := 0, failCause := 0, check := none }
  match localFault s with
  | some (d, c) => refuseTable s 31 d c
  | none =>
    let ps := upPorts s
    let s := s.onFab fun f => { f with pendSt := 1, check := some (s.nowUs, ps ++ ps.map (32 + ·)) }
    settleCheck (ps.foldl (sendTables true) s)

/-- A write of `TRC_ROUTE_CTL`: a hop limit of 0 is ignored. -/
def routeCtlWrite (s : State) (v : Nat) : State :=
  let h := bits v 8 8
  let s := if h = 0 then s else s.setReg trcBlk (256 * h)
  if bit v 0 then startCheck s else s

/-- CHECK (R378). -/
def execCheck (fn : Nat) (v : W64) (s : State) : Out :=
  .next ((touchReg s fn (trcBlk)).when (owWrite s fn && linkRuns s 0 && bit v.toNat 0) fun s => routeCtlWrite s v.toNat)

/-- Store received entries from index `i` on. -/
def storePeerTab (s : State) (p which i : Nat) (l : List Nat) : State :=
  let lo := 8192 * p + 4096 * which + i
  let new := (List.zip ((List.range l.length).map (lo + ·)) l).filter fun e => e.2 != rpAbsent
  s.onFab fun f => { f with
    peerTabs := f.peerTabs.filter (fun e => decide (e.1 < lo)) ++ new
      ++ f.peerTabs.filter fun e => decide (lo + l.length ≤ e.1) }

/-- A neighbour's report on this device's pending table. -/
def takeReport (s : State) (p : Nat) (k : FPkt) : State :=
  if !awaits s p then s
  else if bit k.aux 3 then awaitDone s p
  else refuseTable s p (bits k.aux 16 12) (bits k.aux 28 4)

def reportPkt (s : State) (p : Nat) (r : Option (Nat × Nat)) : FPkt :=
  let (d, c) := r.getD (0, 0)
  { mkPkt 0x36 3 (portOf s p).peer [] with aux := 4 + 8 * b2n r.isNone + 65536 * d + 2 ^ 28 * c }

/-- Both tables of the neighbour on port p have come: the rule is applied; a neighbour that asked has
this device's tables and the report, and the device's own check goes on. -/
def takeTables (s : State) (p : Nat) (ask : Bool) : State :=
  let s := if ask then sendPort (sendTables false s p) p (reportPkt s p (pendFault s p)) else s
  if awaits s (32 + p) then
    match ruleFault s p with
    | some (d, c) => refuseTable s 31 d c
    | none => awaitDone s (32 + p)
  else s

/-- One packet of the neighbour's tables is stored; with the last, both have come. -/
def takeTablePkt (port : Nat) (k : FPkt) (s : State) : State :=
  let w := k.aux % 2
  let i := k.addr % 4096 / 1024 * 1024
  let s := storePeerTab s port w i ((padTo k.pay 1024).map fun b => if bit k.aux 1 then b.toNat % 32 else rpAbsent)
  if w = 1 && i == 3072 then takeTables s port (bit k.aux 4) else s

/-- TABLE_XCHG (R378). -/
def execTableXchg (port : Nat) (s : State) : Out :=
  onRx 0x36 3 port s (fun _ => decide (port < 24)) fun k s =>
    if bit k.aux 2 then takeReport s port k
    else takeTablePkt port k s

/-- A packet that the check awaits of the port has arrived and has still to be taken. -/
def tableHere (s : State) (port : Nat) : Bool :=
  (rxOf s port 3).any fun k => k.type == 0x36 && awaits s (if bit k.aux 2 then port else 32 + port)

/-- ROUTE_CHECK_TIMEOUT (R29, R378): the neighbour on the port counts as FAIL. -/
def execRouteCheckTimeout (port : Nat) (s : State) : Out :=
  withUnit (decide (port < 24)) <|
    s.when (linkRuns s port && (awaits s port || awaits s (32 + port)) && !tableHere s port) fun s =>
      refuseTable s port 0 6

/-- TRC_COMMIT_STRIDE (R380). -/
def execTrcCommitStride (fn : Nat) (v : W64) (s : State) : Out :=
  .next ((touchReg s fn (trcBlk + 0x8)).when (owWrite s fn && linkRuns s 0) fun s => s.setReg (trcBlk + 0x8) v.toNat)

/-! Fabric time (R388 to R392). -/

/-- Candidates the device knows, itself among them where it is one. -/
def allCands (s : State) : List Cand :=
  if isLead s && bit (s.reg (trcBlk + 0x40)) 8 then
    ⟨s.devId, s.fld (trcBlk + 0x40) 0 8, 0, 31, s.nowUs⟩ :: s.fab.cands
  else s.fab.cands

def betterCand (a b : Cand) : Cand :=
  if b.prio < a.prio || (a.prio == b.prio && decide (b.dev < a.dev)) then b else a

/-- The fabric time master, as this device knows it (R389). -/
def bestCand (s : State) : Option Cand :=
  match allCands s with
  | [] => none
  | a :: t => some (t.foldl betterCand a)

/-- The device's time master: the lead of its hitch for a seat, the fabric time master for a lead. -/
def timeMaster (s : State) : Option Nat :=
  if !s.boot.devIdValid then none
  else if s.devId % 64 ≠ 0 then some (leadOf s)
  else (bestCand s).map (·.dev)

/-- The port to the time parent, 31 for none. -/
def parentOf (s : State) : Nat :=
  match timeMaster s with
  | some d => if actPort s d < 24 then actPort s d else 31
  | none => 31

/-- Follow the tables and the best candidate; a device that gains a parent acquires its time. -/
def reparent (s : State) : State :=
  let p := parentOf s
  let best := bestCand s
  let s := s.onFab fun f => { f with
    parentPort := p, master := best.elim 0 (·.dev), masterHops := best.elim 0 (·.hops) }
  if p = 31 then s.onFab fun f => { f with tState := 0, okCount := 0, syncT1 := none }
  else if s.fab.tState = 0 then s.onFab fun f => { f with tState := 1, okCount := 0, lastSyncUs := s.nowUs }
  else s

/-- A packet for the neighbour on port p; an ABSENT neighbour is sent none (R381). -/
def sendNbr (s : State) (p : Nat) (k : FPkt) : State :=
  if actPort s (portOf s p).peer = rpAbsent then s else sendPort s p { k with dest := (portOf s p).peer }

/-- Step the fabric time by `ps` picoseconds, to the nanosecond. -/
def stepTime (s : State) (ps : Int) : State :=
  s.onTim fun t => { t with fabricNs := ((t.fabricNs : Int) + ps / 1000).toNat }

/-- The device's offset from its parent, in ps, from the four timestamps of an exchange (R390). -/
def syncOffset (t1 t2 t3 t4 : Nat) : Int := (((t4 : Int) - t3) - ((t2 : Int) - t1)) / 2

/-- The trim that takes an offset away over the 125 µs to the next exchange, within ±20 ppm: 125 ps for
each ppm (assumption log 25). -/
def trimFor (off : Int) : Int := max (-20) (min 20 (-(off / 125)))

/-- An exchange has been completed with offset `off`: the states of R392, a step where they allow one and
the offset asks for it, else a trim. -/
def takeOffset (s : State) (off : Int) : State :=
  let good : Bool := decide (-10000 < off) && decide (off < 10000)
  let far : Bool := decide (off < -1000000) || decide (1000000 < off)
  let s := s.setReg (trcBlk + 0x50) (max (-(2 ^ 31)) (min (2 ^ 31 - 1) off) % 2 ^ 32).toNat
  let s := s.onFab fun f => { f with lastSyncUs := s.nowUs, syncT1 := none }
  let trim := fun (s : State) => stepTime (s.onFab fun f => { f with trimPpm := trimFor off }) (trimFor off * 125)
  if s.fab.tState = 2 then
    if far then stepTime (s.onFab fun f => { f with tState := 1, okCount := 0 }) (-off) else trim s
  else
    let n := if good then (if s.fab.tState = 3 then 1 else s.fab.okCount + 1) else 0
    let s := s.onFab fun f => { f with
      okCount := n
      tState := if 8 ≤ n then 2 else 1
      syncLost := f.syncLost && decide (n < 8) }
    if good then trim s else stepTime s (-off)

/-- SYNC (R390): `ps` is the device's time at which the packet passed the FEC boundary. A request is
answered at once with its time of arrival and of departure (`AUX` 1, assumption log 25). -/
def execSync (port ps : Nat) (s : State) : Out :=
  onRx 0x33 3 port s (fun _ => decide (port < 24)) fun k s =>
    if k.aux % 2 = 0 then sendNbr s port { mkPkt 0x33 3 0 (toLE 8 ps ++ toLE 8 ps) with aux := 1 }
    else match s.fab.syncT1 with
      | some t1 =>
        if port = s.fab.parentPort && s.fab.tState != 0 then
          takeOffset s (syncOffset t1 (fieldLE k.pay 0 8) (fieldLE k.pay 8 8) ps)
        else s
      | none => s

/-- SYNC_TIMER (R390): `ps` is the time at which the request leaves. -/
def execSyncTimer (ps : Nat) (s : State) : Out :=
  .next (s.when (linkRuns s 0 && s.fab.tState != 0) fun s =>
    sendNbr (s.onFab fun f => { f with syncT1 := some ps }) s.fab.parentPort (mkPkt 0x33 3 0 []))

/-- A candidate is heard of: the entry by its shortest path is kept. -/
def hearCand (new : Cand) (s : State) : State :=
  let c := match s.fab.cands.find? (·.dev == new.dev) with
    | some o => if o.port = new.port || new.hops < o.hops then new
        else { o with prio := new.prio, us := s.nowUs }
    | none => new
  reparent (s.onFab fun f => { f with cands := f.cands.filter (·.dev != new.dev) ++ [c] })

/-- ANNOUNCE (R389): `ADDR` is the candidate, `AUX` [7:0] its priority, [31:8] the sender's hops from it
(assumption log 25). -/
def execAnnounce (port : Nat) (s : State) : Out :=
  onRx 0x34 3 port s (fun _ => decide (port < 24)) fun k s =>
    let d := k.addr % 4096
    if s.boot.devIdValid && d == s.devId then s
    else
      let new : Cand := ⟨d, bits k.aux 0 8, min 63 (bits k.aux 8 24 + 1), port, s.nowUs⟩
      hearCand new s

/-- ANNOUNCE_TIMER (R389). -/
def execAnnounceTimer (s : State) : Out :=
  .next (s.when (linkRuns s 0) fun s =>
    match bestCand s with
    | some c => (upPorts s).foldl (fun s p =>
        sendNbr s p { mkPkt 0x34 3 0 [] with addr := c.dev, aux := c.prio + 256 * c.hops }) s
    | none => s)

/-- CANDIDATE_TIMEOUT (R389). -/
def execCandidateTimeout (dev : Nat) (s : State) : Out :=
  .next (s.when (linkRuns s 0) fun s =>
    reparent (s.onFab fun f => { f with cands := f.cands.filter (·.dev != dev) }))

/-- HOLDOVER_TIMEOUT (R392). -/
def execHoldoverTimeout (s : State) : Out :=
  .next (s.when (linkRuns s 0 && (s.fab.tState == 1 || s.fab.tState == 2)) fun s =>
    s.onFab fun f => { f with tState := 3, okCount := 0, holdUs := s.nowUs })

/-- SYNC_LOST_TIMEOUT (R392). -/
def execSyncLostTimeout (s : State) : Out :=
  .next (s.when (linkRuns s 0 && s.fab.tState == 3) fun s => s.onFab fun f => { f with syncLost := true })

/-! Commit of a routing table (R372, R376, R380). -/

def actBase : Nat := trcBlk + 0x8000

/-- The active entries become the pending ones. -/
def copyTable (s : State) : State :=
  s.onRegs fun r => { r with
    vals := r.vals.filter (fun e => decide (e.1 < actBase))
      ++ ((r.vals.filter fun e => decide (trcBlk + 0x4000 ≤ e.1) && decide (e.1 < actBase)).map
        fun e => (e.1 + 0x4000, e.2))
      ++ r.vals.filter fun e => decide (actBase + 0x4000 ≤ e.1) }

/-- Destinations whose port changes and whose old port is UP, with that port. -/
def changedDests (s : State) : List (Nat × Nat) :=
  if !s.fab.activeValid then []
  else allDests.filterMap fun d =>
    let old := routePort s d
    if old < 24 && old != pendRoute s d && (portOf s old).st == 2 then some (d, old) else none

/-- Make the passed pending table active. -/
def commitTable (s : State) : State :=
  let changed := changedDests s
  let s := copyTable s
  let s := s.onFab fun f => { f with
    activeValid := true
    pendSt := 0
    checkedPeer := f.passedPeer
    oldPorts := changed }
  let s := allPorts.foldl (fun s p =>
    if (portOf s p).st = 4 && Tbl.get 0 s.fab.checkedPeer p == (portOf s p).peer + 1 then
      updPort s p fun q => { q with st := 2 }
    else s) s
  let s := drainOld 4096 s
  let s := if s.fab.restartSent then s
    else
      let there := allDests.filter fun d => actPort s d < rpLocal
      there.foldl (fun s d => sendPkt s (mkPkt 0x38 3 d [])) (s.onFab fun f => { f with restartSent := true })
  reparent s

/-- ROUTE_TABLE_COMMIT (R380, R450). -/
def execRouteTableCommit (s : State) : Out :=
  .next <| popDue s .routeTable fun s =>
    let s := s.setReg (trcBlk + 0x8) 0
    if s.fab.pendSt = 2 then commitTable s else s

end Sys2Proof.Machine
end

