-- ==== Sys2Proof/Machine/Contexts.lean ====
section
/-! DEFINITION. Paddocks, contexts, switches and teardown (chapter 13), and the end of a
command. -/
namespace Sys2Proof.Machine

open Sys2Proof

/-! Paddocks (R451 to R454). -/

def pdkSetOf (p : Packet) : PdkSet where
  clusters := p.par 4 4
  groups := p.par 8 8
  ways := (List.range 4).map fun k => p.par (16 + 2 * k) 2
  channels := p.par 24 2
  cacheWays := p.par 26 2

/-- The two sets share a resource. -/
def setsMeet (a b : PdkSet) : Bool :=
  andNat a.clusters b.clusters != 0 || andNat a.groups b.groups != 0
    || ((List.range 4).any fun k => andNat (a.ways.getD k 0) (b.ways.getD k 0) != 0)
    || andNat a.channels b.channels != 0 || andNat a.cacheWays b.cacheWays != 0

def maskMinus (a b : Nat) : Nat := a - andNat a b

/-- What `a` holds and `b` does not. -/
def setMinus (a b : PdkSet) : PdkSet where
  clusters := maskMinus a.clusters b.clusters
  groups := maskMinus a.groups b.groups
  ways := (List.range 4).map fun k => maskMinus (a.ways.getD k 0) (b.ways.getD k 0)
  channels := maskMinus a.channels b.channels
  cacheWays := maskMinus a.cacheWays b.cacheWays

def setEmpty (a : PdkSet) : Bool :=
  a.clusters == 0 && a.groups == 0 && a.ways.all (· == 0) && a.channels == 0 && a.cacheWays == 0

/-- Everything a paddock holds, gains or still has to lose. -/
def pdkClaims (d : Pdk) : List PdkSet := d.res :: (d.change.map (·.2.1)).toList

def ctxsOf (s : State) (p : Nat) : List Nat :=
  (s.sch.ctxs.filter fun e => e.2.live && e.2.pdk == p).map (·.1)

/-- Groups of compute die k in a mask of global groups. -/
def dieGroups (g k : Nat) : Nat := bits g (16 * k) 16

/-- The conditions of R453. -/
def paddockSetOk (s : State) (p : Packet) : Bool :=
  let d := p.par 0 1
  let new := pdkSetOf p
  decide (d < 16) && p.par 1 3 == 0 && decide (new.channels < 4096) && allZero (slice p.params 28 36)
    && ((List.range 16).all fun q => q == d || (pdkClaims (s.pdk q)).all fun r => !setsMeet new r)
    && ((ctxsOf s d).isEmpty || setEmpty (setMinus new (s.pdk d).res))
    && ((bitsOf new.clusters 32).all fun g => dieGroups new.groups (g / 8) != 0)
    && (new.cacheWays == 0 || new.channels != 0)
    && (bitsOf new.channels 12).all fun c => bit s.boot.population c

/-- PADDOCK_SET (R452 to R454): waits at issue until no command of the paddock's contexts runs. -/
def execPaddockSet (q : Nat) (s : State) : Out :=
  onHead 0x52 q s fun p s =>
    let d := p.par 0 1
    if d < 16 && ((s.pdk d).change.isSome || !((ctxsOf s d).all fun x => (runningInCtx s x).isEmpty)) then s
    else if !paddockSetOk s p then completeNow s q p stBadParam 0
    else if !holdsRein s Master.pf then completeNow s q p stNotOwner 0
    else
      let (s, id) := issue s q p []
      s.updPdk d fun t => { t with change := some (id, pdkSetOf p, false) }

/-- Handles of core `c` that belong to context `x` leave it, but for those a running command holds
(R141); what switches had saved of that core is discarded. -/
def leaveCore (x : Nat) (s : State) (c : Nat) : State :=
  let s := scrubCore s c x (heldHandles s c x)
  s.onSch fun h => { h with
    savedHandles := Tbl.upd [] h.savedHandles x fun l => l.filter fun e => e.1 / 64 != c }

def scrubBlocks (s : State) (d x : Nat) (blocks : List Nat) : State :=
  if blocks.isEmpty then s else s.onBlk fun b => { b with scrubs := b.scrubs ++ [(d, x, blocks)] }

/-- The blocks of a stored input are scrubbed, where it lies in the saddlebag. -/
def scrubStored (s : State) (t : Stored) : State :=
  if t.away then s else (List.range 4).foldl (fun s d => scrubBlocks s d t.ctx (t.blocks.getD d [])) s

/-- Stored inputs that lie in removed ways are lost, whole (assumption log 54). -/
def loseWays (s : State) (p : Nat) (gone : PdkSet) : State :=
  let hit := s.blk.stored.filter fun t => !t.away && (ctxsOf s p).contains t.ctx
    && (List.range 4).any fun d => (t.blocks.getD d []).any fun b => bit (gone.ways.getD d 0) (b / 48)
  let s := hit.foldl scrubStored s
  s.onBlk fun b => { b with stored := b.stored.filter (!hit.contains ·) }

/-- A change of paddock p takes effect: what its contexts hold of the resources it loses leaves them. -/
def leaveResources (p id : Nat) (new : PdkSet) (s : State) : State :=
  let gone := setMinus (s.pdk p).res new
  let s := (ctxsOf s p).foldl (fun s x => (pdkCores gone).foldl (leaveCore x) s) s
  let s := loseWays s p gone
  let s := s.onMem fun m => { m with cache := m.cache.filter fun e => !bit gone.cacheWays e.2 }
  s.updPdk p fun d => { d with change := some (id, new, true) }

/-- PADDOCK_SET_APPLY (R141, R179, R272, R450, R454). -/
def execPaddockSetApply (p : Nat) (s : State) : Out :=
  withUnit (decide (p < 16)) <| popDue s (.paddockSet p) fun s =>
    match (s.pdk p).change with
    | some (id, new, false) => leaveResources p id new s
    | _ => s

/-- Bounds of global group n and of a channel in device physical memory. -/
def groupSpan (n : Nat) : Nat × Nat := (2 ^ 33 * n, 2 ^ 33 * (n + 1))
def channelSpan (c : Nat) : Nat × Nat := (ddrBase + 2 ^ 38 * c, ddrBase + 2 ^ 38 * (c + 1))

/-- A scrub of the context's pads or blocks goes on (R142, R179). -/
def scrubbing (s : State) (x : Nat) : Bool := s.pad.scrubs.any (·.ctx == x) || s.blk.scrubs.any (·.2.1 == x)

/-- Removed ways hold zeros. -/
def zeroWays (s : State) (gone : PdkSet) : State :=
  let inWay := fun (d blk : Nat) => bit (gone.ways.getD d 0) (blk / 48)
  s.onBlk fun b => { b with
    mem := b.mem.filter fun c => !inWay (c.1 / 2 ^ 26) (c.1 % 2 ^ 26 / 65536)
    ue := b.ue.filter fun w => !inWay (w / 2 ^ 21) (w % 2 ^ 21 / 2048)
    sym := b.sym.filter fun w => !inWay (w / 2 ^ 21) (w % 2 ^ 21 / 2048) }

/-- What paddock p loses holds zeros, and it holds its new resources. -/
def zeroResources (p : Nat) (new : PdkSet) (s : State) : State :=
  let gone := setMinus (s.pdk p).res new
  let spans := (bitsOf gone.groups 64).map groupSpan ++ (bitsOf gone.channels 12).map channelSpan
  let s := spans.foldl (fun s b => dpaZero s b.1 b.2) s
  let s := zeroWays s gone
  s.updPdk p fun d => { d with res := new, change := none }

/-- PADDOCK_ZEROING_DONE (R142, R454): every scrub has ended, and every removed group, channel and way holds
zeros; the owners change and the command's work is over. -/
def execPaddockZeroingDone (p : Nat) (s : State) : Out :=
  withUnit (decide (p < 16)) <| s.when (alive s && !(ctxsOf s p).any (scrubbing s)) fun s =>
    match (s.pdk p).change with
    | some (_, new, true) => zeroResources p new s
    | _ => s

/-! Context creation (R455 to R458). -/

/-- The context that a CTX_CREATE asks for. -/
def newCtx (s : State) (p : Packet) : Ctx where
  live := true
  coresident := bit (p.par 9 1) 0
  pdk := p.par 8 1
  job := p.par 10 2
  ptBase := p.par 0 8
  regions := (List.range 4).map fun k => p.par (16 + 8 * k) 8
  fn := if s.vfEnabled (p.par 8 1 + 1) then p.par 8 1 + 1 else 0
  debitUs := 0
  resident := !(s.pdk (p.par 8 1)).loaded
  seed := 0#64
  down := none
  held := false
  rule := []

/-- Put a context in its place. -/
def putCtx (s : State) (x : Nat) (c : Ctx) : State :=
  s.onSch fun h => { h with ctxs := Tbl.insert h.ctxs x c }

def coresOnDie (r : PdkSet) (k : Nat) : Nat := 8 * popcount (bits r.clusters (8 * k) 8) 8

/-- Pages of the region on die k: header and park areas, then all with the save areas (R458). -/
def regionPages (r : PdkSet) (k : Nat) : Nat × Nat :=
  let n := coresOnDie r k
  (1 + 2 * n, 1 + 3 * n + ceilDiv (3 * popcount (r.ways.getD k 0) 16) 2)

/-- Page i of the region on die k is mapped as R458 asks. -/
def pageOk (s : State) (x k va i fixed : Nat) : Bool :=
  match walk s x (va + 2 ^ 21 * i) with
  | .bad _ _ => false
  | .pte e =>
    let (c, pa) := checkPte s x e (va + 2 ^ 21 * i) true
    c == 0 && ((isHbm pa && hbmStack pa / 2 == k) || (decide (fixed ≤ i) && isDdr pa))

def regionOk (s : State) (x k : Nat) : Bool :=
  let va := (s.ctx x).regions.getD k 0
  let (fixed, total) := regionPages (ctxRes s x) k
  if bits (ctxRes s x).clusters (8 * k) 8 = 0 then va == 0
  else va != 0 && va % 2 ^ 21 == 0 && decide (va + 2 ^ 21 * total ≤ 2 ^ 48)
    && (List.range total).all fun i => pageOk s x k va i fixed

/-- Words of memory that the walks of a context's regions read. -/
def regionWords (s : State) (x : Nat) : List Nat :=
  ((List.range 4).flatMap fun k =>
    let va := (s.ctx x).regions.getD k 0
    if va = 0 then [] else (List.range (regionPages (ctxRes s x) k).2).flatMap fun i =>
      (walkReads s x (va + 2 ^ 21 * i)).map (· / 32)).foldl (fun l w => insertAsc w l) []

/-- The walks of the new context's regions read their entries, each word checked once (R256, R274). -/
def checkRegions (p : Packet) (s : State) : State :=
  let x := p.ctx % 64
  (regionWords (putCtx s x (newCtx s p)) x).foldl (fun s w => (checkWords s (32 * w) 32 none).1) s

/-- The checks of R456 that need no page table. -/
def createOk (s : State) (p : Packet) : Bool :=
  let d := p.par 8 1
  !(s.ctx (p.ctx % 64)).live && decide (d < 16) && (s.pdk d).res.clusters != 0 && (p.fn == 0 || p.fn == d + 1)
    && (ctxOfJob s (p.par 10 2)).isNone && decide (p.par 9 1 < 2) && p.par 12 4 == 0
    && allZero (slice p.params 48 16)

/-- Replace the bytes of [lo, hi) by those listed, which lie in it, rising. -/
def dpaFill (s : State) (lo hi : Nat) (l : List (Nat × Byte)) : State :=
  s.onMem fun m => { m with
    dpa := m.dpa.filter (fun e => decide (e.1 < lo)) ++ l ++ m.dpa.filter (fun e => decide (hi ≤ e.1))
    ue := m.ue.filter fun w => !(decide (lo / 32 ≤ w) && decide (w < hi / 32))
    sym := m.sym.filter fun w => !(decide (lo / 32 ≤ w) && decide (w < hi / 32)) }

/-- The scale table at reset, TFMT 3 in every slot (R57), and an empty step table (R457). -/
def initHeader (s : State) (x : Nat) : State :=
  let (c, pa) := peek s (homeDie s x) x (scaleVa s x 0) true
  if c ≠ 0 then s
  else
    let s := dpaFill s pa (pa + 0x80000) ((List.range 4096).map fun n => (pa + 128 * n + 65, 3#8))
    dpaFill s (pa + 0x80000) (pa + 0x80080) []

/-- CTX_CREATE (R403, R455 to R458): waits while the context's teardown or a change of its paddock is in
progress. -/
def execCtxCreate (q : Nat) (s : State) : Out :=
  onHead 0x50 q s fun p s =>
    let x := p.ctx % 64
    let d := p.par 8 1
    if (s.ctx x).down.isSome || (s.pdk d).change.isSome then s
    else
      let s := if createOk s p then checkRegions p s else s
      let t := putCtx s x (newCtx s p)
      if createOk s p && (List.range 4).all (regionOk t x) then
        let t := t.onFab fun f => { f with sentTo := Tbl.erase f.sentTo x }
        completeNow (initHeader t x) q p stOk (s.gen x)
      else completeNow s q p stBadParam 0

/-! Switches (R469 to R471). -/

def regionOf (s : State) (x k : Nat) : Nat := (s.ctx x).regions.getD k 0
def coreIndex (s : State) (x core : Nat) : Nat :=
  let mine := (pdkCores (ctxRes s x)).filter fun c => coreDie c == coreDie core
  (mine.findIdx? (· == core)).getD 0

/-- The pad save area of a core and the saddlebag save area of a die (R458). -/
def padSave (s : State) (x core : Nat) : Nat :=
  let d := coreDie core
  regionOf s x d + 2 ^ 21 + 2 ^ 22 * coresOnDie (ctxRes s x) d + 2 ^ 21 * coreIndex s x core
def sthSave (s : State) (x d : Nat) : Nat := regionOf s x d + 2 ^ 21 + 6 * 2 ^ 20 * coresOnDie (ctxRes s x) d

def moved (s : State) (d n : Nat) : State := s.count64 (dieSchedBlk d + 0x18) n

/-- Words of a pad that a handle covers. -/
def hndWords (e : Handle) : List Nat := (List.range (e.rows * e.width)).map (e.base + ·)

/-- The handles' cells of word w of core c, other cells and uncorrectable ones as zeros. -/
def wordImage (s : State) (c : Nat) (hs : List Handle) (w : Nat) : List Byte :=
  (List.range 64).flatMap fun b =>
    let k := 64 * w + b
    if hs.any (handleHasCell · k) && !s.pad.ue.contains (2 ^ 17 * c + k) then
      memReadN s.pad.mem (padWordAddr c w + 16 * b) 16
    else List.replicate 16 0#8

/-- The switch engine moves a word of a pad over its X port (R147, R151). -/
def engineLine (c : Nat) (s : State) (w : Nat) : State := useWords (s.count64 (coreBlk c + 0x430) 1) c w 1

/-- Every cell of a handle is read and checked, under the handle's number (R139, R151). -/
def checkHandle (x c : Nat) (s : State) (h : Nat × Handle) : State :=
  (checkCells s c 2 (some h.1) (some x)
    (((s.pad.ue ++ s.pad.sym).filter fun k => k / 2 ^ 17 == c && handleHasCell h.2 (k % 2 ^ 17)))).1

/-- Save handles of context x on core c, word by word, and scrub what leaves. -/
def saveCore (x : Nat) (s : State) (c : Nat) : State :=
  let keep := heldHandles s c x
  let hs := (boundOn s c).filter fun e => e.2.ctx == x && !keep.contains e.1
  let ws := (hs.flatMap fun e => hndWords e.2).foldl (fun l w => insertAsc w l) []
  let s := hs.foldl (checkHandle x c) s
  let s := ws.foldl (fun s w =>
    (vaWrite (engineLine c s w) (coreDie c) x (padSave s x c + 1024 * w) (wordImage s c (hs.map (·.2)) w)).1) s
  let s := moved s (coreDie c) (1024 * ws.length)
  let s := s.onSch fun h => { h with
    savedHandles := Tbl.upd [] h.savedHandles x fun l => l ++ hs.map fun e => (hKey c e.1, e.2) }
  scrubCore s c x keep

/-- A run of context x holds the stored input. -/
def storedInUse (s : State) (t : Stored) : Bool :=
  s.blk.runs.any fun r => r.ctx == t.ctx && myTag r t.cmd t.ctx t.tag

/-- The bytes of a block, an uncorrectable word as zeros. -/
def blockImage (s : State) (d b : Nat) : List Byte :=
  let bad := s.blk.ue.filter (sthHas d [b] 0 65536)
  if bad.isEmpty then sthRead s d [b] 0 65536
  else (List.range 2048).flatMap fun i =>
    if bad.contains (2 ^ 21 * d + 2048 * b + i) then List.replicate 32 0#8 else sthRead s d [b] (32 * i) 32

/-- Places of the saddlebag save area that a context's saved inputs do not fill. -/
def savePlaces (s : State) (x d n : Nat) : List Nat :=
  let used := (s.blk.stored.filter fun t => t.ctx == x && t.away).flatMap fun t => t.blocks.getD d []
  ((List.range (used.length + n)).filter (!used.contains ·)).take n

def saveBlock (x d : Nat) (s : State) (b place : Nat) : State :=
  let s := (sthCheck (sthMove s d 65536) 0 (some x) (sthHas d [b] 0 65536)).1
  moved (vaWrite s d x (sthSave s x d + 65536 * place) (blockImage s d b)).1 d 65536

def setStored (s : State) (t u : Stored) : State :=
  s.onBlk fun b => { b with stored := b.stored.map fun e => if e = t then u else e }

/-- Save a stored input out of the saddlebag. -/
def saveStored (s : State) (t : Stored) : State :=
  let places := (List.range 4).map fun d => savePlaces s t.ctx d (t.blocks.getD d []).length
  let s := (List.range 4).foldl (fun s d =>
    let s := (List.zip (t.blocks.getD d []) (places.getD d [])).foldl (fun s e => saveBlock t.ctx d s e.1 e.2) s
    scrubBlocks s d t.ctx (t.blocks.getD d [])) s
  setStored s t { t with blocks := places, away := true }

/-- Cores on which a command of the context is still running. -/
def busyCore (s : State) (x c : Nat) : Bool :=
  (runningInCtx s x).any fun k =>
    bit k.clusters (coreCluster c) || (cmdHandles s k).any (· / 64 == c)
      || (s.mov.jobs.any fun e => e.2.any fun j => j.cmd == k.id && j.core == c)
      || s.core.products.any (fun p => p.cmd == k.id && p.core == c)

/-- Requests of context x that wait, other than a running command's, are discarded (R233). -/
def dropWaiting (s : State) (x : Nat) : State :=
  s.onMov fun m => { m with
    waiting := m.waiting.filter fun r => r.ctx != x || s.cp.cmds.any fun k => k.id == r.cmd && !k.ended }

/-- Everything of context x that may leave now: with `whole`, a core on which one of its commands runs
keeps all (R469 step 1); otherwise it keeps what running commands hold (R471). -/
def saveOut (s : State) (x : Nat) (whole : Bool) : State :=
  let cs := (pdkCores (ctxRes s x)).filter fun c => !(whole && busyCore s x c)
  let s := cs.foldl (saveCore x) (dropWaiting s x)
  let s := (s.blk.stored.filter fun t => t.ctx == x && !t.away && !storedInUse s t).foldl saveStored s
  s.updCtx x fun c => { c with resident := !(runningInCtx s x).isEmpty }

/-- Put the handle's cells of word w back. -/
def putWord (s : State) (c : Nat) (e : Handle) (w : Nat) (bs : List Byte) : State :=
  let cells := (List.range 64).filter fun b => handleHasCell e (64 * w + b)
  s.onPad fun p => { p with
    mem := cells.foldl (fun m b => memWriteN m (padWordAddr c w + 16 * b) (slice bs (16 * b) 16)) p.mem
    ue := p.ue.filter fun k => !cells.any fun b => k == 2 ^ 17 * c + 64 * w + b
    sym := p.sym.filter fun k => !cells.any fun b => k == 2 ^ 17 * c + 64 * w + b }

/-- Read the handle's word `w` back from its save area. -/
def restoreWord (x c : Nat) (e : Handle) (s : State) (w : Nat) : State :=
  let r := readSaved s (coreDie c) x (padSave s x c + 1024 * w) 1024
  putWord (engineLine c r.1 w) c e w r.2

/-- Restore one saved handle, when its number and words are free of other contexts. -/
def restoreHandle (x : Nat) (s : State) (k : Nat × Handle) : State :=
  let c := k.1 / 64
  if (hnd s c (k.1 % 64)).bound || (boundOn s c).any (fun e => e.2.ctx != x && overlaps e.2 k.2) then s
  else
    let s := (groupsOf k.2).foldl (fun s g => if 2 ≤ (groupOf s c g).st then setGroup s c g 0 else s) s
    let s := (hndWords k.2).foldl (restoreWord x c k.2) s
    let s := moved s (coreDie c) (1024 * k.2.rows * k.2.width)
    (updHnd s c (k.1 % 64) fun _ => k.2).onSch fun h => { h with
      savedHandles := Tbl.upd [] h.savedHandles x fun l => l.filter (·.1 != k.1) }

/-- Read a saved block of die `d` (place, block) back; its way wakes. -/
def restoreBlock (x d : Nat) (s : State) (e : Nat × Nat) : State :=
  let s := if gateReady s (fuWay d (e.2 / 48)) then s else setGate s (fuWay d (e.2 / 48)) 0
  let r := readSaved s d x (sthSave s x d + 65536 * e.1) 65536
  moved (sthMove (sthWrite r.1 d [e.2] 0 r.2) d 65536) d 65536

/-- Restore a stored input to the lowest free blocks, when there are enough. -/
def restoreStored (s : State) (t : Stored) : State :=
  let free := (List.range 4).map fun d => (sthFree s t.ctx 0 d).take (t.blocks.getD d []).length
  if !((List.range 4).all fun d => (free.getD d []).length == (t.blocks.getD d []).length) then s
  else
    let s := (List.range 4).foldl (fun s d =>
      (List.zip (t.blocks.getD d []) (free.getD d [])).foldl (restoreBlock t.ctx d) s) s
    setStored s t { t with blocks := free, away := false }

/-- Restore what can be restored of context x (R469 step 4, R471). -/
def restoreCtx (s : State) (x : Nat) : State :=
  let s := (Tbl.get [] s.sch.savedHandles x).foldl (restoreHandle x) s
  (s.blk.stored.filter fun t => t.ctx == x && t.away).foldl restoreStored s

/-- Both contexts are `CORESIDENT`: the switch does not wait (R471). -/
def bothCores (s : State) (a b : Nat) : Bool := (s.ctx a).coresident && (s.ctx b).coresident

/-- Outgoing contexts of a switch to b that it still waits for. -/
def switchWaits (s : State) (outs : List Nat) (b : Nat) : Bool :=
  outs.any fun a => !bothCores s a b && !(runningInCtx s a).isEmpty

def saveOuts (s : State) (outs : List Nat) (b : Nat) : State :=
  outs.foldl (fun s a => saveOut s a (!bothCores s a b)) s

/-- SWITCH_START (R465, R469): at the run's start plus its debit, to which time passes. A run that its
debit forfeits makes no switch; a switch that an earlier run left unfinished gives way. -/
def execSwitchStart (p : Nat) (s : State) : Out :=
  withUnit (decide (p < 16)) <| s.when (dieRuns s 0) fun s =>
    let d := s.pdk p
    match d.run with
    | some r =>
      if r.switched || !d.loaded || runLenUs s r ≤ r.debitUs || d.switch.any (fun w => w.2.1 == r.ctx) then s
      else
        let s := waitUntil s (r.startNs + r.debitUs * 1000)
        let outs := (ctxsOf s p).filter fun a => a != r.ctx && (s.ctx a).resident
        let s := saveOuts s outs r.ctx
        s.updPdk p fun d => { d with switch := some (outs, r.ctx, s.nowUs) }
    | none => s

/-- Outgoing contexts that have left nothing behind but their state. -/
def switchLeft (s : State) (outs : List Nat) : List Nat :=
  outs.filter fun a => (s.ctx a).live && (s.ctx a).resident && (runningInCtx s a).isEmpty

/-- The switch to context b that began at t0 ends: b is restored, and the time is charged; the die CPs
count its steps (assumption log 59). -/
def finishSwitch (p : Nat) (b t0 : Nat) (s : State) : State :=
  let s := if (s.ctx b).live then restoreCtx s b else s
  let s := s.charge b acSwitch (s.nowUs - t0)
  let steps := if (s.pdk p).switch.any (·.1.isEmpty) then 2 else 5
  let s := (dedupNat ((bitsOf (s.pdk p).res.clusters 32).map clusterDie)).foldl (fun s k =>
    (List.range steps).foldl (fun s _ => s.beat (dieCpath k 0)) (s.count64 (dieSchedBlk k + 0x10) 1)) s
  let s := if (s.ctx b).live then s.updCtx b fun c => { c with resident := true } else s
  kickEngines (s.updPdk p fun d => { d with
    switch := none
    lastCtx := some b
    run := d.run.map fun r =>
      if r.ctx == b && decide (r.startNs + r.debitUs * 1000 ≤ s.tim.fabricNs) then
        { r with switched := true, switchUs := s.nowUs - t0 } else r })

/-- SWITCH_DONE (R142, R469, R470): what is left of the outgoing contexts is saved; once their scrubs have
ended the last die finishes the switch, and its time is charged to the incoming context. -/
def execSwitchDone (p : Nat) (s : State) : Out :=
  withUnit (decide (p < 16)) <| s.when (dieRuns s 0) fun s =>
    match (s.pdk p).switch with
    | some (outs, b, t0) =>
      if switchWaits s outs b then s
      else
        let s := saveOuts s (switchLeft s outs) b
        if outs.any (scrubbing s) then s else finishSwitch p b t0 s
    | none => s

/-- GAIT_TABLE_EFFECT (R450, R462, R469): a loaded table comes into force, or open mode, in which every
context of the paddock is restored. -/
def execGaitTableEffect (p : Nat) (s : State) : Out :=
  withUnit (decide (p < 16)) <| popDue s (.gaitTable p) fun s =>
    match (s.pdk p).pend with
    | none => s
    | some ([], _) =>
      let s := s.updPdk p fun d => { d with
        pend := none, table := [], loaded := false, anchor := 0, lastCtx := none, switch := none
        curSlot := 0, curIdle := false, curCtx := 0 }
      (ctxsOf s p).foldl (fun s x => (restoreCtx s x).updCtx x fun c => { c with resident := true }) s
    | some (l, a) => s.updPdk p fun d => { d with pend := none, table := l, anchor := a, loaded := true }

/-! Teardown (R472 to R474). -/

/-- Steps 5 and 6 of R473: pads and blocks scrubbed, stashes, references, reservations and MMU entries
released. The device's own stale drops are taken. -/
def teardownScrub (s : State) (x : Nat) : State :=
  let d := s.devId
  let own := (genRec s 0 d x).2 + (genRec s 1 d x).2
  let s := (List.range 2).foldl (fun s k => setGenRec s k d x ((genRec s k d x).1, 0)) s
  let s := (pdkCores (ctxRes s x)).foldl (fun s c => scrubCore s c x []) s
  let s := (s.blk.stored.filter (·.ctx == x)).foldl scrubStored s
  let s := (s.blk.stashes.filter (·.ctx == x)).foldl releaseStash s
  let s := (s.upd.entries.filter fun e => e.ctx == x && e.ownGranted && !e.committed).foldl
    (fun s e => writeVRec s e.pa { readVRec s e.pa with reserved := false }) s
  let s := s.onBlk fun b => { b with
    stored := b.stored.filter (·.ctx != x)
    offloads := b.offloads.filter (·.ctx != x) }
  let s := s.onUpd fun u => { u with
    entries := u.entries.filter (·.ctx != x)
    resvs := u.resvs.filter (·.ctx != x) }
  let s := s.onRed fun r => { r with colls := r.colls.filter (·.ctx != x) }
  let s := s.onMem fun m => { m with tlb := m.tlb.filter (·.ctx != x) }
  let s := s.onSch fun h => { h with savedHandles := Tbl.erase h.savedHandles x }
  let s := dropWaiting s x
  s.updCtx x fun c => { c with
    resident := false
    down := c.down.map fun t => { t with phase := 2, dropped := t.dropped + own } }

/-- Step 3: the generation is raised, and the devices the context has sent to are told. -/
def teardownRaise (s : State) (x : Nat) : State :=
  let dests := Tbl.get [] s.fab.sentTo x
  let s := s.onSch fun h => { h with gens := Tbl.upd 0 h.gens x fun g => (g + 1) % 256 }
  let g := s.gen x
  let s := s.updCtx x fun c => { c with job := 0 }
  let send := fun (type vc d : Nat) (s : State) =>
    originate s { mkPkt type vc d [] with ctx := x, gen := g }
  let s := dests.foldl (fun s d => (send 0x37 3 d s).2) s
  let (s, wait) := dests.foldl (fun (a : State × List Nat) d =>
    (List.range 3).foldl (fun (a : State × List Nat) v =>
      let (ok, s) := send 0x0F v d a.1
      (s, if ok then a.2 ++ [4 * d + v] else a.2)) a) (s, [])
  let s := s.updCtx x fun c => { c with
    down := c.down.map fun t => { t with phase := 1, gen := g, startStride := s.nowStride, waitFor := wait } }
  if wait.isEmpty then teardownScrub s x else s

/-- Step 3 follows as soon as the context has no command left. -/
def teardownStep (s : State) (x : Nat) : State :=
  if ((s.ctx x).down.any fun t => t.phase == 0) && (runningInCtx s x).isEmpty then teardownRaise s x else s

/-- Steps 1 and 2: fetched packets complete with ABORTED, running commands are stopped, and the ring is
disabled. -/
def teardownStart (s : State) (x : Nat) : State :=
  let s := [x, 128 + x].foldl (fun s q =>
    let ps := s.waitingOf q
    let s := s.onCp fun c => { c with waiting := Tbl.erase c.waiting q }
    ps.foldl (fun s p => s.addCpl q (refusalCpl s p stAborted 0)) s) s
  let s := (runningInCtx s x).foldl (fun s c => endCmd s c.id stAborted) s
  let s := s.updRing x fun r => { r with enabled := false, draining := r.enabled || r.draining }
  settleRing s x

/-- The teardown of the packet's context begins. -/
def beginTeardown (q : Nat) (p : Packet) (s : State) : State :=
  let x := p.ctx % 64
  let (s, id) := issue s q p []
  let s := s.updCtx x fun c => { c with down := some {
    cmd := id, zeroHbm := bit (p.par 0 1) 0, gen := p.gen, startStride := s.nowStride, waitFor := []
    dropped := 0, timedOut := false, phase := 0 } }
  kickEngines (teardownStep (teardownStart s x) x)

/-- CTX_TEARDOWN (R472, R473). -/
def execCtxTeardown (q : Nat) (s : State) : Out :=
  onHead 0x51 q s fun p s =>
    let x := p.ctx % 64
    let c := s.ctx x
    if !c.live || p.gen != s.gen x then completeNow s q p stStale 0
    else if 2 ≤ p.par 0 1 || !allZero (p.params.drop 1) || c.down.isSome || (p.fn != 0 && p.fn != c.fn) then
      completeNow s q p stBadParam 0
    else beginTeardown q p s

/-- DRAIN_RETURN (R383, R473 step 4). -/
def execDrainReturn (port : Nat) (s : State) : Out :=
  onAnswer 0x1B port s fun k s =>
    match (s.ctx k.ctx).down with
    | some t =>
      if t.phase != 1 || !t.waitFor.contains (4 * k.src + k.tag) then s
      else
        let w := t.waitFor.filter (· != 4 * k.src + k.tag)
        let s := s.updCtx k.ctx fun c => { c with
          down := some { t with waitFor := w, dropped := t.dropped + k.aux } }
        if w.isEmpty then teardownScrub s k.ctx else s
    | none => s

/-- TEARDOWN_DRAIN_TIMEOUT (R473 step 4). -/
def execTeardownDrainTimeout (x : Nat) (s : State) : Out :=
  withUnit (decide (x < 64)) <| s.when (alive s && ((s.ctx x).down.any fun t => t.phase == 1)) fun s =>
    teardownScrub (s.updCtx x fun c => { c with down := c.down.map fun t => { t with timedOut := true } }) x

/-- Entries of a table of n words at `base` that may be valid: those with a byte listed or a word
uncorrectable. -/
def tableIdx (s : State) (base n : Nat) : List Nat :=
  let inT := fun (a : Nat) => decide (base ≤ a) && decide (a < base + 8 * n)
  ((s.mem.dpa.filter fun e => inT e.1).map (fun e => (e.1 - base) / 8)
    ++ (s.mem.ue.filter fun w => inT (32 * w)).flatMap fun w => (List.range 4).map fun i => (32 * w - base) / 8 + i).foldl
      (fun l i => insertAsc i l) []

/-- The entries of a table that are valid by `bad`, and the uncorrectable words met. -/
def tableScan (s : State) (x base n : Nat) (bad : Nat → Bool) : List Nat × List Nat :=
  if !tableFrameOk s x base then ([], [])
  else (tableIdx s base n).foldl (fun (a : List Nat × List Nat) i =>
    match walkEntry s (base + 8 * i) with
    | none => (a.1, insertAsc ((base + 8 * i) / 32) a.2)
    | some e => if bad e then a else (a.1 ++ [e], a.2)) ([], [])

/-- The tables, first byte and bytes, that the search for frames reads whole. -/
def searchedTables (s : State) (x : Nat) : List (Nat × Nat) :=
  let l1 := (s.ctx x).ptBase
  if !tableFrameOk s x l1 then []
  else (l1, 131072) :: ((tableScan s x l1 16384 l1Bad).1.map fun e => (bits e 16 28 * 2 ^ 16, 65536)).filter
    fun t => tableFrameOk s x t.1

/-- Writable frames of the paddock that the page table maps in HBM (R472), and uncorrectable words. -/
def mappedFrames (s : State) (x : Nat) : List Nat × List Nat :=
  let (l1, u1) := tableScan s x (s.ctx x).ptBase 16384 l1Bad
  l1.foldl (fun (a : List Nat × List Nat) e =>
    let (es, u) := tableScan s x (bits e 16 28 * 2 ^ 16) 8192 pteBad
    let fs := (es.filter fun e => bit e 1 && isHbm (pteFrame e) && frameOwned (ctxRes s x) (pteFrame e)).map pteFrame
    (a.1 ++ fs, u.foldl (fun l w => insertAsc w l) a.2)) ([], u1)

/-- Frames of the pages of the context's regions. -/
def regionFrames (s : State) (x : Nat) : List Nat :=
  (List.range 4).flatMap fun k =>
    let va := regionOf s x k
    if va = 0 then [] else (List.range (regionPages (ctxRes s x) k).2).filterMap fun i =>
      match walk s x (va + 2 ^ 21 * i) with
      | .pte e => if frameOwned (ctxRes s x) (pteFrame e) then some (pteFrame e) else none
      | .bad _ _ => none

/-- Step 7: the frames are written with zeros; whether an uncorrectable entry was met. -/
def zeroHbm (s : State) (x : Nat) : State × Bool :=
  let (fs, ue) := mappedFrames s x
  let fs := (regionFrames s x ++ fs).foldl (fun l f => insertAsc f l) []
  let s := (searchedTables s x).foldl (fun s t => (checkWords s t.1 t.2 (some x)).1) s
  (fs.foldl (fun s f => dpaZero s f (f + 2 ^ 21)) s, !ue.isEmpty)

/-- The part of the current stride that a run which ends now had taken: `held` and debit, with idle time
set back by both, since the stride is counted idle when it ends (R463, R475, R477). -/
def endRunEarly (s : State) (p x : Nat) : State :=
  match (s.pdk p).run with
  | some r =>
    if r.ctx ≠ x then s
    else
      let u := (s.tim.fabricNs - boundaryNs s s.nowStride) / 1000
      let e0 := (s.nowStride - r.startStride) * s.tim.period
      let deb := min r.debitUs (e0 + u) - min r.debitUs e0
      let s := s.charge x acHeld (u - deb)
      let s := s.accAdd (accPdk p acDebit) deb
      let s := s.accAdd (accPdk p acIdle) (2 ^ 64 - u)
      s.updPdk p fun d => { d with run := none, curIdle := true, lastCtx := none }
  | none => s

def downWord (t : Teardown) (ue : Bool) : Nat :=
  min t.dropped 0xFFFFFF + 2 ^ 24 * b2n t.timedOut + 2 ^ 25 * b2n t.zeroHbm + 2 ^ 26 * b2n ue

/-- Context x is gone, and its CTX_TEARDOWN completes. -/
def endTeardown (x : Nat) (t : Teardown) (s : State) : State :=
  let (s, ue) := if t.zeroHbm then zeroHbm s x else (s, false)
  let s := endRunEarly s (s.ctx x).pdk x
  let s := s.updPdk (s.ctx x).pdk fun d => { d with
    lastCtx := if d.lastCtx == some x then none else d.lastCtx
    switch := if d.switch.any (fun w => w.2.1 == x) then none
      else d.switch.map fun w => (w.1.filter (· != x), w.2) }
  let s := s.onSch fun h => { h with ctxs := Tbl.erase h.ctxs x }
  let s := s.onFab fun f => { f with sentTo := Tbl.erase f.sentTo x }
  finish (s.updCmd t.cmd fun c => { c with csw := downWord t ue }) t.cmd

/-- TEARDOWN_DONE (R142, R473, R474): once every scrub has ended, the context is gone. -/
def execTeardownDone (x : Nat) (s : State) : Out :=
  withUnit (decide (x < 64)) <| s.when (alive s) fun s =>
    match (s.ctx x).down with
    | some t =>
      if t.phase ≠ 2 || scrubbing s x then s else endTeardown x t s
    | none => s

/-! The end of a command (R141, R416, R471). -/

/-- What context x left behind when it was switched out, or on cores its paddock has lost, leaves with
its command. -/
def leaveLate (s : State) (x : Nat) : State :=
  let p := (s.ctx x).pdk
  let d := s.pdk p
  let out := (s.ctx x).resident && (d.switch.any (fun w => w.1.contains x)
    || d.run.any fun r => r.switched && r.ctx != x)
  let s := if out && d.loaded then
      saveOut s x (match d.switch with
        | some w => !bothCores s x w.2.1
        | none => false)
    else s
  let lost := (dedupNat ((s.pad.handles.filter fun e => e.2.ctx == x && e.2.bound).map fun e => e.1 / 64)).filter
    fun c => !ctxOwnsCore s x c
  lost.foldl (leaveCore x) s

/-- What the resident contexts beside x still have saved is restored where its place has become free. -/
def restoreRest (s : State) (x : Nat) : State :=
  kickEngines ((ctxsOf s (s.ctx x).pdk).foldl (fun s b =>
    if (s.ctx b).resident && b != x then restoreCtx s b else s) s)

/-- A command of context x has ended: what waited for it goes on. -/
def afterCommand (s : State) (x : Nat) : State :=
  if !(s.ctx x).live then kickEngines s else restoreRest (teardownStep (leaveLate s x) x) x

/-- SADDLEBAG_SCRUB_DONE (R179): the blocks of the die's oldest scrub are zero; what waited for them is
restored (R471). -/
def execSaddlebagScrubDone (die : Nat) (s : State) : Out :=
  unitStep (decide (die < 4)) die s fun s =>
    match s.blk.scrubs.find? (·.1 == die) with
    | none => s
    | some e =>
      let keep := fun (w : Nat) => !(w / 2 ^ 21 == die && e.2.2.contains (w % 2 ^ 21 / 2048))
      restoreRest (s.onBlk fun b => { b with
        scrubs := b.scrubs.erase e
        mem := b.mem.filter fun c => keep (c.1 / 32)
        ue := b.ue.filter keep
        sym := b.sym.filter keep }) e.2.1

/-- COMMAND_COMPLETE (R416): the command's work has ended. -/
def execCommandComplete (id : Nat) (s : State) : Out :=
  .next (s.when (alive s && !workLeft s id) fun s =>
    match s.cmd? id with
    | some c => afterCommand (finish s id) c.ctx
    | none => s)

end Sys2Proof.Machine
end

