-- ==== Sys2Proof/Machine/RegView.lean ====
section
/-! DEFINITION. What every register reads: the registers that are views of the state beside those
that are plain words (the register tables of every chapter; R3 to R6, R9, R12). -/
namespace Sys2Proof.Machine

open Sys2Proof

/-- Fields laid side by side, lowest first: (width, value). -/
def packFields : List (Nat × Nat) → Nat
  | [] => 0
  | (w, v) :: t => v % 2 ^ w + 2 ^ w * packFields t

/-- Bits of a list of truth values, lowest first. -/
def maskOf (l : List Bool) : Nat := packFields (l.map fun b => (1, b2n b))

/-! Where registers lie. Keys are those of `RegFile`. -/

/-- Function `fn` sees address `a` of its BAR0: the PF all of it, a VF its function block (R443). -/
def busKey (fn a : Nat) : Option Nat :=
  if fn = 0 then (if a < 2 ^ 26 then some a else none)
  else if a < 0x10000 then some (fnBlk fn + a) else none

/-- The register that holds key `k`: its first byte and its length in bytes. -/
def spanAt (k : Nat) : Option (Nat × Nat) :=
  let fn := k / 2 ^ 26
  let o := k % 2 ^ 26
  let at_ := fun (base n : Nat) => some (base + (k - base) / n * n, n)
  let plain := (regAt k).map fun r => (r.2, r.1.width / 8)
  if o < 0x10000 then
    if 0x3000 ≤ o && o < 0x3100 then at_ (fnBlk fn + 0x3000) 16
    else if 0x4000 ≤ o && o < 0x5000 then (if fn = 0 then at_ 0x4000 16 else none)
    else if 0x5000 ≤ o && o < 0x5004 then (if fn = 0 then plain else none)
    else if 0x8000 ≤ o && o < 0x8000 + 16 * (if fn = 0 then 256 else 112) then at_ (fnBlk fn + 0x8000) 4
    else if 0xC000 ≤ o && o < 0xC000 + (if fn = 0 then 32 else 16) then at_ (fnBlk fn + 0xC000) 8
    else plain
  else if 0x01000000 ≤ o && o < 0x01100000 && 0x800 ≤ o % 0x1000 && o % 0x1000 < 0xC00 then at_ (o / 0x1000 * 0x1000 + 0x800) 16
  else if accBlk + 0x1000 ≤ o && o < accBlk + 0x3000 then at_ (accBlk + 0x1000) 8
  else if accBlk + 0x4000 ≤ o && o < accBlk + 0x4800 then at_ (accBlk + 0x4000) 8
  else if groomBlk + 0x100 ≤ o && o < groomBlk + 0x500 then at_ (groomBlk + 0x100) 128
  else if groomBlk + 0x10000 ≤ o && o < groomBlk + 0x20000 then at_ (groomBlk + 0x10000) 4
  else if healthBlk + 0x1000 ≤ o && o < healthBlk + 0x21000 then at_ (healthBlk + 0x1000) 32
  else plain

/-- The die whose register block holds offset `o` of the PF's BAR0; the always-on block of LD_0 is
5. -/
def regDie (o : Nat) : Nat :=
  let b := o / 0x100000
  if b = 0x10 then o % 0x100000 / 0x40000
  else if b = 0x18 || b = 0x19 || b = 0x1A || b = 0x1C then o % 0x100000 / 0x10000
  else if b = 0x1B || b = 0x1D || b = 0x1F then 4
  else if b = 0x1E then (if o % 0x100000 < 0x20000 then o % 0x20000 / 0x8000 else 5 + o % 0x20000 / 0x1000 / 12)
  else if b = 0x20 && 0x10000 ≤ o % 0x100000 then 5 + (o % 0x100000 - 0x10000) / 0x1000 / 12
  else 5

/-- The die is off in Halt: the compute dies, UD and LD_1 (R556). -/
def dieOff (s : State) (d : Nat) : Bool := (s.pwr.gait == 4 || s.pwr.trip) && d != 5

/-! The function block (R3, R443 to R445). -/

def identWord (s : State) (o : Nat) : Nat :=
  if o = 0x10 then s.boot.featureLevel
  else if o = 0x14 then s.boot.fwVersion
  else if o = 0x18 then (if s.boot.devIdValid then s.boot.devId + 2 ^ 31 else 0)
  else if o = 0x1C then s.boot.population
  else if o = 0x20 then
    packFields [(1, b2n s.boot.fuses), (1, b2n s.boot.configReady), (1, b2n s.boot.imageOk), (1, b2n s.boot.memTrained),
      (1, b2n s.boot.selfTest), (1, b2n s.boot.ready), (1, b2n s.boot.fencedAtStart), (1, b2n s.boot.railFault),
      (1, b2n s.boot.startFail), (7, 0), (16, s.boot.readyMs)]
  else s.reg o

def ringStatus (s : State) (q : Nat) : Nat :=
  let r := s.ring q
  packFields [(1, b2n (ringFetching r)), (1, b2n r.draining), (1, b2n r.err),
    (1, b2n (cqFull s q && !(Tbl.get [] s.cp.done q).isEmpty)), (4, r.errCause), (1, b2n (s.waitingOf q != []))]

/-- Register `o` of the ring registers of queue q. -/
def ringWord (s : State) (q o : Nat) : Nat :=
  let r := s.ring q
  if o = 0 then r.sqBase else if o = 8 then r.cqBase
  else if o = 0x10 then r.ctl + b2n r.enabled
  else if o = 0x14 then ringStatus s q
  else if o = 0x18 then r.sqHead else r.cqTail

/-- MSI-X table word `i` of 32 bits. -/
def msixWord (s : State) (fn i : Nat) : Nat :=
  bits (Tbl.get 0#64 s.host.msix (512 * fn + i / 2)).toNat (32 * (i % 2)) 32

def fnWord (s : State) (fn o : Nat) : Nat :=
  if o < 0x24 then identWord s o
  else if 0x1000 ≤ o && o < 0x1020 then ringWord s (64 + fn) (o - 0x1000)
  else if o = 0x1108 then b2n (Tbl.get none s.host.tlbInv fn).isSome
  else if o = 0x1110 then
    if fn = 0 then maskOf ((List.range 17).map fun f => (Tbl.get none s.host.winBusy f).isSome)
    else b2n (Tbl.get none s.host.winBusy fn).isSome
  else if 0x2000 ≤ o && o < 0x3000 then
    (ringOf s fn ((o - 0x2000) / 64)).elim 0 fun q => ringWord s q (o % 64)
  else if 0x3000 ≤ o && o < 0x3100 then (Tbl.get 0#128 s.host.windows (16 * fn + (o - 0x3000) / 16)).toNat
  else if 0x4000 ≤ o && o < 0x5000 then
    (Tbl.get 0#128 s.host.windows (16 * ((o - 0x4000) / 256 + 1) + o % 256 / 16)).toNat
  else if 0x8000 ≤ o && o < 0x9000 then msixWord s fn ((o - 0x8000) / 4)
  else if 0xC000 ≤ o && o < 0xC020 then
    maskOf ((List.range 64).map fun i => Tbl.get false s.host.msixPend (256 * fn + 64 * ((o - 0xC000) / 8) + i))
  else s.reg o

/-! Core and pad blocks (R110, R126, R149). -/

/-- What occupies the arrays of core `c`: site, half when packed, and command; the lowest site first. -/
def occupants (s : State) (c : Nat) : List (Nat × Option Nat × Nat) :=
  (List.range 3).flatMap fun k =>
    (((s.core.running.filter fun r => r.core == c && r.site == k).map fun r =>
        (k, if r.packed then some r.half else none, r.cmd))
      ++ (onSite s c k).map fun p => (k, if p.packed then some p.half else none, p.cmd))

def ctxOfCmd (s : State) (id : Nat) : Nat := (s.cmd? id).elim 0 (·.ctx)

def coreStatus (s : State) (c : Nat) : Nat :=
  let mine := s.core.running.filter (·.core == c)
  let occ := occupants s c
  let pair := occ.findSome? fun a => if a.2.1 ≠ some 0 then none
    else (occ.find? fun b => b.1 == a.1 && b.2.1 == some 1).map fun b => (ctxOfCmd s a.2.2, ctxOfCmd s b.2.2)
  let both := (occ.head?).elim (0, 0) fun a => (ctxOfCmd s a.2.2, ctxOfCmd s a.2.2)
  let ctxs := pair.getD both
  packFields [(1, b2n (mine.any (·.site == 0))), (1, b2n (mine.any (·.site == 1))), (1, b2n (mine.any (·.site == 2))),
    (1, b2n ((vuFront s c).any (vuReady s))), (1, b2n pair.isSome), (1, b2n (fenced s c)),
    (1, b2n (s.reg (coreBlk c + 0x8) != 0)), (1, 0), (6, queueDepth s c), (2, 0),
    (6, ctxs.1), (2, 0), (6, ctxs.2), (2, 0)]

def padStatus (s : State) (c : Nat) : Nat :=
  let hs := boundOn s c
  packFields [(8, maskOf ((List.range 8).map fun g => decide ((groupOf s c g).st ≤ 1))),
    (8, maskOf ((List.range 8).map fun g => (groupOf s c g).st == 1)), (7, hs.length), (1, 0),
    (7, (hs.filter fun e => e.2.state == hDirty).length), (1, b2n (s.pad.scrubs.any (·.core == c)))]

/-- Handle entry (R126). -/
def Handle.word (e : Handle) : Nat :=
  packFields [(11, e.base), (1, 0), (12, e.rows), (12, e.width), (4, e.fmt), (3, e.state), (1, b2n e.retain),
    (1, b2n e.aliased), (6, e.aliasOf), (6, e.readers), (1, b2n e.claimed), (3, e.claimSrc), (3, 0), (6, e.ctx), (8, e.gen),
    (2, 0), (17, e.col0), (18, e.cols)]

def coreWord (s : State) (k : Nat) : Nat :=
  let c := (k - coreBlk 0) / 0x1000
  let o := k % 0x1000
  if o = 0x4 then coreStatus s c
  else if o = 0x40 then s.reg (powerBlk + 0x30)
  else if o = 0x404 then padStatus s c
  else if 0x800 ≤ o then (hnd s c ((o - 0x800) / 16)).word
  else s.reg k

/-! Paddock owners. -/

/-- The paddock that holds a resource. -/
def ownerOf (s : State) (has : PdkSet → Bool) : Option Nat := (List.range 16).find? fun p => has (pdkNow (s.pdk p))
def ownerWord (o : Option Nat) : Nat := o.elim 0 (· + 16)

def sthBlk (s : State) (k w : Nat) : Option Nat := ownerOf s fun r => bit (r.ways.getD k 0) w
def cacheBlk (s : State) (w : Nat) : Option Nat := ownerOf s fun r => bit r.cacheWays w
def validMask (f : Nat → Option Nat) : Nat := maskOf ((List.range 16).map fun w => (f w).isSome)
def ownerMap (f : Nat → Option Nat) : Nat := packFields ((List.range 16).map fun w => (4, (f w).getD 0))

/-- Blocks of die k that something holds, with the context that holds them (R172). -/
def heldBlocks (s : State) (k : Nat) : List (Nat × Nat) :=
  (s.blk.stored.filter (!·.away)).flatMap fun t => (t.blocks.getD k []).map fun b => (t.ctx, b)

/-- A drain or a fetch of an offloaded input goes on at die k (R194). -/
def dieDrains (s : State) (k : Nat) : Bool :=
  (s.blk.stored.any fun t => !t.away && !t.landed && t.use == 3 && !(t.blocks.getD k []).isEmpty)
    || s.blk.offloads.any fun o => o.st != 1
      && ((s.blk.stored.any fun t => t.cmd == o.cmd && t.layer == o.layer && t.use == 1 && !(t.blocks.getD k []).isEmpty)
        || (o.direct && s.blk.runs.any fun r => r.cmd == o.cmd && r.parts.any fun p => p.g == 0 && coreDie p.core == k))

def saddleWord (s : State) (key : Nat) : Nat :=
  let k := (key - saddleBlk 0) / 0x10000
  let o := key % 0x10000
  let held := heldBlocks s k
  if o = 0x4 then
    let busy := held.map (·.2) ++ (s.blk.scrubs.filter (·.1 == k)).flatMap (·.2.2)
    let free := (List.range 768).filter fun b => !fenced s (fuWay k (b / 48)) && !busy.contains b
    let staging := ((s.blk.stored.filter fun t => !t.away && t.use == 1).flatMap fun t => t.blocks.getD k []).length
    packFields [(10, free.length), (6, 0), (10, staging), (4, 0),
      (1, b2n (dieDrains s k)), (1, b2n (s.blk.scrubs.any (·.1 == k)))]
  else if o = 0x8 then validMask (sthBlk s k)
  else if o = 0x10 then ownerMap (sthBlk s k)
  else if 0x40 ≤ o then (held.filter fun h => (s.ctx h.1).pdk == (o - 0x40) / 4).length
  else s.reg key

def dieSchedWord (s : State) (key : Nat) : Nat :=
  let k := (key - dieSchedBlk 0) / 0x10000
  if key % 0x10000 = 0x4 then
    maskOf ((List.range 16).map fun p => (s.pdk p).switch.isSome && bits (s.pdk p).res.clusters (8 * k) 8 != 0)
  else s.reg key

/-! Movers and memory (R253, R254, R281, R283, R284). -/

def pcCap (s : State) (k : Nat) : Nat := s.fld (dmaBlk k) 0 8
def bankCap (s : State) : Nat := s.fld dmaUdBlk 0 6

def dmaWord (s : State) (key : Nat) : Nat :=
  let k := (key - dmaBlk 0) / 0x10000
  if key % 0x10000 = 0x4 then
    packFields [(13, poolUsed s (80 * k)), (3, 0), (12, poolUsed s (80 * k + 64)), (2, 0),
      (1, b2n ((List.range 16).any fun e => !(jobsOf s (gatherIssuer k e)).isEmpty)), (1, b2n (decide (96 < pcCap s k)))]
  else s.reg key

def dmaUdWord (s : State) (key : Nat) : Nat :=
  if key % 0x10000 = 0x4 then packFields [(11, poolUsed s 320), (20, 0), (1, b2n (decide (16 < bankCap s)))] else s.reg key

def hbmWord (s : State) (key : Nat) : Nat :=
  let k := (key - hbmBlk 0) / 0x10000
  let o := key % 0x10000
  let of := fun (f : SrUnit → Bool) => maskOf [f (srUnit s (2 * k)), f (srUnit s (2 * k + 1))]
  if o = 0x4 then
    packFields [(2, of fun u => u.st == 0), (2, of fun u => u.st == 2), (2, of fun u => u.st == 1), (2, of (·.retrain))]
  else if 0x100 ≤ o then ownerWord (ownerOf s fun r => bit r.groups (16 * k + (o - 0x100) / 4))
  else s.reg key

def ddrWord (s : State) (key : Nat) : Nat :=
  let o := key % 0x10000
  let of := fun (n : Nat) => maskOf ((List.range 12).map fun c => (srUnit s (8 + c)).st == n)
  if o = 0x4 then packFields [(12, of 2), (12, of 1), (3, s.boot.straps.ddrSpeed)]
  else if o = 0x40 then validMask (cacheBlk s)
  else if o = 0x48 then ownerMap (cacheBlk s)
  else if 0x200 ≤ o then
    s.reg key % 2 ^ 24 + 2 ^ 24 * ownerWord (ownerOf s fun r => bit r.channels ((o - 0x200) / 4))
  else s.reg key

/-! Reduction and update engines (R321, R357). -/

/-- The reduction units on this device that the path of a collective uses (R300): those of its entry, of
the ports toward its children, and of the port by which chunks come down. -/
def collUnits (s : State) (c : Coll) : List Nat :=
  let down := !c.root && (c.all || c.isCopy || c.kind == 4)
  let ports := ((c.children ++ if down then [c.parent] else []).map (actPort s)).filter fun p => decide (p < 24)
  bitsOf c.clusters 32 ++ c.unit :: ports.map (32 + ·)

def redWord (s : State) (key : Nat) : Nat :=
  let o := key - redClusterBlk 0
  let u := if o < 0x20000 then o / 0x1000 else 32 + (o - 0x20000) / 0x1000
  if key % 0x1000 = 0x4 then
    packFields [(7, (s.red.colls.filter fun c => !c.done && (collUnits s c).contains u).length),
      (1, 0), (7, (s.red.retain.filter (·.unit == u)).length)]
  else s.reg key

def updWord (s : State) (key : Nat) : Nat :=
  if key % 0x10000 = 0x4 then
    let run := s.upd.running.bind fun i => s.upd.tasks.find? (·.id == i)
    packFields [(1, b2n (!s.upd.tasks.isEmpty)), (3, 0), (4, s.upd.tasks.length), (6, run.elim 0 (·.ctx)), (2, run.elim 0 (·.mode))]
  else s.reg key

/-! Fabric, time and accounting (R398 to R400, R479, R480). -/

def trcWord (s : State) (key : Nat) : Nat :=
  let o := key % 0x10000
  if o = 0x4 then
    packFields [(2, s.fab.pendSt), (1, b2n s.fab.activeValid), (5, 0), (5, s.fab.failPort), (3, 0), (12, s.fab.failDest),
      (4, s.fab.failCause)]
  else if o = 0x44 then
    packFields [(3, s.fab.tState), (5, s.fab.parentPort), (12, s.fab.master), (6, s.fab.masterHops), (1, b2n s.fab.syncLost)]
  else if o = 0x48 then s.tim.fabricNs
  else s.reg key

def linkWord (s : State) (key : Nat) : Nat :=
  let q := portOf s ((key - linkBlk 0) / 0x1000)
  let o := key % 0x1000
  if o = 0x4 then packFields [(3, q.st), (5, 0), (8, q.level), (2, q.failed), (1, b2n q.signal)]
  else if o = 0x8 then
    packFields [(12, q.peer), (1, b2n q.peerValid), (5, q.peerPort), (8, q.peerHigh), (8, q.peerLow), (8, q.peerFeature)]
  else if o = 0x10 then q.peerSerial
  else s.reg key

def schWord (s : State) (key : Nat) : Nat :=
  let o := key % 0x10000
  if o = 0x28 then s.tim.count
  else if o = 0x30 then s.tim.period
  else if o = 0x38 then s.tim.baseStride
  else if o = 0x40 then s.tim.baseNs
  else if o = 0x48 then s.tim.localUs
  else if 0x100 ≤ o && o < 0x200 then
    let d := s.pdk ((o - 0x100) / 16)
    if o % 16 = 0 then
      packFields [(1, b2n d.loaded), (1, b2n d.pend.isSome), (8, d.curSlot), (6, d.curCtx), (1, b2n d.curIdle), (15, 0),
        (32, tableQ d.table)]
    else d.anchor
  else if 0x200 ≤ o then
    let x := (o - 0x200) / 8
    let c := s.ctx x
    packFields [(1, b2n c.live), (1, b2n c.down.isSome), (1, b2n c.coresident), (4, c.pdk), (1, b2n c.resident), (8, s.gen x),
      (16, c.job), (32, c.debitUs)]
  else s.reg key

/-! Groom, health and power (R516, R517, R523, R547 to R550, R573 to R575). -/

def reinState (s : State) : Nat :=
  let h := s.grm.holder
  packFields [(2, h.cls), (1, b2n s.grm.engineering), (1, b2n h.directed), (3, s.grm.keyIdx), (1, b2n (leaseFrozen s)),
    (12, h.src), (5, h.port), (7, 0), (16, s.grm.epoch)]

def groomStatus (s : State) : Nat :=
  packFields [(3, s.grm.st), (5, 0), (4, s.grm.recCause), (4, 0), (7, s.grm.vc3q.length), (1, 0), (5, s.grm.mctpq.length)]

def groomWord (s : State) (key : Nat) : Nat :=
  let o := key - groomBlk
  if o = 0x0 then reinState s
  else if o = 0x8 then s.grm.expiry
  else if o = 0x14 then groomStatus s
  else if o = 0x28 then identWord s 0x20
  else if 0x100 ≤ o && o < 0x500 then leNat (s.grm.ownerKeys.getD ((o - 0x100) / 128) [])
  else if o = 0x1004 then packFields [(1, b2n s.grm.recBusy.isSome), (1, b2n s.grm.recError)]
  else if 0x1000 ≤ o then 0
  else s.reg key

/-- The 32 bytes of a log entry (R523). -/
def LogE.bytes (e : LogE) : List Byte :=
  toLE 4 e.seq ++ toLE 8 e.stride ++ toLE 2 e.cpath ++ toLE 1 (e.cls + 16 * e.dom) ++ toLE 1 e.code ++ toLE 1 e.ctx
    ++ toLE 1 e.gen ++ toLE 2 e.job ++ toLE 8 e.data.toNat ++ toLE 2 e.rep ++ toLE 2 0

/-- A tag cap of die k (4 is UD) is above its maximum (R32). -/
def capOver (s : State) (k : Nat) : Bool := if k < 4 then decide (96 < pcCap s k) else decide (16 < bankCap s)

/-- A target of the die holds more admitted requests than its cap. -/
def overFull (s : State) (k : Nat) : Bool :=
  s.mem.counts.any fun e =>
    if k < 4 then e.1 / 128 == k && decide (pcCap s k < e.2) else decide (2 ^ 16 ≤ e.1) && decide (bankCap s < e.2)

/-- R30 does not hold for die k: since a cap went above its maximum, not every cap is back and every
target within its own (R32). -/
def outsideNow (s : State) (k : Nat) : Bool := s.hlt.outside.contains k && (capOver s k || overFull s k)

def healthStatus (s : State) : Nat :=
  packFields [(1, b2n (!s.hlt.recovs.isEmpty)), (1, b2n s.hlt.dumping.isSome), (1, b2n (s.hlt.recovs.any (·.phase == 7))),
    (1, b2n ((List.range 5).any (outsideNow s))), (4, s.hlt.recovs.head?.elim 0 (·.dom)),
    (8, (s.hlt.dumpQ.filter (·.recov.isSome)).length)]

def ctxHeld (s : State) : Nat := maskOf ((List.range 64).map fun x => (s.ctx x).held)

def dumpStatus (s : State) : Nat := s.reg (healthBlk + 0x1C) % 4 + 2 ^ 16 * s.hlt.dumpSkipped

/-- The fenceable unit of bit `b` of the fence register at offset `o` of the health block. -/
def fenceUnit (o b : Nat) : Nat :=
  if 0x50 ≤ o && o < 0x70 then 64 * ((o - 0x50) / 8) + b
  else if o = 0x70 then
    if b < 24 then fuPort b else if b < 32 then fuStack (b - 24) else if b < 44 then fuChannel (b - 32) else fuUpdate
  else if o = 0x78 then fuGather (b / 16) (b % 16)
  else if o = 0x80 then fuWay (b / 16) (b % 16)
  else fuCluster b

/-- Bits of the fence register at offset `o`; 0 for any other register. -/
def fenceBits (o : Nat) : Nat :=
  if o = 0x70 then 45 else if o = 0x88 then 32 else if (0x50 ≤ o && o < 0x70) || o = 0x78 || o = 0x80 then 64 else 0

def healthWord (s : State) (key : Nat) : Nat :=
  let o := key - healthBlk
  if 0x1000 ≤ o then ((s.hlt.log.find? fun e => e.seq % 4096 == (o - 0x1000) / 32).map fun e => leNat e.bytes).getD 0
  else if o = 0x4 then healthStatus s
  else if o = 0x1C then dumpStatus s
  else if o = 0x2C then s.hlt.nextSeq - 1
  else if o = 0x30 then s.hlt.lastHang.toNat
  else if o = 0x38 then s.hlt.hangs
  else if o = 0x3C then
    packFields [(10, min 1023 s.hlt.abortsOut), (11, min 2047 s.hlt.abortsIn), (11, min 2047 s.hlt.abortsIgnored)]
  else if o = 0x40 then ctxHeld s
  else if 0x50 ≤ o then maskOf ((List.range (fenceBits o)).map fun b => fenced s (fenceUnit o b))
  else s.reg key

def hottest (s : State) (ks : List Nat) : Nat := ks.foldl (fun a k => max a (tempOf s k)) 0
def dieSensors (d : Nat) : List Nat := (List.range (if d < 4 then 16 else 4)).map (64 * d + ·)

def gaitStatus (s : State) : Nat :=
  packFields [(3, s.pwr.gait), (3, s.pwr.commanded), (3, (s.pwr.pending.map (·.1)).getD 0), (1, b2n s.pwr.pending.isSome),
    (2, s.pwr.phase)]

def powerWord (s : State) (key : Nat) : Nat :=
  let o := key - powerBlk
  if o = 0x4 then gaitStatus s
  else if o = 0x8 then (s.pwr.pending.map (·.2)).getD 0
  else if o = 0x20 then packFields [(16, min 65535 s.pwr.instW), (16, min 65535 s.pwr.avgW)]
  else if o = 0x24 then
    packFields [(6, stretchK s), (1, b2n (s.pwr.kFast != 0)), (1, b2n (s.pwr.kSlow != 0)),
      (1, b2n (decide (s.pwr.thermalW < min Config.fuseCeilingW (peakW s)))), (1, b2n (stretchK s == 56))]
  else if o = 0x28 then s.pwr.thermalW
  else if o = 0x3C then
    packFields [(8, hottest s ((List.range 7).flatMap dieSensors)), (8, hottest s ((List.range 8).map (1024 + ·))),
      (8, hottest s ((List.range 12).map (2048 + ·)))]
  else if 0x100 ≤ o && o < 0x130 then
    let r := rail s ((o - 0x100) / 8)
    packFields [(12, r.req), (12, r.ack), (12, r.mv), (16, r.amps)]
  else s.reg key

def diePowerWord (s : State) (key : Nat) : Nat :=
  let d := (key - diePowerBlk 0) / 0x1000
  let o := key % 0x1000
  if o = 0x0 then (if d < 4 then s.reg key else s.reg key / 4 * 4)
  else if o = 0x4 then
    if d < 4 then
      packFields [(8, maskOf ((List.range 8).map fun q => decide (2 ≤ (gateOf s (8 * d + q)).st))),
        (16, maskOf ((List.range 16).map fun w => decide (2 ≤ (gateOf s (fuWay d w)).st))),
        (2, maskOf [(srUnit s (2 * d)).st == 2, (srUnit s (2 * d + 1)).st == 2])]
    else if d = 4 then maskOf ((List.range 12).map fun c => (srUnit s (8 + c)).st == 2)
    else 0
  else if o = 0xC then
    let t := hottest s (dieSensors d)
    let i := ((dieSensors d).find? fun k => tempOf s k == t).getD 0 % 64
    packFields [(8, t), (4, i)]
  else if 0x40 ≤ o then
    let k := 64 * d + (o - 0x40) / 4
    if sensorExists k then packFields [(8, tempOf s k), (1, b2n (Tbl.get? s.pwr.temps k).isSome)] else 0
  else s.reg key

/-! What a register reads. -/

/-- The value of the register whose first byte is at `key`. -/
def viewReg (s : State) (key : Nat) : Nat :=
  let o := key % 2 ^ 26
  if dieOff s (regDie o) then 0
  else if o < 0x10000 then fnWord s (key / 2 ^ 26) o
  else if o < 0x01800000 then coreWord s key
  else if o < 0x01900000 then saddleWord s key
  else if o < 0x01A00000 then dieSchedWord s key
  else if o < 0x01B00000 then dmaWord s key
  else if o < 0x01C00000 then dmaUdWord s key
  else if o < 0x01D00000 then hbmWord s key
  else if o < 0x01E00000 then ddrWord s key
  else if o < 0x01F00000 then redWord s key
  else if o < 0x02000000 then updWord s key
  else if o < 0x02010000 then trcWord s key
  else if o < 0x02100000 then linkWord s key
  else if o < 0x02200000 then schWord s key
  else if o < 0x02300000 then s.reg key
  else if o < 0x02400000 then groomWord s key
  else if o < 0x02500000 then healthWord s key
  else if o < 0x02510000 then powerWord s key
  else diePowerWord s key

/-- The byte at key `k`; an address that holds no register reads 0. -/
def viewByte (s : State) (k : Nat) : Byte :=
  match spanAt k with
  | some (a, _) => BitVec.ofNat 8 (bits (viewReg s a) (8 * (k - a)) 8)
  | none => 0#8

end Sys2Proof.Machine
end

