-- ==== Sys2Proof/Machine/HealthOps.lean ====
section
/-! DEFINITION. Operations of the health engine (chapter 15): hoofbeat units, the work of a command
on a domain, job aborts, recoveries, domain resets, dumps. -/
namespace Sys2Proof.Machine

open Sys2Proof

/-! Hoofbeat units (R518, R520), by control path. -/

/-- Every unit with a hoofbeat counter, lowest control path first. -/
def hoofUnits : List Nat :=
  (List.range 4).flatMap (fun d =>
    (List.range 8).flatMap (fun g =>
      (List.range 8).flatMap (fun c => [coreCpath (64 * d + 8 * g + c) 5, coreCpath (64 * d + 8 * g + c) 6])
        ++ [clusterRedCpath (8 * d + g)])
    ++ dieCpath d 0 :: (List.range 16).map (fun e => dieCpath d (0x10 + e)) ++ [dieCpath d 0x28, dieCpath d 0x29])
  ++ dieCpath 4 0 :: (List.range 12).map (fun c => dieCpath 4 (0x10 + c))
  ++ (List.range 12).map portCpath ++ dcpCpath :: (List.range 12).map portRedCpath
  ++ (List.range 12).map (fun p => portCpath (12 + p)) ++ (List.range 12).map (fun p => portRedCpath (12 + p))

/-- The kinds of unit with a hoofbeat counter, with their numbers. -/
inductive HUnit where
  | core (c : Nat) | dmaQueue (c : Nat) | red (u : Nat) | dieCp (k : Nat) | gather (k e : Nat) | hbm (t : Nat)
  | update | ddr (c : Nat) | port (p : Nat) | deviceCp | other
  deriving DecidableEq, Repr

def hUnit (cpath : Nat) : HUnit :=
  let d := cpath / 0x2000
  let g := cpath / 0x200 % 16
  let u := cpath % 0x200
  if d < 4 && g < 8 then
    if u < 0x80 then
      let c := 64 * d + 8 * g + u / 16
      if u % 16 = 6 then .dmaQueue c else if u % 16 < 6 then .core c else .other
    else if u = 0x1F0 then .red (8 * d + g) else .other
  else if d < 4 && g = 8 then
    if u = 0 || u = 0x30 then .dieCp d else if 0x10 ≤ u && u < 0x20 then .gather d (u - 0x10)
    else if u = 0x28 || u = 0x29 then .hbm (2 * d + (u - 0x28)) else .other
  else if d = 4 && g = 8 then
    if u = 0 then .update else if 0x10 ≤ u && u < 0x1C then .ddr (u - 0x10) else .other
  else if (d = 5 || d = 6) && g = 8 then
    if u < 12 then .port (12 * (d - 5) + u)
    else if 0x40 ≤ u && u < 0x4C then .red (32 + 12 * (d - 5) + (u - 0x40))
    else if d = 5 && u = 0x20 then .deviceCp else .other
  else .other

/-- Domain code of a hung unit (R526). -/
def hangDomain (cpath : Nat) : Nat :=
  match hUnit cpath with
  | .core _ | .dmaQueue _ => 0
  | .red u => if u < 32 then 1 else 4
  | .dieCp _ | .gather _ _ | .hbm _ => 2
  | .update | .ddr _ => 3
  | .port _ => 4
  | .deviceCp | .other => 6

/-- The unit whose fence counter a hang adds to (R543). -/
def hangFence (cpath : Nat) : Option Nat :=
  match hUnit cpath with
  | .core c | .dmaQueue c => some c
  | .red u => some (if u < 32 then fuCluster u else fuPort (u - 32))
  | .dieCp k => some (fuDie k)
  | .gather k e => some (fuGather k e)
  | .hbm t => some (fuStack t)
  | .update => some fuUpdate
  | .ddr c => some (fuChannel c)
  | .port p => some (fuPort p)
  | .deviceCp | .other => none

/-- Opcodes that wait at issue for nothing of their own. -/
def issuesAtOnce (op : Nat) : Bool := op == 0x00

/-- The unit has pending work (R108, R251, R280, R320, R356, R397, R481, R518). -/
def pendingWork (s : State) (cpath : Nat) : Bool :=
  match hUnit cpath with
  | .core c => s.core.products.any (fun p => p.core == c && p.queued) || s.core.running.any (·.core == c)
      || s.core.vuq.any (fun v => v.core == c && v.queued)
  | .dmaQueue c => !(jobsOf s (dmaIssuer c)).isEmpty
  | .red u => s.red.sendq.any fun o => o.unit == u && mayLeave s o
  | .dieCp k => (s.cp.cmds.any fun c => (cmdDies c).contains k)
      || (s.sch.pdks.any fun p => p.2.switch.isSome && bits p.2.res.clusters (8 * k) 8 != 0)
  | .gather k e => !(jobsOf s (gatherIssuer k e)).isEmpty
  | .hbm t => s.mem.counts.any fun e => e.1 / 64 == t
  | .update => !s.upd.tasks.isEmpty
  | .ddr c => s.mem.counts.any fun e => decide (2 ^ 16 ≤ e.1) && targetUnit e.1 == 8 + c
  | .port p => !(portOf s p).egress.isEmpty
  | .deviceCp => s.cp.waiting.any fun e => e.2.head?.any fun p => issuesAtOnce p.op && mayIssue s e.1 p
  | .other => false

/-- The unit is in a domain that is being reset. -/
def beingReset (s : State) (cpath : Nat) : Bool :=
  let d := hangDomain cpath
  resetting s d (domInst d cpath)

/-- The unit is sampled (R520). -/
def sampled (s : State) (cpath : Nat) : Bool :=
  !beingReset s cpath && !((hangFence cpath).any (fenced s)) &&
  match hUnit cpath with
  | .hbm t => s.boot.memTrained && (srUnit s t).st != 1 && (srUnit s t).st != 3
  | .ddr c => s.boot.memTrained && (srUnit s (8 + c)).st != 1 && (srUnit s (8 + c)).st != 3
  | .port p => (portOf s p).st != 1
  | .red u => decide (u < 32) || (portOf s (u - 32)).st != 1
  | _ => true

def beatCount (s : State) (cpath : Nat) : Nat := (beatReg cpath).elim 0 s.reg

/-- What a check records of every unit that is sampled (R519). -/
def sampleAll (s : State) : Tbl (Nat × Bool) :=
  (hoofUnits.filter (sampled s)).foldl (fun t c => Tbl.insert t c (beatCount s c, pendingWork s c)) []

/-! Domains (R526, R539 to R541). -/

def domHasCore (dom inst c : Nat) : Bool := domContains dom inst 0 c
def domHasDie (dom inst k : Nat) : Bool := domContains dom inst 2 k
def domHasPort (dom inst p : Nat) : Bool := domContains dom inst 4 p
/-- Stacks (0–7) and channels (8–19) of a domain. -/
def domMems (dom inst : Nat) : List Nat :=
  if dom = 2 then [2 * inst, 2 * inst + 1] else if dom = 3 then (List.range 12).map (8 + ·)
  else if dom = 6 then List.range 20 else []
def Recov.inst (r : Recov) : Nat := domInst r.dom r.unit

/-- Command `c` has work on core `k`. -/
def onCore (s : State) (c : Cmd) (k : Nat) : Bool :=
  let mine := fun (i : Nat) => i == c.id
  (s.core.products.any fun p => mine p.cmd && p.core == k) || (s.core.running.any fun p => mine p.cmd && p.core == k)
    || (s.core.vuq.any fun p => mine p.cmd && p.core == k) || (s.core.drains.any fun p => mine p.cmd && p.core == k)
    || ((jobsOf s (dmaIssuer k)).any fun j => mine j.cmd)
    || ((s.mov.waiting ++ s.mov.flight).any fun r => mine r.cmd && r.issuer == dmaIssuer k)
    || (s.pad.claims.any fun q => mine q.cmd && q.core == k)
    || (s.blk.runs.any fun r => (mine r.cmd || r.batch.any fun b => mine b.1) && r.parts.any (·.core == k))

/-- Command `c` has work on the unit at a control path. -/
def onUnit (s : State) (c : Cmd) (cpath : Nat) : Bool :=
  let reqs := s.mov.waiting ++ s.mov.flight
  match hUnit cpath with
  | .core k | .dmaQueue k => onCore s c k
  | .red u => s.red.colls.any fun l => l.cmd == c.id && !l.done && (l.unit == u || (decide (u < 32) && bit l.clusters u))
  | .dieCp k => (cmdDies c).contains k
  | .gather k e => ((jobsOf s (gatherIssuer k e)).any (·.cmd == c.id))
      || reqs.any fun r => r.cmd == c.id && r.issuer == gatherIssuer k e
  | .hbm t => s.mov.flight.any fun r => r.cmd == c.id && r.target != noTarget && targetUnit r.target == t
  | .update => s.upd.cmds.any (·.cmd == c.id)
  | .ddr n => s.mov.flight.any fun r => r.cmd == c.id && r.target != noTarget && targetUnit r.target == 8 + n
  | .port _ | .other => false
  | .deviceCp => true

/-- Command `c` has work on some unit of a domain. -/
def onDomain (s : State) (c : Cmd) (dom inst : Nat) : Bool :=
  dom == 6 || hoofUnits.any fun u => domContains dom inst (hangDomain u) (domInst (hangDomain u) u) && onUnit s c u

/-- The paddock holds a cluster, way or group of the domain, or for the update die a channel
(R541). -/
def pdkInDomain (r : PdkSet) (dom inst : Nat) : Bool :=
  if dom = 1 then bit r.clusters inst
  else if dom = 2 then bits r.clusters (8 * inst) 8 != 0 || r.ways.getD inst 0 != 0 || dieGroups r.groups inst != 0
  else dom == 3 && r.channels != 0

/-- Contexts that a recovery of the domain aborts (R541), rising. -/
def domainCtxs (s : State) (dom inst : Nat) : List Nat :=
  if dom = 4 || dom = 5 then []
  else (s.sch.ctxs.filter fun e => e.2.live &&
    (dom == 6 || pdkInDomain (ctxRes s e.1) dom inst || (runningInCtx s e.1).any (fun c => onDomain s c dom inst)
      || (dom == 3 && s.blk.offloads.any fun o => o.ctx == e.1 && (o.st == 0 || o.st == 2)))).map (·.1)

/-! Fences set by a master (R544). -/

/-- Work of the command has begun somewhere. -/
def startedCmd (s : State) (id : Nat) : Bool :=
  s.core.running.any (·.cmd == id) || s.core.drains.any (·.cmd == id) || s.mov.flight.any (·.cmd == id)
    || s.mov.remote.any (·.cmd == id) || (s.core.products.any fun p => p.cmd == id && p.site.isSome)
    || (s.blk.runs.any fun r => (r.cmd == id || r.batch.any (·.1 == id)) && (!r.begun.isEmpty || r.pos.any (· != 0)))
    || s.red.colls.any (·.cmd == id) || (s.upd.entries.any fun e => e.cmd == id && e.phase != 0)

/-- The command was issued to fenceable unit u. -/
def issuedTo (s : State) (c : Cmd) (u : Nat) : Bool :=
  if u < 256 then onCore s c u || (c.batched && bit c.clusters (u / 8))
  else if u < 288 then bit c.clusters (u - 256)
  else if u < 352 then onUnit s c (fuCpath u)
  else u == 460 && s.upd.cmds.any (·.cmd == c.id)

/-- A fence set by a master: commands issued to the unit that have not started complete with
FENCED; those that run continue. -/
def fenceNow (s : State) (u : Nat) : State :=
  let s := setFence s u
  (s.cp.cmds.filter fun c => !c.ended && !startedCmd s c.id && (fuMembers u).any (issuedTo s c)).foldl
    (fun s c => endCmd s c.id stFenced) s

/-! Job abort (R529 to R532). -/

/-- Fetched packets of context x that have not issued complete with ABORTED. -/
def abortWaiting (s : State) (x : Nat) : State :=
  [x, 128 + x].foldl (fun s q =>
    let ps := s.waitingOf q
    let s := s.onCp fun c => { c with waiting := Tbl.erase c.waiting q }
    ps.foldl (fun s p => s.addCpl q (refusalCpl s p stAborted 0)) s) s

/-- Replica entries of context x are abandoned with their reservations (R220, R531). -/
def dropReplicas (s : State) (x : Nat) : State :=
  let mine := fun (e : UpdEntry) => e.replica && e.ctx == x && !e.committed
  let s := (s.upd.entries.filter fun e => mine e && e.ownGranted).foldl
    (fun s e => writeVRec s e.pa { readVRec s e.pa with reserved := false }) s
  s.onUpd fun u => { u with
    resvs := u.resvs.filter fun r => !(u.entries.any fun e => e.id == r.entry && mine e)
    entries := u.entries.filter fun e => !mine e }

/-- Hold context x (R531): no further command of it issues, its commands end. A context that is
already held is not touched. -/
def holdCtx (s : State) (x : Nat) : State :=
  if (s.ctx x).held || !(s.ctx x).live then s
  else
    let s := s.updCtx x fun c => { c with held := true }
    let s := (runningInCtx s x).foldl (fun s c => endCmd s c.id stAborted) s
    dropReplicas (abortWaiting s x) x

def abortPay (serial cause cpath stride : Nat) : List Byte :=
  toLE 2 serial ++ toLE 1 cause ++ toLE 1 0 ++ toLE 2 cpath ++ toLE 2 0 ++ toLE 8 stride

/-- Originate an abort of `job` (R530): on this device at once, then one packet for every other
device of the active table, in increasing order of device ID. -/
def originateAbort (s : State) (job cause cpath stride : Nat) : State :=
  let n := (s.hlt.abortSerial + 1) % 2 ^ 16
  let s := s.onHlt fun h => { h with abortSerial := n, abortsOut := satAdd 10 h.abortsOut 1 }
  let s := logEvent s clsAbort 0 cpath (ctxOfJob s job) 0
  let s := match ctxOfJob s job with
    | some x => holdCtx s x
    | none => s
  if !s.fab.activeValid then s
  else (List.range 4096).foldl (fun s d =>
    if actPort s d = rpLocal || actPort s d = rpAbsent then s
    else sendPkt s { mkPkt 0x35 3 d (abortPay n cause cpath stride) with job := job }) s

/-- Abort the job of context x, or hold x alone when no job is bound to it (R525 step 2). -/
def abortCtx (cause cpath stride : Nat) (s : State) (x : Nat) : State :=
  if (s.ctx x).held then s
  else if (s.ctx x).job ≠ 0 then originateAbort s (s.ctx x).job cause cpath stride else holdCtx s x

/-! Dumps (R533 to R538). -/

def hltCtl : Nat := healthBlk
def dumpOn (s : State) : Bool := bit (s.reg hltCtl) 18
def autoRecover (s : State) : Bool := bit (s.reg hltCtl) 17

def queueDump (s : State) (trig dom cpath job stride : Nat) (recov : Option Nat) (ctxs : List Nat) : State :=
  s.onHlt fun h => { h with
    dumpQ := h.dumpQ ++ [{
      trig := trig, dom := dom, cpath := cpath, job := job, stride := stride, startNs := 0, recov := recov, dest := 0
      base := 0, cap := 0, ctxs := ctxs, hoof := h.hoof, records := [] }] }

def setRecov (s : State) (r : Recov) : State :=
  s.onHlt fun h => { h with recovs := h.recovs.map fun k => if k.id = r.id then r else k }

/-- The step after the dump (R525): the domain is held, or is to be reset, for which its stacks and
channels are asked to enter self-refresh (R539). -/
def afterDump (s : State) (id : Nat) : State :=
  match s.hlt.recovs.find? (·.id == id) with
  | some r =>
    if autoRecover s then
      (((domMems r.dom r.inst).filter fun u => (memUnits s).contains u).foldl requestSelfRefresh
        (setRecov s { r with phase := 5 }))
    else setRecov s { r with phase := 7 }
  | none => s

/-- The host or DDR5 destination of the next dump, with its base and length in bytes (R533). -/
def dumpDest (s : State) : Option (Nat × Nat × Nat) :=
  let ready := s.reg (healthBlk + 0x1C)
  let ha := s.reg (healthBlk + 0x10)
  let hl := s.fld (healthBlk + 0x18) 0 24 * 4096
  let da := s.reg (healthBlk + 0x20)
  let dl := s.fld (healthBlk + 0x28) 0 24 * 4096
  let c := ddrChannel da
  if hl ≠ 0 && hostOk s 0 ha hl true && !bit ready 0 then some (0, ha, hl)
  else if dl ≠ 0 && isDdr da && bit s.boot.population c && decide (ddrOffset da + dl ≤ dimmGib s c * 2 ^ 30)
      && (ownerOf s fun r => bit r.channels c).isNone && !bit ready 1 then some (1, da, dl)
  else none

/-- Data of the records are little-endian words laid side by side. -/
def regBytes (s : State) (key len : Nat) : List Byte := toLE len (viewReg s key)

def mkRec (type cpath : Nat) (data : List Byte) : DumpRec := ⟨type, false, false, cpath, 0, 0, data⟩

/-- Error latch, info and address registers, with their lengths, in address order (R534 type 3). -/
def errorRegs : List (Nat × Nat) :=
  (List.range 256).flatMap (fun c => [(coreBlk c + 0x8, 4), (coreBlk c + 0x10, 8), (coreBlk c + 0x408, 4),
      (coreBlk c + 0x40C, 4), (coreBlk c + 0x41C, 4)])
    ++ (List.range 4).flatMap (fun k => [(saddleBlk k + 0x18, 4), (saddleBlk k + 0x1C, 4)])
    ++ (List.range 4).flatMap (fun k => [(hbmBlk k + 0x8, 4), (hbmBlk k + 0x10, 8), (hbmBlk k + 0x28, 8)])
    ++ [(ddrBlk + 0x8, 4), (ddrBlk + 0x10, 8), (ddrBlk + 0x50, 8)]
    ++ (List.range 32).flatMap (fun g => [(redClusterBlk g + 0x8, 4), (redClusterBlk g + 0x10, 8)])
    ++ (List.range 24).flatMap (fun p => [(redPortBlk p + 0x8, 4), (redPortBlk p + 0x10, 8)])
    ++ [(updBlk + 0x8, 4), (updBlk + 0x10, 8)]
    ++ (List.range 24).map (fun p => (linkBlk p + 0x18, 4)) ++ [(powerBlk + 0x2C, 4)]

def beatWord (e : Nat × Bool) : List Byte := toLE 8 e.1 ++ toLE 8 (b2n e.2)

/-- The device-wide records: types 1 to 5. -/
def deviceRecs (s : State) (d : DumpRun) : List DumpRec :=
  [mkRec 1 groomCpath ((List.range 9).flatMap (fun i => regBytes s (4 * i) 4) ++ toLE 8 s.tim.count ++ toLE 8 s.tim.fabricNs
      ++ toLE 8 (reinState s) ++ toLE 4 (healthStatus s))]
    ++ [mkRec 2 groomCpath (hoofUnits.flatMap fun u =>
      beatWord (Tbl.get (0, false) d.hoof u) ++ beatWord (beatCount s u, pendingWork s u))]
    ++ [mkRec 3 groomCpath (errorRegs.flatMap fun r => regBytes s r.1 r.2)]
    ++ [mkRec 4 groomCpath ((s.hlt.log.take 256).reverse.flatMap LogE.bytes)]
    ++ d.ctxs.map fun x => mkRec 5 dcpCpath (
      let r := s.ring x
      toLE 4 r.sqTail ++ toLE 4 r.sqHead ++ toLE 4 r.cqTail ++ toLE 4 r.cqHead ++ toLE 4 (ringStatus s x)
        ++ ((runningInCtx s x).map (·.pkt) ++ s.waitingOf x ++ s.waitingOf (128 + x)).flatMap fun p => p.bytes.take 64)

/-- Record 6 of a core; the form of its 32 queue entries is open. -/
def coreRec (s : State) (c : Nat) : State × DumpRec :=
  let (s, q) := freeBytes s 2048
  (s, mkRec 6 (coreCpath c 5) (regBytes s (coreBlk c + 0x4) 4 ++ regBytes s (coreBlk c + 0x10) 8 ++ q
    ++ (List.range 64).flatMap fun h => toLE 16 (hnd s c h).word))

/-- A sampled line as stored: 64 cells of 16 bytes, each with its 2 check bytes, which are open. -/
def lineRec (s : State) (c h row : Nat) (e : Handle) : State × DumpRec :=
  let w := e.base + row * e.width + e.col0 / 64
  let (s, chk) := freeBytes s 128
  (s, { type := 7, unreachable := false, ue := s.pad.ue.any (fun k => k / 64 == 2 ^ 11 * c + w), cpath := coreCpath c 4,
        handle := h, row := row
        data := (List.range 64).flatMap fun b => memReadN s.pad.mem (padWordAddr c w + 16 * b) 16 ++ slice chk (2 * b) 2 })

def padRecs (s : State) (c : Nat) : State × List DumpRec :=
  (boundOn s c).foldl (fun (a : State × List DumpRec) e =>
    let n := min (s.fld hltCtl 13 4) e.2.rows
    (List.range n).foldl (fun (a : State × List DumpRec) k =>
      let (s, r) := lineRec a.1 c e.1 (k * e.2.rows / n) e.2
      (s, a.2 ++ [r])) a) (s, [])

/-- Record 8 of a reduction unit: for each entry in use the job and the serial, and the headers of
the chunks it holds. -/
def redRec (s : State) (u : Nat) : DumpRec :=
  mkRec 8 (redCpath u)
    (((s.red.colls.filter fun c => !c.done && c.unit == u).flatMap fun c => toLE 4 c.job ++ toLE 4 c.serial)
      ++ (s.red.retain.filter (·.unit == u)).flatMap fun r => (chunkBytes r.chunk).take 32)

def portRec (s : State) (p : Nat) : DumpRec :=
  mkRec 9 (portCpath p) ((List.range 25).flatMap fun i => toLE 4 (leNat ((List.range 4).map fun j => viewByte s (linkBlk p + 4 * i + j))))

def domCores (dom inst : Nat) : List Nat := (List.range 256).filter (domHasCore dom inst)
def domReds (dom inst : Nat) : List Nat :=
  (List.range 32).filter (fun g => domContains dom inst 1 g)
    ++ ((List.range 24).filter (domHasPort dom inst)).map (32 + ·)
def domPorts (dom inst : Nat) : List Nat := (List.range 24).filter (domHasPort dom inst)

/-- All records of a dump, in the order of R534. -/
def dumpRecs (s : State) (d : DumpRun) : State × List DumpRec :=
  let i := domInst d.dom d.cpath
  let none_ := d.trig == 2
  let cores := if none_ then [] else domCores d.dom i
  let base := deviceRecs s d
  let (s, r6) := cores.foldl (fun (a : State × List DumpRec) c =>
    let (s, r) := coreRec a.1 c
    (s, a.2 ++ [r])) (s, [])
  let (s, r7) := cores.foldl (fun (a : State × List DumpRec) c =>
    let (s, r) := padRecs a.1 c
    (s, a.2 ++ r)) (s, [])
  let r8 := if none_ then [] else (domReds d.dom i).map (redRec s)
  let r9 := if none_ then [] else (domPorts d.dom i).map (portRec s)
  (s, base ++ r6 ++ r7 ++ r8 ++ r9)

/-- A record header and its data, padded to 16 bytes (R538). -/
def DumpRec.bytes (r : DumpRec) : List Byte :=
  toLE 16 (packFields [(8, r.type), (1, b2n r.unreachable), (1, b2n r.ue), (6, 0), (16, r.cpath), (32, r.data.length),
    (6, r.handle), (10, 0), (12, r.row)]) ++ padTo r.data (16 * ceilDiv r.data.length 16)

/-- The records that fit in `room` bytes: whether all do, and they. -/
def fitRecs : Nat → List DumpRec → Bool × List DumpRec
  | _, [] => (true, [])
  | room, r :: t =>
    let n := r.bytes.length
    if room < n then (false, [])
    else
      let (ok, l) := fitRecs (room - n) t
      (ok, r :: l)

def dumpHeader (serial : Nat) (d : DumpRun) (all : Bool) (recs : List DumpRec) (bytes : Nat) : List Byte :=
  toLE 4 0x44554D50 ++ toLE 4 serial ++ toLE 1 d.trig ++ toLE 1 d.dom ++ toLE 2 d.cpath ++ toLE 2 d.job
    ++ toLE 1 (b2n (recs.any (·.unreachable)) + 2 * b2n (!all)) ++ toLE 1 0 ++ toLE 8 d.stride ++ toLE 8 d.startNs
    ++ toLE 4 recs.length ++ toLE 4 0 ++ toLE 8 bytes ++ List.replicate 16 0#8

/-- The unit monitor behind a register of `errorRegs`. -/
def errorUnit (key : Nat) : Nat :=
  if key < 0x01000000 then groomCpath
  else if key < 0x01100000 then coreCpath ((key - coreBlk 0) / 0x1000) (if key % 0x1000 < 0x400 then 5 else 4)
  else match (List.range 4).find? fun k => saddleBlk k / 0x10000 == key / 0x10000 with
    | some k => dieCpath k 0x20
    | none => match (List.range 4).find? fun k => hbmBlk k / 0x10000 == key / 0x10000 with
      | some k => dieCpath k 0x28
      | none => match (List.range 56).find? fun u => redBlk u / 0x1000 == key / 0x1000 with
        | some u => redCpath u
        | none => match (List.range 24).find? fun p => linkBlk p / 0x1000 == key / 0x1000 with
          | some p => portCpath p
          | none => if key / 0x10000 = ddrBlk / 0x10000 then dieCpath 4 0x10
            else if key / 0x10000 = updBlk / 0x10000 then dieCpath 4 0 else groomCpath

/-- The parts of a record, as offset and length, that are read through a unit monitor (R534). Of a core's
record the first 12 bytes are the scoreboard's and the handle entries the pad's (assumption log 46). -/
def unitSpans (r : DumpRec) (cpath : Nat) : List (Nat × Nat) :=
  if r.type = 2 then (List.range hoofUnits.length).filterMap fun i =>
    if hoofUnits.getD i 0 = cpath then some (32 * i, 32) else none
  else if r.type = 3 then
    (errorRegs.foldl (fun (a : Nat × List (Nat × Nat)) e =>
      (a.1 + e.2, if errorUnit e.1 = cpath then a.2 ++ [(a.1, e.2)] else a.2)) (0, [])).2
  else if r.type = 6 then
    (if cpath = r.cpath then [(0, 12)] else if cpath + 1 = r.cpath then [(r.data.length - 1024, 1024)] else [])
  else if 7 ≤ r.type && r.cpath == cpath then [(0, r.data.length)]
  else []

/-- What a record holds when a unit has not answered: in the records of the whole device the unit's places
hold open values, a core's record goes without the part, and a record of the unit alone is not written. -/
def lessUnit (cpath : Nat) (s : State) (r : DumpRec) : State × List DumpRec :=
  match unitSpans r cpath with
  | [] => (s, [r])
  | spans =>
    if 7 ≤ r.type then (s, [])
    else if r.type = 6 then
      (s, [{ r with data := spans.foldl (fun d e => d.take e.1 ++ d.drop (e.1 + e.2)) r.data }])
    else
      let (s, d) := spans.foldl (fun (a : State × List Byte) e =>
        let (s, b) := freeBytes a.1 e.2
        (s, patch a.2 e.1 b)) (s, r.data)
      (s, [{ r with data := d }])

/-- A unit monitor does not answer a read for the records of `type` (R536): one record of that type without
data follows, and nothing more is read from the unit. -/
def unreachRecs (cpath type : Nat) (s : State) (l : List DumpRec) : State × List DumpRec :=
  if l.any fun r => r.cpath == cpath && r.unreachable then (s, l)
  else match l.find? fun r => r.type == type && !(unitSpans r cpath).isEmpty with
    | none => (s, l)
    | some r =>
      let n := l.idxOf r
      let mark : DumpRec := { r with unreachable := true, ue := false, cpath := cpath, handle := 0, row := 0, data := [] }
      let (s, here) := lessUnit cpath s r
      let (s, rest) := (l.drop (n + 1)).foldl (fun (a : State × List DumpRec) r =>
        let (s, k) := lessUnit cpath a.1 r
        (s, a.2 ++ k)) (s, [])
      (s, l.take n ++ here ++ mark :: rest)

/-! Declaration and recovery (R519, R525 to R528). -/

/-- The next larger domain (R528). -/
def nextDomain (d : Nat) : Nat := if d = 0 then 1 else if d = 1 then 2 else if d = 4 then 5 else 6

/-- One event toward the fence of the unit that hung; an HBM controller counts for its die too. -/
def hangEvent (s : State) (cpath : Nat) : State :=
  let s := match hangFence cpath with
    | some u => fenceEvent s u
    | none => s
  match hUnit cpath with
  | .hbm t => fenceEvent s (fuDie (t / 2))
  | _ => s

/-- Begin a recovery of domain `dom` of the unit at `cpath` from step 2 (R525, R527): the recoveries
it contains merge into it; the jobs with work there are aborted; commands with work on a hung unit
will complete with HUNG. -/
def beginRecovery (s : State) (dom cpath cause : Nat) (hung : List Nat) : State :=
  let inst := domInst dom cpath
  let inner := s.hlt.recovs.filter fun r => domContains dom inst r.dom r.inst
  let units := dedupNat (inner.flatMap (·.units) ++ hung)
  let ctxs := domainCtxs s dom inst
  let stuck := (s.cp.cmds.filter fun c => isContextQueue c.pkt.q && units.any (onUnit s c)).map (·.id)
  let job := ((ctxs.filter fun x => !(s.ctx x).held && (s.ctx x).job != 0).map fun x => (s.ctx x).job).head?.getD
    ((inner.head?.map (·.job)).getD 0)
  let s := ctxs.foldl (abortCtx cause (if hung.isEmpty then 0xFFFF else cpath) s.nowStride) s
  let s := stuck.foldl (fun s i => s.raise i stHung) s
  s.onHlt fun h => { h with
    nextRecov := h.nextRecov + 1
    dumpQ := h.dumpQ.filter fun d => !(inner.any fun r => d.recov == some r.id)
    recovs := h.recovs.filter (fun r => !inner.contains r) ++ [{
      id := h.nextRecov, dom := dom, unit := cpath, units := units, phase := 3, stride := s.nowStride
      startUs := s.nowUs, job := job, cause := cause, ctxs := dedupNat (inner.flatMap (·.ctxs) ++ ctxs) }] }

/-- Declare a hang (R525 step 1): it joins the recovery its unit is in already, or begins one, of the
next larger domain when the unit is watched after a return (R528). -/
def declareHang (s : State) (cpath : Nat) : State :=
  let d0 := hangDomain cpath
  let s := logEvent s clsHang 0 cpath none 0
  let esc := s.hlt.watch.find? fun w => domContains w.2.1 (domInst w.2.1 w.1) d0 (domInst d0 cpath)
  let dom := esc.elim d0 fun w => nextDomain w.2.1
  let joined := s.hlt.recovs.find? fun r => domContains r.dom r.inst d0 (domInst d0 cpath)
  let dom := joined.elim dom (·.dom)
  let s := s.onHlt fun h => { h with
    hangs := satAdd 32 h.hangs 1
    lastHang := BitVec.ofNat 64 (cpath + dom * 2 ^ 16 + s.nowStride % 2 ^ 32 * 2 ^ 32) }
  match joined with
  | some r =>
    let s := setRecov s { r with units := dedupNat (r.units ++ [cpath]) }
    let s := (s.cp.cmds.filter fun c => isContextQueue c.pkt.q && onUnit s c cpath).foldl (fun s c => s.raise c.id stHung) s
    hangEvent s cpath
  | none =>
    let s := beginRecovery s dom cpath 1 [cpath]
    let s := hangEvent s cpath
    match esc with
    | some w =>
      let s := s.onHlt fun h => { h with watch := h.watch.erase w }
      hangEvent (logEvent s clsReset 2 cpath none 0 dom) cpath
    | none => s

/-- Requests and passes of the domain that have not ended are given up (R525 step 3). -/
def dropStuck (s : State) (dom inst : Nat) (ids : List Nat) : State :=
  let issuers := (domCores dom inst).map dmaIssuer
    ++ (if dom = 2 then (List.range 16).map (gatherIssuer inst) else []) ++ (if dom = 3 then [320, 321, 322, 323] else [])
  let stuck := s.mov.flight.filter fun r => ids.contains r.cmd && (dom == 6 || issuers.contains r.issuer
    || (r.target != noTarget && (domMems dom inst).contains (targetUnit r.target)))
  let s := s.onMem fun m => { m with
    counts := stuck.foldl (fun t r => if r.target = noTarget then t else Tbl.upd 0 t r.target (· - 1)) m.counts }
  let s := s.onMov fun m => { m with flight := m.flight.filter fun r => !stuck.contains r }
  s.onCore fun c => { c with running := c.running.filter fun p => !(ids.contains p.cmd && domHasCore dom inst p.core) }

/-! Domain resets (R539 to R542). -/

/-- Reset of one core: its engines, queues, pad, handle table and DMA queue. -/
def resetCore (s : State) (c : Nat) : State :=
  let s := s.onCore fun k => { k with
    products := k.products.filter (·.core != c)
    running := k.running.filter (·.core != c)
    acc := k.acc.filter (·.core != c)
    drains := k.drains.filter (·.core != c)
    vuq := k.vuq.filter (·.core != c) }
  let s := s.onPad fun p => { p with
    mem := memZero p.mem (2 ^ 21 * c) (2 ^ 21 * (c + 1))
    handles := p.handles.filter fun e => e.1 / 64 != c
    claims := p.claims.filter (·.core != c)
    ue := p.ue.filter fun k => k / 2 ^ 17 != c
    sym := p.sym.filter fun k => k / 2 ^ 17 != c
    groups := p.groups.filter fun g => g.1 / 8 != c
    scrubs := p.scrubs.filter (·.core != c) }
  setJobs s (dmaIssuer c) []

/-- Reset of one reduction unit. -/
def resetRed (s : State) (u : Nat) : State :=
  s.onRed fun r => { r with
    retain := r.retain.filter (·.unit != u)
    sendq := r.sendq.filter (·.unit != u) }

/-- A port's state is lost (R366): a new session; it trains. -/
def resetPort (s : State) (p : Nat) : State :=
  let s := drawSession (flushPort s p) p
  let s := updPort s p fun q => { q with egress := [] }
  if (portOf s p).st = 0 then s
  else updPort s p fun q => { q with st := 1, trainUs := s.nowUs, failed := 0 }

/-- A stack or channel of a resetting domain (R540): its contents are kept when it has entered
self-refresh, else written with zeros and a RESET entry of code 3; it trains. -/
def resetMem (dom : Nat) (s : State) (u : Nat) : State :=
  let s := if (srUnit s u).st = 2 then s
    else
      let span := if u < 8 then (2 ^ 36 * u, 2 ^ 36 * (u + 1)) else channelSpan (u - 8)
      logEvent (dpaZero s span.1 span.2) clsReset 3 (unitCpath u) none 0 dom
  setSr s u fun _ => { SrUnit.empty with st := 3, since := s.nowUs }

/-- What a compute die holds beside its clusters. -/
def resetDie (s : State) (k : Nat) : State :=
  let s := (List.range 16).foldl (fun s e => setJobs s (gatherIssuer k e) []) s
  let s := s.onMov fun m => { m with gatherWait := Tbl.erase m.gatherWait k }
  let s := s.onBlk fun b => { b with
    mem := memZero b.mem (2 ^ 26 * k) (2 ^ 26 * (k + 1))
    ue := b.ue.filter fun w => w / 2 ^ 21 != k
    sym := b.sym.filter fun w => w / 2 ^ 21 != k
    scrubs := b.scrubs.filter (·.1 != k) }
  s.onMem fun m => { m with tlb := m.tlb.filter (·.mmu != k) }

def resetUpd (s : State) : State :=
  let s := s.onUpd fun u => { u with tasks := [], running := none, store := [] }
  let s := [320, 321, 322, 323].foldl (fun s i => setJobs s i []) s
  s.onMem fun m => { m with cache := [], tlb := m.tlb.filter (·.mmu != 4) }

/-- What a warm package reset does beside the dies and ports (R542): every context ceases to exist
and its generation rises, rings are disabled, the Groom restarts, and RESTART will be sent. -/
def resetWarm (s : State) : State :=
  let live := (s.sch.ctxs.filter (·.2.live)).map (·.1)
  let s := live.foldl (fun s x => s.onSch fun h => { h with gens := Tbl.upd 0 h.gens x fun g => (g + 1) % 256 }) s
  let s := s.onSch fun h => { h with
    ctxs := []
    savedHandles := []
    pdks := h.pdks.map fun e => (e.1, { e.2 with run := none, lastCtx := none, change := none, switch := none }) }
  let s := s.onCp fun _ => CmdProc.reset
  let s := s.onBlk fun _ => Blocks.reset
  let s := s.onRed fun _ => Reds.reset
  let s := s.onUpd fun _ => Update.reset
  let s := s.onCore fun _ => Cores.reset
  let s := s.onMov fun _ => Movers.reset
  let s := s.onMem fun m => { m with tlb := [], cache := [], counts := [], refreshing := [] }
  let s := s.onFab fun f => { f with
    rxq := [], sentTo := [], marks := [], held := [], drains := [], restartSent := false, relayed := [], purging := [] }
  (s.count32 (groomBlk + 0x1C) 1).onGrm fun g => { g with st := 2, cur := none, forwards := [], claims := [], activating := [] }

/-- The reset of a domain: step 5 of R525. -/
def resetDomain (s : State) (dom inst : Nat) : State :=
  let s := (domCores dom inst).foldl resetCore s
  let s := (domReds dom inst).foldl resetRed s
  let s := ((List.range 4).filter (domHasDie dom inst)).foldl resetDie s
  let s := if dom = 3 || dom = 6 then resetUpd s else s
  let s := ((domMems dom inst).filter fun u => (memUnits s).contains u).foldl (resetMem dom) s
  let s := (domPorts dom inst).foldl resetPort s
  if dom = 6 then resetWarm s else s

end Sys2Proof.Machine
end

