-- ==== Sys2Proof/Machine/RegIO.lean ====
section
/-! DEFINITION. Register accesses: reads and writes of whole registers and of parts of wide ones
(R9 to R16), the effects of writes, error latches (R602), tag caps (R32), fault injection (R109), fence
bits (R547) and the recovery registers (R507). -/
namespace Sys2Proof.Machine

open Sys2Proof

/-! Plain fields. -/

/-- Write the fields of a register; one whose value is out of its range keeps it. -/
def putFields (fields : List Fld) (old v : Nat) : Nat :=
  fields.foldl (fun o f =>
    let x := bits v f.lo f.width
    if f.min ≤ x && x ≤ f.max then putBits o f.lo f.width x else o) old

/-- Bits of the fields. -/
def fieldMask (fields : List Fld) : Nat := fields.foldl (fun m f => putBits m f.lo f.width (2 ^ f.width - 1)) 0

def writeFields (s : State) (r : RegRow) (key v : Nat) : State := s.setReg key (putFields r.fields (s.reg key) v)

/-! Error latches (R9, R602). -/

/-- The error address register that a latch register of the given address rearms, and the bits named
for it. -/
def latchNames (key : Nat) : Option (Nat × Nat) :=
  if 0x01000000 ≤ key && key < 0x01100000 && key % 0x1000 = 0x408 then some (key + 4, 7)
  else if 0x01800000 ≤ key && key < 0x01840000 && key % 0x10000 = 0x18 then some (key + 4, 3)
  else if 0x01C00000 ≤ key && key < 0x01C40000 && key % 0x10000 = 0x8 then some (key + 8, 3)
  else if key = ddrBlk + 0x8 then some (key + 8, 15)
  else none

/-- A write of ones to a W1C register; clearing ALIAS_HAZARD sets its count to 0 (R152). CORE_ERR_INFO
keeps its record until the next fault (assumption log 52). -/
def writeOnes (s : State) (r : RegRow) (key v : Nat) : State :=
  let old := s.reg key
  let new := maskMinus old (andNat v (fieldMask r.fields))
  let s := s.setReg key new
  let pad := decide (0x01000000 ≤ key) && decide (key < 0x01100000) && key % 0x1000 == 0x408
  let s := if pad && bit old 3 && !bit new 3 then s.setReg (key + 0x14) (s.reg (key + 0x14) % 2 ^ 17) else s
  match latchNames key with
  | some (a, m) => if andNat new m = 0 then rearmErr s a else s
  | none => s

/-! Tag caps (R32, R229). -/

def capDie (key : Nat) : Nat := if key = dmaUdBlk then 4 else (key - dmaBlk 0) / 0x10000

/-- A write of a tag cap; 0 is ignored. One that leaves it above its maximum is logged. -/
def writeCap (s : State) (r : RegRow) (key v : Nat) : State :=
  let k := capDie key
  let x := bits v 0 (if k < 4 then 8 else 6)
  if x = 0 then s
  else
    let s := s.onHlt fun h => { h with outside := h.outside.filter (outsideNow s) }
    let s := writeFields s r key v
    if capOver s k then
      logEvent (s.onHlt fun h => { h with outside := insertAsc k h.outside }) clsConfig 0 (k * 0x2000 + 0x1FFF) none 0
    else s

/-! Fences (R109, R547). -/

/-- Set or clear a fence that differs from `on`. -/
def fenceTo (on : Bool) (s : State) (u : Nat) : State :=
  if fenced s u = on then s else if on then fenceNow s u else clearFence s u

/-- A write of a fence register of the health block: each bit that changes is a fence set or
cleared. -/
def writeFences (s : State) (o v : Nat) : State :=
  (List.range (fenceBits o)).foldl (fun s b => fenceTo (bit v b) s (fenceUnit o b)) s

/-- A write of `CORE_CTL`. -/
def writeCoreCtl (s : State) (r : RegRow) (key v : Nat) : State :=
  let c := (key - coreBlk 0) / 0x1000
  let was := fenced s c
  let s := writeFields s r key v
  let s := s.setReg key (setBit (s.reg key) 1 was)
  fenceTo (bit v 1) s c

/-! Power limits (R564). -/

def writeLimits (s : State) (r : RegRow) (key v : Nat) : State :=
  let peak := bits v 0 12
  let sus := bits v 12 12
  if Config.fuseCeilingW < peak || Config.fuseCeilingW < sus || peak < 500 || peak < sus then s
  else writeFields s r key v

/-! Recovery registers (R507, R515). -/

/-- A write of `GRM_RECOVERY_CTL`, which is ignored unless the Groom is in recovery: WRITE stores the
window as chunk n while BUSY is 0; FINISH has the boot ROM check the image and boot it. -/
def recoveryChunk (s : State) (v : Nat) : State :=
  if s.grm.st = 3 && bit v 8 && s.grm.recBusy.isNone && bits v 0 8 < 192 then
    s.onGrm fun g => { g with recBusy := some (bits v 0 8) }
  else s

/-- The boot ROM boots the image of `m` from recovery, or stays in it (R506, R507). -/
def bootImage (s : State) (m : Tbl Byte) : State :=
  let cause := imageCheck m s.grm.vendorHash s.grm.svnFloor true
  if cause ≠ 0 then s.onGrm fun g => { g with recError := true, recCause := cause }
  else
    let live := s.grm.recLive
    let s := s.onGrm fun g => { g with
      flash := m.filter (·.1 < flashConfig) ++ g.flash.filter (fun c => decide (flashConfig ≤ c.1))
      st := if live then 2 else 0
      recError := false }
    if live then s else trainAll ((loadImage s).onBoot fun b => { b with imageOk := true })

def recoveryFinishes (s : State) (v : Nat) : State :=
  if s.grm.st = 3 && bit v 9 && s.grm.recBusy.isNone then bootImage s s.grm.staging else s

def recoveryCtl (s : State) (v : Nat) : State := recoveryFinishes (recoveryChunk s v) v

/-! The function block (R404, R410, R439, R443 to R446). -/

/-- A base of ring q, which is kept while the ring is enabled. -/
def writeRingBase (s : State) (q o v : Nat) : State :=
  if (s.ring q).enabled then s
  else s.updRing q fun r => if o = 0 then { r with sqBase := v } else { r with cqBase := v }

def writeRing (s : State) (fn q o v : Nat) : State :=
  if o = 0 || o = 8 then writeRingBase s q o v
  else if o = 0x10 then ringCtlWrite s q fn v
  else s

/-- MSI-X table word i: a vector that is unmasked while its message is pending sends it. -/
def writeMsix (s : State) (fn i v : Nat) : State :=
  let k := 512 * fn + i / 2
  let old := (Tbl.get 0#64 s.host.msix k).toNat
  let s := s.onHost fun h => { h with msix := Tbl.set 0#64 h.msix k (BitVec.ofNat 64 (putBits old (32 * (i % 2)) 32 v)) }
  let vec := i / 4
  if i % 4 = 3 && !bit v 0 && Tbl.get false s.host.msixPend (256 * fn + vec) then sendVector s fn vec else s

/-- A write of the register at offset `o` of the function block of function `fn`; `rein` says that
the master holds the rein, `host` that it is a host write. -/
def writeFn (s : State) (fn : Nat) (rein host : Bool) (o v : Nat) : State :=
  if 0x1000 ≤ o && o < 0x1020 then writeRing s fn (64 + fn) (o - 0x1000) v
  else if o = 0x1100 then tlbInvalidate s fn v
  else if 0x2000 ≤ o && o < 0x3000 then
    match ringOf s fn ((o - 0x2000) / 64) with
    | some q => writeRing s fn q (o % 64) v
    | none => s
  else if 0x3000 ≤ o && o < 0x3100 then
    if fn = 0 && host then writeWindow s 0 ((o - 0x3000) / 16) (BitVec.ofNat 128 v) else s
  else if 0x4000 ≤ o && o < 0x5000 then
    if host then writeWindow s ((o - 0x4000) / 256 + 1) (o % 256 / 16) (BitVec.ofNat 128 v) else s
  else if o = 0x5000 then (if rein then s.setReg dbgCtl (v % 16) else s)
  else if 0x8000 ≤ o && o < 0x9000 then writeMsix s fn ((o - 0x8000) / 4) v
  else s

/-! Effects of a write. -/

/-- A write of an OW register by the rein holder. -/
def writeOwned (s : State) (r : RegRow) (key v : Nat) : State :=
  if 0x01000000 ≤ key && key < 0x01100000 && key % 0x1000 = 0 then writeCoreCtl s r key v
  else if key = dmaUdBlk || (dmaBlk 0 ≤ key && key < dmaBlk 4 && key % 0x10000 = 0) then writeCap s r key v
  else if key = trcBlk then routeCtlWrite s v
  else if key = trcBlk + 0x14 then relayResetWrite s v
  else if trcBlk + 0x4000 ≤ key && key < trcBlk + 0x8000 then
    (writeFields s r key v).onFab fun f => { f with pendSt := 0, check := none }
  else if key = trcBlk + 0x40 then reparent (writeFields s r key v)
  else if linkBlk 0 ≤ key && key < linkBlk 24 && key % 0x1000 = 0 then linkCtl s ((key - linkBlk 0) / 0x1000) v
  else if key = timBlk + 0x20 then s.when (bit v 0) fun s => s.onTim fun t => { t with loadNow := true }
  else if key = accBlk + 0x8 || key = accBlk + 0x10 then markClear s key v
  else if healthBlk ≤ key && key < healthBlk + 0x1000 && fenceBits (key - healthBlk) ≠ 0 then writeFences s (key - healthBlk) v
  else if key = powerBlk + 0x14 then writeLimits s r key v
  else writeFields s r key v

/-- A whole register is written: `key` is its first byte. A write that its access code, the rein or its
die does not permit changes nothing (R10, R11). -/
def writeReg (s : State) (rein host : Bool) (key v : Nat) : State :=
  let o := key % 2 ^ 26
  if dieOff s (regDie o) then s
  else if o < 0x10000 then writeFn s (key / 2 ^ 26) rein host o v
  else if groomBlk + 0x10000 ≤ key && key < groomBlk + 0x20000 then
    s.when (host && s.grm.st == 3 && s.grm.recBusy.isNone) fun s =>
      s.onGrm fun g => { g with recWindow := memWriteN g.recWindow (key - groomBlk - 0x10000) (toLE 4 v) }
  else match regAt key with
    | some (r, _) => match r.acc with
      | .ro => s
      | .rw => writeFields s r key v
      | .w1c => writeOnes s r key v
      | .w1s => s.setReg key (orNat (s.reg key) (andNat v (fieldMask r.fields)))
      | .wo => if key = groomBlk + 0x1000 && host then recoveryCtl s v else s
      | .ow => if rein then kickEngines (writeOwned s r key v) else s
    | none => s

/-! Accesses from BAR0 (R14 to R16). -/

/-- Read `n` bytes at `off` of the register of `len` bytes at `key`. -/
def readPart (s : State) (fn key len off n : Nat) : State × List Byte :=
  let live := toLE n (viewReg s key / 2 ^ (8 * off))
  let held := Tbl.get none s.regs.rdShadow fn
  let drop := s.onRegs fun r => { r with rdShadow := Tbl.erase r.rdShadow fn }
  if len ≤ 4 || 16 < len then (if held.any (·.start == key) then s else drop, live)
  else if off = 0 then
    if n < len then
      let rest := (List.range (len - n)).map fun i => (n + i, BitVec.ofNat 8 (viewReg s key / 2 ^ (8 * (n + i))))
      (s.onRegs fun r => { r with rdShadow := Tbl.insert r.rdShadow fn (some ⟨key, rest⟩) }, live)
    else (drop, live)
  else match held with
    | some h =>
      if h.start = key then
        (s, (List.range n).map fun i => (Tbl.get? h.parts (off + i)).getD (BitVec.ofNat 8 (viewReg s key / 2 ^ (8 * (off + i)))))
      else (drop, live)
    | none => (s, live)

/-- Read `n` bytes from key `k` on; what holds no register reads 0. -/
def readKeys : Nat → State → Nat → Nat → Nat → State × List Byte
  | 0, s, _, _, _ => (s, [])
  | fuel + 1, s, fn, k, n =>
    if n = 0 then (s, [])
    else match spanAt k with
      | none =>
        let (s, l) := readKeys fuel s fn (k + 1) (n - 1)
        (s, 0#8 :: l)
      | some (a, len) =>
        let m := min n (a + len - k)
        let (s, d) := readPart s fn a len (k - a) m
        let (s, l) := readKeys fuel s fn (k + m) (n - m)
        (s, d ++ l)

/-- Write `n` bytes `v` at `off` of the register of `len` bytes at `key`: a part that is not the highest is
held; the highest takes effect with the parts held, or those the register holds (R16). -/
def writePart (s : State) (fn key len off n v : Nat) (rein : Bool) : State :=
  let s := s.onRegs fun r => { r with
    rdShadow := if (Tbl.get none r.rdShadow fn).any (·.start == key) then r.rdShadow else Tbl.erase r.rdShadow fn
    wrShadow := if (Tbl.get none r.wrShadow fn).any (·.start == key) then r.wrShadow else Tbl.erase r.wrShadow fn }
  let held := ((Tbl.get none s.regs.wrShadow fn).map (·.parts)).getD []
  if off + n < len then
    let parts := (List.range n).foldl (fun t i => Tbl.insert t (off + i) (BitVec.ofNat 8 (v / 2 ^ (8 * i)))) held
    s.onRegs fun r => { r with wrShadow := Tbl.insert r.wrShadow fn (some ⟨key, parts⟩) }
  else
    let low := (List.range off).map fun i => (Tbl.get? held i).getD (BitVec.ofNat 8 (viewReg s key / 2 ^ (8 * i)))
    let s := s.onRegs fun r => { r with wrShadow := Tbl.erase r.wrShadow fn }
    writeReg s rein true key (leNat low + v % 2 ^ (8 * n) * 2 ^ (8 * off))

def writeKeys : Nat → State → Nat → Nat → Nat → Nat → Bool → State
  | 0, s, _, _, _, _, _ => s
  | fuel + 1, s, fn, k, n, v, rein =>
    if n = 0 then s
    else match spanAt k with
      | none => writeKeys fuel s fn (k + 1) (n - 1) (v / 256) rein
      | some (a, len) =>
        let m := min n (a + len - k)
        writeKeys fuel (writePart s fn a len (k - a) m v rein) fn (k + m) (n - m) (v / 2 ^ (8 * m)) rein

/-- BAR0 of function `fn` answers accesses of `n` bytes at `a`: 4, 8 or 16 bytes, 4-byte aligned. -/
def busOk (s : State) (fn a n : Nat) : Bool :=
  hostUp s && s.boot.configReady && decide (fn < 17) && s.vfEnabled fn && (n == 4 || n == 8 || n == 16) && a % 4 == 0

/-- A host write to BAR0. -/
def busWrite (s : State) (fn a n v : Nat) : State :=
  match busKey fn a with
  | some k => writeKeys 16 s fn k n v (owWrite s fn)
  | none => s

/-- A host read of BAR0. -/
def busRead (s : State) (fn a n : Nat) : State :=
  let (s, d) := match busKey fn a with
    | some k => readKeys 16 s fn k n
    | none => (s, List.replicate n 0#8)
  s.onRegs fun r => { r with out := d, outPoisoned := false }

/-! The commands. -/

/-- REG_READ_LOW_HALF (R15): a read of a register or a part of one. -/
def execRegReadLowHalf (fn addr bytes : Nat) (s : State) : Out :=
  .next (s.when (busOk s fn addr bytes) fun s => busRead s fn addr bytes)

/-- REG_WRITE_LOW_HALF (R16): a write of a part of a wide register. -/
def execRegWriteLowHalf (fn addr bytes : Nat) (v : W64) (s : State) : Out :=
  .next (s.when (busOk s fn addr bytes) fun s => busWrite s fn addr bytes v.toNat)

/-- REG_WRITE (R11): a write of any register. -/
def execRegWrite (fn addr bytes : Nat) (v : W64) (s : State) : Out :=
  .next (s.when (busOk s fn addr bytes) fun s => busWrite s fn addr bytes v.toNat)

/-- ERR_LATCH_WRITE (R602). -/
def execErrLatchWrite (fn addr : Nat) (v : W64) (s : State) : Out :=
  .next (s.when (busOk s fn addr 4 && fn == 0 && (latchNames addr).isSome) fun s => busWrite s fn addr 4 v.toNat)

/-- CAP_WRITE (R32). -/
def execCapWrite (fn addr : Nat) (v : W64) (s : State) : Out :=
  .next (s.when (busOk s fn addr 4 && (addr == dmaUdBlk || (List.range 4).any fun k => addr == dmaBlk k)) fun s =>
    busWrite s fn addr 4 v.toNat)

/-- INJ_ARM (R109): a write of `CORE_CTL` that sets INJ_ARM. -/
def execInjArm (fn core : Nat) (v : W64) (s : State) : Out :=
  withUnit (decide (core < 256)) <| s.when (busOk s fn (coreBlk core) 4 && bit v.toNat 12) fun s =>
    busWrite s fn (coreBlk core) 4 v.toNat

/-- FENCE_BIT_WRITE (R547): a write of a fence register of the health block. -/
def execFenceBitWrite (fn addr : Nat) (v : W64) (s : State) : Out :=
  let n := if addr = healthBlk + 0x88 then 4 else 8
  .next (s.when (busOk s fn addr n && decide (healthBlk ≤ addr) && decide (fenceBits (addr - healthBlk) ≠ 0) && addr % n == 0)
    fun s => busWrite s fn addr n v.toNat)

/-- RECOVERY_CHUNK_WRITE (R507). -/
def execRecoveryChunkWrite (fn : Nat) (v : W64) (s : State) : Out :=
  .next (s.when (busOk s fn (groomBlk + 0x1000) 4 && bit v.toNat 8) fun s => busWrite s fn (groomBlk + 0x1000) 4 v.toNat)

/-- RECOVERY_CHUNK_DONE (R507): the chunk is stored. -/
def execRecoveryChunkDone (s : State) : Out :=
  .next (s.when (alive s) fun s =>
    match s.grm.recBusy with
    | some n => s.onGrm fun g => { g with
        staging := memWriteN g.staging (65536 * n) (memReadN g.recWindow 0 65536)
        recBusy := none }
    | none => s)

/-- RECOVERY_FINISH (R507). -/
def execRecoveryFinish (fn : Nat) (v : W64) (s : State) : Out :=
  .next (s.when (busOk s fn (groomBlk + 0x1000) 4 && bit v.toNat 9) fun s => busWrite s fn (groomBlk + 0x1000) 4 v.toNat)

end Sys2Proof.Machine
end

