-- ==== Sys2Proof/Machine/Health.lean ====
section
/-! DEFINITION. The steps of the health engine (chapter 15): hoofbeat checks, the overrun limit,
aborts, recoveries, resets and dumps. -/
namespace Sys2Proof.Machine

open Sys2Proof

/-! Hoofbeat checks (R519, R520). -/

/-- Units that had pending work at the previous check and have it now, with the same count. -/
def hungUnits (before now : Tbl (Nat × Bool)) : List Nat :=
  (now.filter fun e => e.2.2 && Tbl.get? before e.1 == some e.2).map (·.1)

/-- The check: hangs are declared lowest control path first, and the check window of the corrected errors
begins anew. -/
def checkHooves (s : State) : State :=
  let now := sampleAll s
  let hung := hungUnits s.hlt.hoof now
  let s := s.onHlt fun h => { h with hoof := now }
  let s := hung.foldl declareHang s
  let s := s.onHlt fun h => { h with watch := (h.watch.map fun w => (w.1, w.2.1, w.2.2 - 1)).filter (·.2.2 != 0) }
  let s := s.onPad fun p => { p with ceWindow := [] }
  let s := s.onMem fun m => { m with ceWindow := [] }
  kickEngines (s.onBlk fun b => { b with ceWindow := [] })

/-- HOOFBEAT_CHECK (R519, R527). -/
def execHoofbeatCheck (s : State) : Out := .next (popDue s .hoofbeat checkHooves)

/-- The commands of context x that have run past its overrun limit (R468, R521). -/
def lateCmds (s : State) (x : Nat) : List Cmd :=
  (runningInCtx s x).filter fun c => c.overrun && c.runEnd.any fun e => decide (e.1 + overrunLimitReg s ≤ s.nowStride)

/-- Late commands end with HUNG, the job is aborted, and a dump is taken. -/
def endLate (x : Nat) (late : List Cmd) (s : State) : State :=
  let job := (s.ctx x).job
  let s := late.foldl (fun s c => endCmd s c.id stHung) s
  let s := logEvent s clsHang 1 groomCpath (some x) 0
  let s := abortCtx 2 0xFFFF s.nowStride s x
  kickEngines (if dumpOn s then queueDump s 2 0xFF 0xFFFF job s.nowStride none [x] else s)

/-- OVERRUN_LIMIT (R468, R521). -/
def execOverrunLimit (x : Nat) (s : State) : Out :=
  .next <| popDue s (.overrunLimit x) fun s => if (lateCmds s x).isEmpty then s else endLate x (lateCmds s x) s

/-! Aborts from the fabric (R529, R531). -/

/-- ABORT (R531): an abort of a job. With no context bound to it, it is counted as ignored. -/
def execAbort (port : Nat) (s : State) : Out :=
  onRx 0x35 3 port s (fun _ => true) fun k s =>
    match ctxOfJob s k.job with
    | none => s.onHlt fun h => { h with abortsIgnored := satAdd 11 h.abortsIgnored 1 }
    | some x =>
      let s := s.onHlt fun h => { h with abortsIn := satAdd 11 h.abortsIn 1 }
      kickEngines (holdCtx (logEvent s clsAbort 1 (fieldLE k.pay 4 2) (some x) 0) x)

/-! Recovery (R525 to R528). -/

def recov? (s : State) (n phase : Nat) : Option Recov := s.hlt.recovs.find? fun r => r.id == n && r.phase == phase

/-- Commands of a recovery whose work is over complete. -/
def completeEnded (s : State) (ids : List Nat) : State :=
  ids.foldl (fun s i =>
    if workLeft s i then s
    else match s.cmd? i with
      | some c => afterCommand (finish s i) c.ctx
      | none => s) s

/-- What still runs in the domain of recovery r is given up, every command with work there completes, and
the dump is asked for. -/
def endQuiesce (n : Nat) (r : Recov) (s : State) : State :=
  let ids := (s.cp.cmds.filter fun c => c.ended && onDomain s c r.dom r.inst).map (·.id)
  let s := completeEnded (dropStuck s r.dom r.inst ids) ids
  let s := setRecov s { r with phase := 4 }
  if dumpOn s then queueDump s 1 r.dom r.unit r.job r.stride (some n) r.ctxs else afterDump s n

/-- QUIESCE_END (R525 steps 3 and 4). -/
def execQuiesceEnd (n : Nat) (s : State) : Out :=
  .next (s.when (alive s) fun s =>
    match recov? s n 3 with
    | none => s
    | some r => endQuiesce n r s)

/-- DOMAIN_RESET (R525 step 5, R539, R540): self-refresh entry of the domain's stacks and channels is no
longer pending. -/
def execDomainReset (n : Nat) (s : State) : Out :=
  .next (s.when (alive s) fun s =>
    match recov? s n 5 with
    | none => s
    | some r =>
      if (domMems r.dom r.inst).any fun u => (srUnit s u).st == 1 then s
      else
        let s := setRecov s { r with phase := 6 }
        resetDomain (logEvent s clsReset 0 r.unit none 0 r.dom) r.dom r.inst)

/-- The stacks and channels of a domain are ready again. -/
def memsReady (s : State) (us : List Nat) : State :=
  us.foldl (fun s u => if (srUnit s u).st = 3 then setSr s u fun _ => { SrUnit.empty with lastUse := s.nowUs } else s) s

/-- The domain of recovery r is back: fences reached in the meantime apply, and the units are watched for
two checks (R544). -/
def returnDomain (n : Nat) (r : Recov) (s : State) : State :=
  let s := memsReady s (domMems r.dom r.inst)
  let mine := s.hlt.fencePend.filter fun u => domContains r.dom r.inst (fuDomain u).1 (fuDomain u).2
  let s := s.onHlt fun h => { h with
    fencePend := h.fencePend.filter fun u => !mine.contains u
    recovs := h.recovs.filter (·.id != n)
    watch := h.watch ++ [(r.unit, r.dom, 2)] }
  let s := mine.foldl (fun s u => if fenced s u then s else setFence s u) s
  let s := logEvent s clsReset 1 r.unit none 0 r.dom
  let s := if r.dom = 6 then s.onCp fun c => { c with fetching := s.boot.ready } else s
  kickEngines s

/-- DOMAIN_RETURN (R525 step 6). -/
def execDomainReturn (n : Nat) (s : State) : Out :=
  .next (s.when (alive s) fun s =>
    match recov? s n 6 with
    | none => s
    | some r => returnDomain n r s)

/-- The recovery escalates to the next larger domain, from its abort step (R528). -/
def escalate (r : Recov) (s : State) : State :=
  let dom := nextDomain r.dom
  let s := logEvent s clsReset 2 r.unit none 0 dom
  let s := hangEvent s r.unit
  kickEngines (beginRecovery s dom r.unit r.cause r.units)

/-- DOMAIN_RETURN_TIMEOUT (R528). -/
def execDomainReturnTimeout (n : Nat) (s : State) : Out :=
  .next (s.when (alive s) fun s =>
    match recov? s n 6 with
    | none => s
    | some r => if r.dom = 6 then s else escalate r s)

/-! Dumps (R533 to R538). -/

/-- A dump with no usable destination is skipped. -/
def skipDump (d : DumpRun) (s : State) : State :=
  let s := s.onHlt fun h => { h with dumpSkipped := satAdd 16 h.dumpSkipped 1 }
  let s := logEvent s clsDump 2 d.cpath none 0
  (d.recov.map (afterDump s)).getD s

/-- A dump begins at a destination. Its reads are those of the state at the start. -/
def beginDump (d : DumpRun) (dest base cap : Nat) (s : State) : State :=
  let r := dumpRecs s d
  r.1.onHlt fun h => { h with
    dumping := some { d with dest := dest, base := base, cap := cap, startNs := r.1.tim.fabricNs, records := r.2 } }

/-- DUMP_START (R533): the first dump that waits begins at the first usable destination, or is
skipped. -/
def execDumpStart (s : State) : Out :=
  .next (s.when (alive s && s.hlt.dumping.isNone) fun s =>
    match s.hlt.dumpQ with
    | [] => s
    | d :: t =>
      let s := s.onHlt fun h => { h with dumpQ := t, dumpSerial := h.dumpSerial + 1 }
      match dumpDest s with
      | none => skipDump d s
      | some (dest, base, cap) => beginDump d dest base cap s)

/-- The dump in progress goes on without a unit. -/
def dumpLoses (cpath type : Nat) (s : State) : State :=
  match s.hlt.dumping with
  | some d =>
    let (s, l) := unreachRecs cpath type s d.records
    s.onHlt fun h => { h with dumping := some { d with records := l } }
  | none => s

/-- DUMP_READ_TIMEOUT (R23, R536): the monitor of the unit at `at_ % 2^16` does not answer a read for the records
of type `at_ / 2^16`. -/
def execDumpReadTimeout (at_ : Nat) (s : State) : Out :=
  .next (s.when (alive s) (dumpLoses (at_ % 2 ^ 16) (at_ / 2 ^ 16)))

/-- Write a dump to its destination: the records from byte 64 on, then the header. -/
def writeDump (s : State) (d : DumpRun) (hdr body : List Byte) : State :=
  let bytes := hdr ++ body
  if d.dest = 0 then (if hostOk s 0 d.base bytes.length true then hostWrite s d.base bytes else s)
  else (dpaPut s d.base bytes none).1

/-- Dump d is written, its header last, and the destination's ready bit is set. -/
def finishDump (d : DumpRun) (s : State) : State :=
  let r := fitRecs (d.cap - 64) d.records
  let body := r.2.flatMap DumpRec.bytes
  let s := writeDump s d (dumpHeader s.hlt.dumpSerial d r.1 r.2 (64 + body.length)) body
  let s := s.latch (healthBlk + 0x1C) d.dest
  let s := logEvent s clsDump (b2n (!r.1)) d.cpath none 0
  let s := s.onHlt fun h => { h with dumping := none }
  (d.recov.map (afterDump s)).getD s

/-- DUMP_DONE (R533, R537, R538). -/
def execDumpDone (s : State) : Out :=
  .next (s.when (alive s) fun s =>
    match s.hlt.dumping with
    | none => s
    | some d => finishDump d s)

end Sys2Proof.Machine
end

