-- ==== Sys2Proof/Machine/MgmtOps.lean ====
section
/-! DEFINITION. Management messages: their form and their replies, control paths and Dazal paths, the
change of the rein's holder, and the service of one message (R484 to R493, R498 to R502). -/
namespace Sys2Proof.Machine

open Sys2Proof

/-! Messages (R485, R486). -/

def Msg.op (m : Msg) : Nat := fieldLE m.bytes 0 1
def Msg.flags (m : Msg) : Nat := fieldLE m.bytes 1 1
def Msg.tagNo (m : Msg) : Nat := fieldLE m.bytes 2 2
def Msg.cpath (m : Msg) : Nat := fieldLE m.bytes 4 2
def Msg.len (m : Msg) : Nat := fieldLE m.bytes 6 2
def Msg.payload (m : Msg) : List Byte := slice m.bytes 16 m.len
def Msg.dazal (m : Msg) : Bool := bit m.flags 0
/-- What follows the Dazal path, where there is one. -/
def Msg.args (m : Msg) : List Byte := if m.dazal then m.payload.drop 12 else m.payload
def Msg.arg (m : Msg) (off len : Nat) : Nat := fieldLE m.args off len

/-- Payload limit of the message's path. -/
def Msg.limit (m : Msg) : Nat := if m.master.cls = 1 then 416 else 1024

/-- A message is a reply. -/
def isReply (b : List Byte) : Bool := bit (fieldLE b 1 1) 1

/-! Control paths (R489, R490). -/

/-- The path names a unit. -/
def cpathOk (c : Nat) : Bool :=
  let d := c / 0x2000
  let g := c / 0x200 % 16
  let u := c % 0x200
  if c = groomCpath then true
  else if d < 4 && g < 8 then (decide (u / 16 < 8) && decide (u % 16 ≤ 6)) || u == 0x1F0 || u == 0x1FF
  else if g = 15 then u == 0x1FF && decide (d < 7)
  else if g != 8 then false
  else if d < 4 then u == 0 || (decide (0x10 ≤ u) && decide (u < 0x22)) || u == 0x28 || u == 0x29 || u == 0x30
  else if d = 4 then u == 0 || (decide (0x10 ≤ u) && decide (u < 0x1C)) || (decide (0x20 ≤ u) && decide (u < 0x23))
  else if d = 5 || d = 6 then
    decide (u < 12) || (decide (0x40 ≤ u) && decide (u < 0x4C)) || (d == 5 && decide (0x20 ≤ u) && decide (u < 0x26))
  else false

/-- The register block of a unit: offset, length and first key of each of its parts. -/
def cpathBlock (c : Nat) : List (Nat × Nat × Nat) :=
  let d := c / 0x2000
  let g := c / 0x200 % 16
  let u := c % 0x200
  let one := fun (k n : Nat) => [(0, n, k)]
  if c = groomCpath || c = dieCpath 5 0x25 then
    [(0, 0x20000, groomBlk), (0x40000, 0x21000, healthBlk), (0x80000, 0x1000, powerBlk)]
  else if d < 4 && g < 8 then
    if u = 0x1F0 then one (redClusterBlk (8 * d + g)) 0x1000
    else if u = 0x1FF then []
    else if u % 16 = 6 then one (dmaBlk d) 0x10000
    else one (coreBlk (64 * d + 8 * g + u / 16)) 0x1000
  else if g != 8 then []
  else if d < 4 then
    if u = 0 || u = 0x30 then one (dieSchedBlk d) 0x10000
    else if u < 0x20 then one (dmaBlk d) 0x10000
    else if u = 0x20 then one (saddleBlk d) 0x10000
    else one (hbmBlk d) 0x10000
  else if d = 4 then
    if u = 0 then one updBlk 0x10000 else if u = 0x22 then one dmaUdBlk 0x10000 else one ddrBlk 0x10000
  else if u < 12 then one (linkBlk (12 * (d - 5) + u)) 0x1000
  else if 0x40 ≤ u then one (redPortBlk (12 * (d - 5) + (u - 0x40))) 0x1000
  else if u = 0x21 then one (fnBlk 0) 0x10000
  else if u = 0x22 then one timBlk 0x10000
  else if u = 0x23 then one accBlk 0x10000
  else if u = 0x24 then one trcBlk 0x10000
  else []

/-- The key at an offset of a block. -/
def blockKey (l : List (Nat × Nat × Nat)) (o : Nat) : Option Nat :=
  (l.find? fun r => decide (r.1 ≤ o) && decide (o < r.1 + r.2.1)).map fun r => r.2.2 + (o - r.1)

/-- The die of a unit, as `DIE`; the Groom is in the always-on block of LD_0. -/
def cpathDie (c : Nat) : Nat := if c = groomCpath then 5 else c / 0x2000

/-- Units of LD_0's always-on block answer in Halt; those of the other dies do not (R551, R556). -/
def cpathOff (s : State) (c : Nat) : Bool := dieOff s (cpathDie c)

/-! Dazal paths (R491, R492). -/

/-- The control path of the object that the first 5 bytes of a Dazal path name. -/
def dazalCpath (l : List Byte) : Option Nat :=
  let b := fun i => fieldLE l i 1
  let d := b 1
  let q := b 2
  let c := b 3
  let u := b 4
  let path : Option Nat :=
    if d = 0xFF then (if q = 0xFF && c = 0xFF && u = 0xFF then some groomCpath else none)
    else if q != 0xFF then
      if d < 4 && q < 8 then
        if c = 0xFF then (if u = 0xFF then some (d * 0x2000 + q * 0x200 + 0x1FF)
          else if u = 0xF0 then some (d * 0x2000 + q * 0x200 + 0x1F0) else none)
        else if c < 8 && u ≤ 6 then some (d * 0x2000 + q * 0x200 + 16 * c + u) else none
      else none
    else if c != 0xFF then
      if d < 4 then (if c < 2 && u = 0x28 then some (dieCpath d (0x28 + c)) else none)
      else if (d = 5 || d = 6) && 12 * (d - 5) ≤ c && c < 12 * (d - 5) + 12 then
        if u = 0 then some (portCpath c) else if u = 0x40 then some (portRedCpath c) else none
      else none
    else if u = 0xFF then (if d < 7 then some (d * 0x2000 + 0x1FFF) else none)
    else if (d < 4 && (u = 0x28 || u = 0x29)) || (5 ≤ d && (u < 12 || 0x40 ≤ u)) then none
    else some (dieCpath d u)
  if l.length < 12 || b 0 != 0 || b 5 != 0 then none
  else path.bind fun c => if cpathOk c then some c else none

/-- The target of a message. -/
def Msg.target (m : Msg) : Option Nat :=
  if m.dazal then dazalCpath m.payload else if cpathOk m.cpath then some m.cpath else none

/-- A request in order (R485, R486, R492). -/
def Msg.ok (m : Msg) : Bool :=
  decide (16 ≤ m.bytes.length) && decide (m.flags < 2) && allZero (slice m.bytes 8 8)
    && decide (16 + m.len ≤ m.bytes.length) && decide (m.len ≤ m.limit) && (!m.dazal || (dazalCpath m.payload).isSome)

/-! Replies (R485 to R487). -/

def replyBytes (m : Msg) (st : Nat) (pay : List Byte) : List Byte :=
  let h := padTo m.bytes 16
  slice h 0 1 ++ toLE 1 (2 + m.flags % 2) ++ slice h 2 4 ++ toLE 2 pay.length ++ toLE 1 st ++ List.replicate 7 0#8 ++ pay

/-- A command that serves a management packet completes, unless a request of its own is still out. -/
def settleMgmt (s : State) (id : Nat) : State := if workLeft s id then s else finish s id

/-- The reply to a packet of the PF admin ring: written to `REPLY_ADDR`, by the lead for a relayed
packet, before the completion entry, which has its status. -/
def replyPcie (s : State) (id addr : Nat) (b : List Byte) : State :=
  match s.cmd? id with
  | none => s
  | some c =>
    let s := s.raise id (fieldLE b 8 1)
    if c.pkt.lead.isSome then
      let k := { mkPkt 0x05 0 (leadOf s) b with addr := addr, aux := 1 + 2 * c.pkt.fn + 65536 * b.length }
      settleMgmt (sendRemote s id c.ctx (leadOf s) 4 0 b.length .none k) id
    else if hostOk s 0 addr b.length true then settleMgmt (hostWrite s addr b) id
    else settleMgmt (s.raise id stWindow) id

/-- A list of 16 ports, an index, a count, and a message from byte 32 on: the payload of `DIRECTED`
(assumption log 32). -/
def directedPay (list : List Byte) (idx cnt : Nat) (msg : List Byte) : List Byte :=
  padTo list 16 ++ toLE 1 idx ++ toLE 1 cnt ++ List.replicate 14 0#8 ++ msg

/-- Send a `DIRECTED` packet out of a port as part of its list. -/
def sendDirected (s : State) (p : Nat) (list : List Byte) (idx cnt : Nat) (msg : List Byte) : State :=
  if p < 24 then sendPort s p (mkPkt 0x32 3 0 (directedPay list idx cnt msg)) else s

/-- The last 32 replies to each master are kept. -/
def trimKept (l : List (Master × Nat × List Byte)) : List (Master × Nat × List Byte) :=
  match l with
  | [] => []
  | a :: t => a :: t.filter fun e => e.1 != a.1 || decide (((t.takeWhile (· != e)).filter (·.1 == a.1)).length < 31)

/-- The reply of a target to the message enclosed in a `FM_FORWARD` becomes that command's reply
(R497). -/
def takeReply (s : State) (list : List Byte) (src : Nat) (b : List Byte) : State :=
  let mine := fun (f : Msg × Nat) =>
    f.2 == fieldLE b 2 2 && (if list.isEmpty then f.1.arg 2 1 == 0 && f.1.arg 0 2 == src else f.1.arg 2 1 != 0)
  match s.grm.forwards.find? mine with
  | none => s
  | some f =>
    let out := replyBytes f.1 (fieldLE b 8 1) (b.take 416)
    let s := s.onGrm fun g => { g with
      forwards := g.forwards.erase f
      kept := trimKept ((f.1.master, f.1.tagNo, out) :: g.kept) }
    match f.1.cmd with
    | some id => replyPcie s id f.1.replyAddr out
    | none => s

/-- Send a reply by the path its request came on. -/
def sendReply (s : State) (m : Msg) (b : List Byte) : State :=
  match m.cmd with
  | some id => replyPcie s id m.replyAddr b
  | none =>
    if m.master.cls = 2 then s.onGrm fun g => { g with mctpOut := b }
    else if m.master.directed then
      sendDirected s m.master.port m.list (fieldLE m.list 16 1 - 1) (fieldLE m.list 17 1) b
    else if m.master.src = s.devId then takeReply s [] s.devId b
    else sendPkt s (mkPkt 0x31 3 m.master.src b)

/-- Complete message m: its reply is kept and sent. -/
def reply (s : State) (m : Msg) (st : Nat) (pay : List Byte) : State :=
  let b := replyBytes m st pay
  let s := s.onGrm fun g => { g with
    cur := if g.cur = some m then none else g.cur
    kept := trimKept ((m.master, m.tagNo, b) :: g.kept) }
  sendReply s m b

/-! Service (R487, R488, R494). -/

/-- The opcode is one of R494, R546 and R572. -/
def mgmtDefined (op : Nat) : Bool :=
  (decide (0x80 ≤ op) && decide (op ≤ 0x85)) || (decide (0x88 ≤ op) && decide (op ≤ 0x8E))
    || (decide (0x90 ≤ op) && decide (op ≤ 0x92)) || op == 0x98 || (decide (0xA0 ≤ op) && decide (op ≤ 0xA6))
    || (decide (0xB0 ≤ op) && decide (op ≤ 0xB2))

/-- The opcode is marked "Rein". -/
def needsRein (op : Nat) : Bool :=
  op == 0x8A || op == 0x8B || op == 0x8D || op == 0x8E || (decide (0x90 ≤ op) && decide (op ≤ 0x92))
    || (decide (0xA2 ≤ op) && decide (op ≤ 0xA6)) || op == 0xB0

/-- The kept reply of a message already served. -/
def keptReply (s : State) (m : Msg) : Option (List Byte) :=
  (s.grm.kept.find? fun k => k.1 == m.master && k.2.1 == m.tagNo).map (·.2.2)

/-- The Groom takes a message: its master is loaded; a message served before gets the kept reply. -/
def takeMsg (s : State) (m : Msg) : State :=
  let s := s.onGrm fun g => { g with tag := m.master }
  match keptReply s m with
  | some b => sendReply s m b
  | none => if mgmtDefined m.op then s.onGrm fun g => { g with cur := some m } else reply s m stBadOpcode []

/-- The Groom can serve the message: after a thermal trip only the BMC's, and none of those by which the
health engine acts (R567). -/
def msgServed (s : State) (m : Msg) : Bool :=
  !s.pwr.trip || (m.master.cls == 2 && !(decide (0xA2 ≤ m.op) && decide (m.op < 0xB0)))

/-- Lift the meaning of a management command to its row: it acts on the message being served when
that has the row's opcode. -/
def onMsg (op : Nat) (s : State) (f : Msg → State → State) : Out :=
  .next (s.when (aon s && s.grm.st == 1) fun s =>
    match s.grm.cur with
    | some m =>
      if m.op != op || !msgServed s m then s
      else if needsRein op && !holdsRein s s.grm.tag then reply s m stNotOwner []
      else if !m.ok then reply s m stBadParam []
      else f m s
    | none => s)

/-! The rein (R498 to R502, R516). -/

/-- A fresh lease. -/
def renewLease (s : State) : State :=
  s.onGrm fun g => { g with expiry := s.nowStride + s.fld (groomBlk + 0x10) 0 16 }

/-- The holder becomes `m`; every change raises the epoch. -/
def setHolder (s : State) (m : Master) (key : Nat) (eng : Bool) : State :=
  s.onGrm fun g => { g with
    holder := m, keyIdx := key, engineering := eng
    epoch := if g.holder = m then g.epoch else (g.epoch + 1) % 2 ^ 16 }

/-- Entry k of the owner key table (R500): key, class mask and valid bit. -/
def ownerKey (s : State) (k : Nat) : List Byte := s.grm.ownerKeys.getD k (List.replicate 128 0#8)
def keyValid (e : List Byte) : Bool := bit (fieldLE e 97 1) 0
def keyPermits (e : List Byte) (cls : Nat) : Bool := bit (fieldLE e 96 1) cls

/-- Write entry k to the configuration region of the flash and to the verify engine; measurement 4 is
taken again (R500, R509). -/
def setOwnerKey (s : State) (k : Nat) (e : List Byte) : State :=
  let s := s.onGrm fun g => { g with
    flash := memWriteN g.flash (flashConfig + 128 * k) e
    ownerKeys := listSet g.ownerKeys k e }
  s.onGrm fun g => { g with measurements := listSet g.measurements 3 (Config.sha384 (flashConfigBytes s)) }

def countClaim (s : State) (granted : Bool) : State :=
  let a := groomBlk + 0x24
  let lo := s.fld a 0 16
  let hi := s.fld a 16 16
  s.setReg a (if granted then satAdd 16 lo 1 + 2 ^ 16 * hi else lo + 2 ^ 16 * satAdd 16 hi 1)

end Sys2Proof.Machine
end

