-- ==== Sys2Proof/Machine/Management.lean ====
section
/-! DEFINITION. Management (chapters 14 to 16): messages on every path, the commands of R494, R546 and
R572, the rein, and live firmware update. -/
namespace Sys2Proof.Machine

open Sys2Proof

/-! Arrival (R373, R374, R487). -/

/-- A message joins the Groom's queue of the fabric, or is dropped. -/
def queueVc3 (s : State) (m : Msg) : State :=
  if 64 ≤ s.grm.vc3q.length then s.count32 (trcBlk + 0x2C) 1
  else s.onGrm fun g => { g with vc3q := g.vc3q ++ [m] }

/-- MGMT (R373, R497): a reply goes to the `FM_FORWARD` that awaits it. -/
def execMgmt (port : Nat) (s : State) : Out :=
  onRx 0x31 3 port s (fun _ => true) fun k s =>
    if isReply k.pay then takeReply s [] k.src k.pay
    else queueVc3 s { master := ⟨3, false, k.src, 0⟩, bytes := k.pay, cmd := none, replyAddr := 0, list := [] }

/-- DIRECTED (R374): each device sends the packet on, noting the port it came by in the place of the
list that is no longer needed; the device at the end of the list consumes it; a reply goes back the
same way (assumption log 32). -/
def execDirected (port : Nat) (s : State) : Out :=
  onRx 0x32 3 port s (fun _ => true) fun k s =>
    let list := k.pay.take 16
    let idx := fieldLE k.pay 16 1
    let cnt := fieldLE k.pay 17 1
    let msg := k.pay.drop 32
    if 16 < cnt || cnt < idx then s
    else if isReply msg then
      if idx = 0 then takeReply s list 0 msg else sendDirected s (fieldLE list (idx - 1) 1) list (idx - 1) cnt msg
    else if idx = cnt then
      queueVc3 s { master := ⟨3, true, 0, port⟩, bytes := msg, cmd := none, replyAddr := 0, list := k.pay.take 18 }
    else
      sendDirected s (fieldLE list idx 1) (if idx = 0 then list else patch list (idx - 1) (toLE 1 port)) (idx + 1) cnt msg

/-- MCTP_MESSAGE (R486, R487): the body after the vendor ID. -/
def execMctpMessage (msg : List Byte) (s : State) : Out :=
  .next (s.when (aon s) fun s =>
    if 16 ≤ s.grm.mctpq.length then s.count32 (groomBlk + 0x20) 1
    else s.onGrm fun g => { g with
      mctpq := g.mctpq ++ [{ master := Master.bmc, bytes := msg, cmd := none, replyAddr := 0, list := [] }] })

/-! Service (R487, R488, R507, R513). -/

/-- Take the management packet at the head of the PF admin ring `q` (64, or 192 for a relayed one): it
waits at issue while the Groom does not run, and ends with ABORTED in a recovery that leaves the data
path running. -/
def dequeuePcie (s : State) (q : Nat) : State :=
  match s.headPkt q with
  | none => s
  | some p =>
    if p.op < 0x80 || forSeat s p || !mayIssue s q p then s
    else if s.grm.st = 3 && s.grm.recLive then refuseAtIssue s q p stAborted
    else if s.grm.st != 1 || s.grm.cur.isSome then s
    else
      let msg := p.params.drop 16
      let s := s
      if !allZero (slice p.params 8 8) || fieldLE msg 0 1 != p.op || isReply msg then completeNow s q p stBadParam 0
      else
        let (s, id) := issue s q p []
        takeMsg s { master := Master.pf, bytes := msg, cmd := some id, replyAddr := p.par 0 8, list := [] }

/-- Take the oldest message of a queue. -/
def dequeueFrom (s : State) (l : List Msg) (rest : List Msg → Groom → Groom) : State :=
  match l with
  | m :: t => if s.grm.st = 1 && s.grm.cur.isNone then takeMsg (s.onGrm (rest t)) m else s
  | [] => s

/-- MGMT_DEQUEUE (R487, R488): `path` is 0 for the PF admin ring, 1 for MCTP, 2 for VC3 and 3 for relayed
packets of the lead's PF admin ring. -/
def execMgmtDequeue (path : Nat) (s : State) : Out :=
  .next (s.when (alive s || (aon s && path == 1)) fun s =>
    if path = 0 then dequeuePcie s 64
    else if path = 1 then dequeueFrom s s.grm.mctpq fun t g => { g with mctpq := t }
    else if path = 2 then dequeueFrom s s.grm.vc3q fun t g => { g with vc3q := t }
    else if path = 3 then dequeuePcie s 192
    else s)

/-- MGMT_READ_TIMEOUT (R23, R496): the unit monitor of the target does not answer; that the target is
UNREACHABLE is said by STATUS TIMEOUT with no payload (assumption log 49). -/
def execMgmtReadTimeout (s : State) : Out :=
  .next (s.when (aon s && s.grm.st == 1) fun s =>
    match s.grm.cur with
    | some m =>
      if 0x81 ≤ m.op && m.op ≤ 0x83 && m.ok && m.target.isSome && msgServed s m then reply s m stTimeout [] else s
    | none => s)

/-! Reads and writes (R494 to R496). -/

def words (s : State) (l : List Nat) : List Byte := l.flatMap fun k => toLE 4 (viewReg s k)
def longs (s : State) (l : List Nat) : List Byte := l.flatMap fun k => toLE 8 (viewReg s k)

/-- IDENTIFY (R495). -/
def execIdentify (s : State) : Out :=
  onMsg 0x80 s fun m s =>
    let b := words s ((List.range 8).map (4 * ·))
    reply s m stOk (if m.dazal then b.take 16 else b)

/-- The block, offset and length of a READ or WRITE; none where they are not in order. -/
def regArgs (m : Msg) (most : Nat) : Option (Nat × List (Nat × Nat × Nat) × Nat × Nat) :=
  match m.target with
  | none => none
  | some c =>
    let o := m.arg 0 4
    let n := m.arg 4 4
    if (cpathBlock c).isEmpty || m.args.length < 8 || o % 4 != 0 || n % 4 != 0 || n < 4 || most < n then none
    else some (c, cpathBlock c, o, n)

/-- READ (R494, R496). -/
def execRead (s : State) : Out :=
  onMsg 0x81 s fun m s =>
    match regArgs m 256 with
    | none => reply s m stBadParam []
    | some (c, blk, o, n) =>
      if cpathOff s c then reply s m stTimeout []
      else reply s m stOk ((List.range n).map fun i => ((blockKey blk (o + i)).map (viewByte s)).getD 0#8)

/-- The registers that `n` bytes from offset `o` on cover, in increasing order: first key and length. -/
def coveredRegs (blk : List (Nat × Nat × Nat)) (o n : Nat) : List (Nat × Nat) :=
  ((List.range (n / 4)).filterMap fun i => (blockKey blk (o + 4 * i)).bind spanAt).foldl
    (fun l r => if l.contains r then l else l ++ [r]) []

def ownedReg (key : Nat) : Bool := (regAt key).any fun r => r.1.acc == .ow

/-- A register takes the bytes written to it; bytes that are not covered keep what they hold, and in a
register whose ones act are written as 0. -/
def writeCovered (s : State) (rein : Bool) (blk : List (Nat × Nat × Nat)) (o : Nat) (d : List Byte) (r : Nat × Nat) : State :=
  let acts := (regAt r.1).any fun x => x.1.acc == .w1c || x.1.acc == .w1s || x.1.acc == .wo
  let base := if acts then 0 else viewReg s r.1
  let put := fun (v : Nat) (i : Nat) =>
    match blockKey blk (o + i) with
    | some k => if r.1 ≤ k && k < r.1 + r.2 then putBits v (8 * (k - r.1)) 8 (fieldLE d i 1) else v
    | none => v
  writeReg s rein false r.1 ((List.range d.length).foldl put base)

/-- The bytes written set `CHECK` (R378). -/
def writesCheck (blk : List (Nat × Nat × Nat)) (o : Nat) (d : List Byte) : Bool :=
  (List.range d.length).any fun i => blockKey blk (o + i) == some trcBlk && bit (fieldLE d i 1) 0

/-- WRITE (R30, R488, R496): every register is checked before any is written. -/
def execWrite (s : State) : Out :=
  onMsg 0x82 s fun m s =>
    match regArgs m 64 with
    | none => reply s m stBadParam []
    | some (c, blk, o, n) =>
      let d := slice m.args 8 n
      let rs := coveredRegs blk o n
      let rein := holdsRein s s.grm.tag
      if d.length < n then reply s m stBadParam []
      else if !rein && rs.any fun r => ownedReg r.1 then reply s m stNotOwner []
      else if cpathOff s c then reply s m stTimeout []
      else
        -- a table that its check refuses at once is refused with BAD_PARAMETER
        let s := rs.foldl (fun s r => writeCovered s rein blk o d r) s
        reply s m (if writesCheck blk o d && s.fab.pendSt == 3 then stBadParam else stOk) []

/-! Diagnostics (R493): the stored cell, word or element, its check bytes, and the selected bit. The code
of the check bytes, and what a PE or a vector register holds, are open. -/

def diagOut (s : State) (d : List Byte) (chk bitNo : Nat) : State × List Byte :=
  let (s, c) := freeBytes s chk
  (s, d ++ c ++ toLE 1 (b2n (bit (leNat (d ++ c)) bitNo)))

/-- The storage that L1 and L0 select in the unit at path `c`. -/
def diagRead (s : State) (c l1 row col : Nat) : State × Option (List Byte) :=
  let d := c / 0x2000
  let g := c / 0x200 % 16
  let u := c % 0x200
  let some_ := fun (r : State × List Byte) => (r.1, some r.2)
  if d < 4 && g < 8 && u / 16 < 8 then
    let core := 64 * d + 8 * g + u / 16
    if u % 16 ≤ 2 then (if l1 < 2 && row < 64 && col < 64 then some_ (diagOut s [] 4 0) else (s, none))
    else if u % 16 = 3 then (if l1 < 32 && row < 128 && col < 32 then some_ (diagOut s [] 4 col) else (s, none))
    else if u % 16 = 4 then
      if l1 < 64 && row < 2048 && col < 144 then
        some_ (diagOut s (memReadN s.pad.mem (padWordAddr core row + 16 * l1) 16) 2 col)
      else (s, none)
    else (s, none)
  else if d < 4 && g = 8 && u = 0x20 then
    let word := 32768 * (l1 % 4) + row
    if l1 < 64 && row < 32768 && word < 98304 && col < 288 then
      some_ (diagOut s (memReadN s.blk.mem (2 ^ 26 * d + 65536 * 48 * (l1 / 4) + 32 * word) 32) 4 col)
    else (s, none)
  else if d = 4 && g = 8 && u = 0 then
    if l1 < 4 && row < 1024 && col < 1024 then
      some_ (diagOut s (toLE 4 ((storeRow s l1 row).getD col 0)) 0 0)
    else (s, none)
  else (s, none)

/-- READ_DIAG (R493, R494). -/
def execReadDiag (s : State) : Out :=
  onMsg 0x83 s fun m s =>
    match (if m.dazal then m.target else none) with
    | none => reply s m stBadParam []
    | some c =>
      let p := fun i => fieldLE m.payload i 2
      match diagRead s c (p 6) (p 8) (p 10) with
      | (_, none) => reply s m stBadParam []
      | (s1, some b) => if cpathOff s c then reply s m stTimeout [] else reply s1 m stOk b

/-! Telemetry and accounts (R494, R507). -/

/-- A telemetry record (its layout is assumption log 33). -/
def telemRecord (s : State) : List Byte :=
  padTo (toLE 8 s.nowStride ++ toLE 2 s.pwr.instW ++ toLE 2 s.pwr.avgW
    ++ (List.range 7).flatMap (fun d => toLE 1 (hottest s (dieSensors d))) ++ toLE 1 s.pwr.gait
    ++ (List.range 8).flatMap (fun t => toLE 1 (tempOf s (1024 + t))) ++ (List.range 12).flatMap (fun c => toLE 1 (tempOf s (2048 + c)))
    ++ (List.range 6).flatMap (fun r => toLE 2 (rail s r).mv) ++ (List.range 6).flatMap (fun r => toLE 2 (rail s r).amps)
    ++ toLE 8 (s.reg (powerBlk + 0x30) - s.pwr.telemStretch)) 128

/-- TELEMETRY_SAMPLE (R507). -/
def execTelemetrySample (s : State) : Out :=
  .next <| popDue s .telemetry fun s =>
    let r := telemRecord s
    (s.onGrm fun g => { g with telem := (r :: g.telem).take 64 }).onPwr fun p => { p with telemStretch := s.reg (powerBlk + 0x30) }

/-- TELEMETRY_READ (R494). -/
def execTelemetryRead (s : State) : Out :=
  onMsg 0x84 s fun m s =>
    if m.args.isEmpty || 63 < m.arg 0 1 then reply s m stBadParam []
    else reply s m stOk (s.grm.telem.getD (m.arg 0 1) (List.replicate 128 0#8))

/-- ACCOUNT_READ (R494): the snapshot registers of a counter set (R483). -/
def execAccountRead (s : State) : Out :=
  onMsg 0x85 s fun m s =>
    let a := m.arg 0 1
    if m.args.isEmpty || bit a 7 || (bit a 6 && 16 ≤ a % 64) then reply s m stBadParam []
    else
      let base := if bit a 6 then accBlk + 0x4000 + 0x80 * (a % 64) else accBlk + 0x1000 + 0x80 * (a % 64)
      reply s m stOk ((List.range 128).map fun i => viewByte s (base + i))

/-! The rein (R498 to R503). -/

/-- REIN_NONCE (R498): a fresh nonce, 32 bytes of the hardware generator, replaces the one of the
master's path. -/
def execReinNonce (nonce : List Byte) (s : State) : Out :=
  onMsg 0x88 s fun m s =>
    let n := (padTo nonce 32).take 32
    let s := s.onGrm fun g => { g with
      nonces := g.nonces.filter (fun e => e.path != m.master.cls) ++ [⟨m.master.cls, n, s.nowStride⟩] }
    reply s m stOk n

/-- REIN_CLAIM (R498, R499): the claim enters the verify engine; `cycle` is the cycle in which it entered
the device. It uses up its path's nonce. -/
def execReinClaim (cycle : Nat) (s : State) : Out :=
  onMsg 0x89 s fun m s =>
    let cur := s.grm.nonces.find? fun e => e.path == m.master.cls
    let ok := cur.any fun e => e.val == slice m.args 12 32 && decide (s.nowStride < e.stride + 1000)
    s.onGrm fun g => { g with
      cur := none
      nonces := g.nonces.filter fun e => e.path != m.master.cls
      claims := g.claims ++ [⟨m, cycle, ok, none⟩] }

/-- No owner key is valid (R500). -/
def noOwner (s : State) : Bool := !(s.grm.ownerKeys.any keyValid)

/-- The checks of R499. -/
def claimOk (s : State) (c : ReinClaim) : Bool :=
  let a := c.msg.args
  let cls := c.msg.master.cls
  let key := slice a 48 96
  let e := ownerKey s (fieldLE a 2 1)
  decide (240 ≤ a.length) && fieldLE a 0 1 == cls && decide (fieldLE a 1 1 < 2) && fieldLE a 3 1 == 0
    && fieldLE a 44 4 == 0 && fieldLE a 4 8 == Config.fuseSerial.toNat && c.nonceOk
    && (noOwner s || (decide (fieldLE a 2 1 < 8) && keyValid e && e.take 96 == key && keyPermits e cls))
    && Config.p384Verify key (Config.sha384 (a.take 144)) (slice a 144 96)
    && !(bits Config.fusePart.toNat 12 4 == 1 && cls == 3 && fieldLE a 1 1 == 0)

def claimBefore (a b : ReinClaim) : Bool :=
  decide (a.cycle < b.cycle) || (a.cycle == b.cycle && decide (a.msg.master.cls < b.msg.master.cls))

/-- The first claim in the arbiter's order. -/
def firstClaim (l : List ReinClaim) : Option ReinClaim :=
  match l with
  | [] => none
  | a :: t => some (t.foldl (fun m c => if claimBefore c m then c else m) a)

def dropClaim (s : State) (c : ReinClaim) : State := s.onGrm fun g => { g with claims := g.claims.erase c }

/-- Grant or refuse a claim that has passed (R499, R500). -/
def arbitrate (s : State) (c : ReinClaim) : State :=
  let m := c.msg.master
  let a := c.msg.args
  if holdsRein s m then reply (countClaim (renewLease s) true) c.msg stOk []
  else if s.grm.holder.cls != 0 then reply (countClaim s false) c.msg stNotOwner []
  else
    let key := if noOwner s then 0 else fieldLE a 2 1
    let s := if noOwner s then setOwnerKey s 0 (slice a 48 96 ++ toLE 1 0x0E ++ toLE 1 1 ++ List.replicate 30 0#8) else s
    reply (countClaim (renewLease (setHolder s m key (bit (fieldLE a 1 1) 0))) true) c.msg stOk []

/-- The arbiter decides every claim that no claim still being verified precedes. -/
def decideClaims : Nat → State → State
  | 0, s => s
  | n + 1, s =>
    match firstClaim s.grm.claims with
    | some c => if c.verdict = some true then decideClaims n (arbitrate (dropClaim s c) c) else s
    | none => s

/-- CLAIM_VERIFIED (R499): the verify engine finishes the n-th claim that awaits it. -/
def execClaimVerified (n : Nat) (s : State) : Out :=
  .next (s.when (alive s) fun s =>
    match s.grm.claims[n]? with
    | none => s
    | some c =>
      if c.verdict.isSome then s
      else if claimOk s c then
        let s := s.onGrm fun g => { g with claims := g.claims.set n { c with verdict := some true } }
        decideClaims s.grm.claims.length s
      else
        let s := reply (countClaim (dropClaim s c) false) c.msg stBadParam []
        decideClaims s.grm.claims.length s)

/-- REIN_RENEW (R501). -/
def execReinRenew (s : State) : Out := onMsg 0x8A s fun m s => reply (renewLease s) m stOk []

/-- The master that a PASS_REIN names. -/
def passTarget (t : Nat) : Option Master :=
  let cls := bits t 0 2
  let dir := bit t 2
  if t / 2 ^ 15 % 2 ^ 17 != 0 || cls = 0 || (cls != 3 && bits t 2 13 != 0) || (dir && bits t 8 7 != 0) then none
  else if cls = 1 then some Master.pf
  else if cls = 2 then some Master.bmc
  else if dir then some ⟨3, true, 0, bits t 3 5⟩
  else some ⟨3, false, bits t 3 12, 0⟩

/-- PASS_REIN (R502). -/
def execPassRein (s : State) : Out :=
  onMsg 0x8B s fun m s =>
    match (if m.args.length < 4 then none else passTarget (m.arg 0 4)) with
    | none => reply s m stBadParam []
    | some t => if t = s.grm.holder then reply s m stBadParam [] else reply (renewLease (setHolder s t 0 false)) m stOk []

/-- REIN_STATUS (R494). -/
def execReinStatus (s : State) : Out :=
  onMsg 0x8C s fun m s => reply s m stOk (longs s [groomBlk, groomBlk + 8])

/-- REIN_LEASE_EXPIRY (R501): the rein opens. -/
def execReinLeaseExpiry (s : State) : Out :=
  .next <| popDue s .reinLease fun s =>
    if s.grm.holder.cls != 0 && s.grm.expiry ≤ s.nowStride then setHolder s Master.none 0 false else s

/-! Identity and keys (R375, R500). -/

/-- SET_ID (R375). -/
def execSetId (s : State) : Out :=
  onMsg 0x8D s fun m s =>
    let v := m.arg 0 4
    if m.args.length < 4 || 4096 ≤ v || s.boot.devIdValid || (v % 64 == 0) != s.host.linkUp then reply s m stBadParam []
    else reply (reparent (s.onBoot fun b => { b with devId := v, devIdValid := true })) m stOk []

/-- OWNER_KEYS_SET (R500): the index, three reserved bytes and the entry. -/
def execOwnerKeysSet (s : State) : Out :=
  onMsg 0x8E s fun m s =>
    let e := slice m.args 4 128
    if m.args.length < 132 || 8 ≤ m.arg 0 4 || fieldLE e 96 1 % 2 != 0 || 16 ≤ fieldLE e 96 1 || 2 ≤ fieldLE e 97 1
        || !allZero (slice e 98 30) then reply s m stBadParam []
    else reply (setOwnerKey s (m.arg 0 4) e) m stOk []

/-! Live firmware update (R512 to R514). -/

/-- FW_STAGE (R494). -/
def execFwStage (s : State) : Out :=
  onMsg 0x90 s fun m s =>
    let d := m.args.drop 4
    if m.args.length < 4 || 12582912 < m.arg 0 4 + d.length then reply s m stBadParam []
    else reply (s.onGrm fun g => { g with staging := memWriteN g.staging (m.arg 0 4) d }) m stOk []

/-- The Groom restarts; the data path is untouched (R513). -/
def groomRestart (s : State) : State :=
  (s.count32 (groomBlk + 0x1C) 1).onGrm fun g => { g with st := 2, cur := none }

/-- GROOM_RESTART (R513): the reply is sent first. -/
def execGroomRestart (s : State) : Out :=
  onMsg 0x92 s fun m s => groomRestart (reply s m stOk [])

/-- FW_ACTIVATE (R512): the staged image is checked; its flash write begins. -/
def execFwActivate (s : State) : Out :=
  onMsg 0x91 s fun m s =>
    let img := s.grm.staging.filter (·.1 < flashConfig)
    if m.args.length < 4 || 4 ≤ m.arg 0 4 || imageCheck img s.grm.vendorHash s.grm.svnFloor true ≠ 0 then
      reply s m stBadParam []
    else s.onGrm fun g => { g with cur := none, activating := g.activating ++ [(m, m.arg 0 4, img)] }

/-- The image becomes the flash's firmware region (R504). -/
def flashImage (s : State) (img : Tbl Byte) : State :=
  s.onGrm fun g => { g with flash := img.filter (·.1 < flashConfig) ++ g.flash.filter fun c => decide (flashConfig ≤ c.1) }

/-- FW_FLASH_WRITE_DONE (R512): the command completes; COMMIT_SVN raises the floor, RESTART restarts
the Groom. -/
def execFwFlashWriteDone (s : State) : Out :=
  .next (s.when (aon s && s.grm.st == 1) fun s =>
    match s.grm.activating with
    | [] => s
    | (m, flags, img) :: t =>
      let s := flashImage (s.onGrm fun g => { g with activating := t }) img
      let s := reply s m stOk []
      let s := if bit flags 1 then s.onGrm fun g => { g with svnFloor := max g.svnFloor (imageSvn img) } else s
      if bit flags 0 then groomRestart s else s)

/-- The feature level that the image of the flash gives takes the place of the old one; a change is told
to every neighbour (R514). -/
def updateLevel (s : State) : State :=
  let old := s.boot.featureLevel
  let s := loadImage s
  if s.boot.featureLevel = old then s
  else (List.range 24).foldl (fun s p =>
    if (portOf s p).st = 2 || (portOf s p).st = 3 || (portOf s p).st = 4 then relevel (sendHello s p) p else s) s

/-- GROOM_RESTART_DONE (R513, R514): the boot ROM has checked the flash image, which it read without
error where `ok` holds; the new firmware runs, or recovery begins for the Groom alone. -/
def execGroomRestartDone (ok : Bool) (s : State) : Out :=
  .next (s.when (aon s && s.grm.st == 2) fun s =>
    let cause := imageCheck s.grm.flash s.grm.vendorHash s.grm.svnFloor ok
    if cause = 0 then reapplyFences (updateLevel (s.onGrm fun g => { g with st := 1, recCause := 0, recError := false }))
    else s.onGrm fun g => { g with st := 3, recCause := cause, recLive := true })

/-! Forwarding (R497). -/

/-- FM_FORWARD (R497): only from the PF. -/
def execFmForward (s : State) : Out :=
  onMsg 0x98 s fun m s =>
    let dest := m.arg 0 2
    let cnt := m.arg 2 1
    let list := slice m.args 3 cnt
    let msg := m.args.drop (3 + cnt)
    if m.master.cls != 1 || m.args.length < 3 + cnt + 16 || 4096 ≤ dest || 16 < cnt || isReply msg then reply s m stBadParam []
    else
      let wait := fun (s : State) => s.onGrm fun g => { g with cur := none, forwards := g.forwards ++ [(m, fieldLE msg 2 2)] }
      if cnt ≠ 0 then sendDirected (wait s) (fieldLE list 0 1) list 1 cnt msg
      else if dest = s.devId then
        queueVc3 (wait s) { master := ⟨3, false, s.devId, 0⟩, bytes := msg, cmd := none, replyAddr := 0, list := [] }
      else
        match originate (wait s) (mkPkt 0x31 3 dest msg) with
        | (true, s) => s
        | (false, _) => reply s m stAborted []

/-! Health commands (R546). -/

/-- HEALTH_LOG_READ. -/
def execHealthLogRead (s : State) : Out :=
  onMsg 0xA0 s fun m s =>
    let n := m.arg 4 2
    if m.args.length < 7 || n = 0 || m.limit / 32 < n || 1 < m.arg 6 1 then reply s m stBadParam []
    else
      let l := if m.arg 6 1 = 1 then s.hlt.flashLog else s.hlt.log
      reply s m stOk (((l.reverse.filter fun e => decide (m.arg 0 4 ≤ e.seq)).take n).flatMap LogE.bytes)

/-- HEALTH_STATUS. -/
def execHealthStatus (s : State) : Out :=
  onMsg 0xA1 s fun m s =>
    reply s m stOk (words s [healthBlk + 4] ++ longs s [healthBlk + 0x30, healthBlk + 0x40] ++ words s [healthBlk + 0x1C])

/-- Domain codes that contain the unit at a path, smallest first (R526, R528). -/
def domainChain (c : Nat) : List Nat :=
  let d := c / 0x2000
  let g := c / 0x200 % 16
  let u := c % 0x200
  if c = groomCpath then [6]
  else if d < 4 && g < 8 then (if u < 0x80 then [0, 1, 2, 6] else [1, 2, 6])
  else if d < 4 then [2, 6]
  else if d = 4 then [3, 6]
  else if g = 8 && (u < 12 || 0x40 ≤ u) then [4, 5, 6]
  else [6]

/-- Domain and control path of a DUMP_NOW or RESET_DOMAIN, where they are in order. -/
def domArgs (m : Msg) : Option (Nat × Nat) :=
  let dom := m.arg 0 1
  let c := m.arg 1 2
  if m.args.length < 3 || !cpathOk c || !(domainChain c).contains dom then none else some (dom, c)

/-- DUMP_NOW. -/
def execDumpNow (s : State) : Out :=
  onMsg 0xA2 s fun m s =>
    match domArgs m with
    | none => reply s m stBadParam []
    | some (dom, c) =>
      let s := if dumpOn s then queueDump s 3 dom c 0 s.nowStride none (domainCtxs s dom (domInst dom c)) else s
      reply s m stOk []

/-- RESET_DOMAIN: a recovery of the domain from the abort step, or the release of a held domain. -/
def execResetDomain (s : State) : Out :=
  onMsg 0xA3 s fun m s =>
    match domArgs m with
    | none => reply s m stBadParam []
    | some (dom, c) =>
      let i := domInst dom c
      match s.hlt.recovs.find? fun r => domContains r.dom r.inst dom i with
      | some r =>
        let s := if r.phase = 7 && r.dom == dom then
            ((domMems r.dom r.inst).filter fun u => (memUnits s).contains u).foldl requestSelfRefresh
              (setRecov s { r with phase := 5 })
          else s
        reply s m stOk []
      | none => reply (kickEngines (beginRecovery s dom c 3 [])) m stOk []

/-- The fenceable unit that a control path names (R543). -/
def fenceTarget (c : Nat) : Option Nat :=
  let d := c / 0x2000
  let g := c / 0x200 % 16
  let u := c % 0x200
  if !cpathOk c || c = groomCpath then none
  else if d < 4 && g < 8 then some (if u < 0x80 then 64 * d + 8 * g + u / 16 else fuCluster (8 * d + g))
  else if g = 15 then (if d < 4 then some (fuDie d) else none)
  else if d < 4 then
    if u = 0 || u = 0x30 then some (fuDie d) else if 0x10 ≤ u && u < 0x20 then some (fuGather d (u - 0x10))
    else if u = 0x28 || u = 0x29 then some (fuStack (2 * d + (u - 0x28))) else none
  else if d = 4 then
    if u = 0 then some fuUpdate else if u < 0x1C then some (fuChannel (u - 0x10)) else none
  else if u < 12 then some (fuPort (12 * (d - 5) + u))
  else if 0x40 ≤ u then some (fuPort (12 * (d - 5) + (u - 0x40)))
  else none

/-- FENCE_SET (R543 to R545). -/
def execFenceSet (s : State) : Out :=
  onMsg 0xA4 s fun m s =>
    match (if m.args.length < 3 then none else fenceTarget (m.arg 0 2)) with
    | none => reply s m stBadParam []
    | some u => reply (kickEngines (fenceTo (bit (m.arg 2 1) 0) s u)) m stOk []

/-- JOB_ABORT (R530). -/
def execJobAbort (s : State) : Out :=
  onMsg 0xA5 s fun m s =>
    if m.args.length < 2 then reply s m stBadParam []
    else reply (kickEngines (originateAbort s (m.arg 0 2) 4 0xFFFF s.nowStride)) m stOk []

/-- LOG_CLEAR: the flash log, with the fences recorded in it. -/
def execLogClear (s : State) : Out :=
  onMsg 0xA6 s fun m s => reply (s.onHlt fun h => { h with flashLog := [], flashFences := [] }) m stOk []

/-! Power commands (R572). -/

/-- A Halt entry or a Halt exit is in progress. -/
def haltChanging (s : State) : Bool :=
  (s.pwr.phase == 2 && s.pwr.target == 4) || (s.pwr.gait == 4 && s.pwr.phase != 0)

/-- GAIT_SET (R553, R571). -/
def execGaitSet (s : State) : Out :=
  onMsg 0xB0 s fun m s =>
    let t := m.arg 0 1
    if m.args.length < 16 || !allZero (slice m.args 1 7) || 4 < t || (t == 4 && s.sch.ctxs.any (·.2.live)) || haltChanging s then
      reply s m stBadParam []
    else
      let s := s.onPwr fun p => { p with pending := some (t, m.arg 8 8) }
      reply (if t < 3 then wakeEvent s 5 else s) m stOk []

/-- POWER_STATUS. -/
def execPowerStatus (s : State) : Out :=
  onMsg 0xB1 s fun m s => reply s m stOk (words s ([0x4, 0x10, 0x20, 0x24, 0x28, 0x3C].map (powerBlk + ·)))

/-- RAIL_READ. -/
def execRailRead (s : State) : Out :=
  onMsg 0xB2 s fun m s =>
    reply s m stOk (longs s ((List.range 6).map fun r => powerBlk + 0x100 + 8 * r)
      ++ words s ((List.range 6).map fun r => powerBlk + 0x140 + 4 * r))

end Sys2Proof.Machine
end

