-- ==== Sys2Proof/Machine/Memory.lean ====
section
/-! DEFINITION. Refresh, calibration, self-refresh, patrol scrub and training of the memory tiers
(R262, R267, R274 to R279, R590). Units are numbered 0–7 for the stacks and 8–19 for the DDR5
channels. -/
namespace Sys2Proof.Machine

open Sys2Proof

/-- HBM_REFRESH (R262): a refresh of pseudo-channel `pc` (64 × stack + number) begins (n ≠ 0), or
ends (n = 0). Requests at the target wait there meanwhile. -/
def execHbmRefresh (pc n : Nat) (s : State) : Out :=
  withUnit (decide (pc < 512)) <|
    s.when (alive s && ((srUnit s (pc / 64)).st != 2 || n == 0)) fun s =>
      s.onMem fun m => { m with
        refreshing := if n = 0 then m.refreshing.filter (· != pc) else insertAsc pc m.refreshing }

def unitBlk (u : Nat) : Nat := if u < 8 then hbmBlk (u / 2) else ddrBlk
def calFailBit (u : Nat) : Nat := if u < 8 then 3 else 4

/-- RECALIBRATION (R279): a failure sets CAL_FAIL, is logged, and marks the unit for retraining. -/
def execRecalibration (unit : Nat) (ok : Bool) (s : State) : Out :=
  withUnit (decide (unit < 20)) <|
    s.when (alive s && (memUnits s).contains unit && (srUnit s unit).st == 0 && !ok) fun s =>
      let s := s.latch (unitBlk unit + 0x8) (calFailBit unit)
      let s := logEvent s clsLink (calFailBit unit) (unitCpath unit) none unit
      setSr s unit fun x => { x with retrain := true }

/-- The unit has been idle for SR_IDLE_MS; only stacks have the field (R277, R281). -/
def idleLongEnough (s : State) (u : Nat) : Bool :=
  let ms := s.fld (hbmBlk (u / 2)) 24 8
  decide (u < 8) && ms != 0 && decide ((srUnit s u).lastUse + 1000 * ms ≤ s.nowUs)



/-- SELF_REFRESH_REQUEST (R277 step 1). -/
def execSelfRefreshRequest (unit : Nat) (s : State) : Out :=
  withUnit (decide (unit < 20)) <|
    s.when (alive s && (memUnits s).contains unit && (gaitWantsSr s unit || idleLongEnough s unit)) fun s =>
      requestSelfRefresh s unit

/-- Requests admitted at the unit's targets. -/
def unitBusy (s : State) (u : Nat) : Bool :=
  s.mov.flight.any fun r => r.target != noTarget && targetUnit r.target == u

/-- SELF_REFRESH_ENTERED (R277 steps 2 and 3, R278): the admitted requests have drained. A request
that arrived meanwhile makes the unit exit at once. -/
def execSelfRefreshEntered (unit : Nat) (s : State) : Out :=
  withUnit (decide (unit < 20)) <|
    s.when (alive s && (srUnit s unit).st == 1 && !unitBusy s unit) fun s =>
      let s := setSr s unit fun x => { x with
        st := if x.exitAfter then 3 else 2
        since := s.nowUs
        exitAfter := false }
      haltProceed (s.onMem fun m => { m with refreshing := m.refreshing.filter (· / 64 != unit) })

/-- SELF_REFRESH_ABANDON (R277 step 4): 100 µs passed and requests are still in flight. -/
def execSelfRefreshAbandon (unit : Nat) (s : State) : Out :=
  withUnit (decide (unit < 20)) <|
    s.when (alive s && (srUnit s unit).st == 1 && unitBusy s unit) fun s =>
      let s := setSr s unit fun x => { x with
        st := 0
        since := s.nowUs
        exitAfter := false }
      s.count32 (diePowerBlk (unitDie unit) + 0x8) 1

/-- SELF_REFRESH_EXIT_READY (R278). -/
def execSelfRefreshExitReady (unit : Nat) (s : State) : Out :=
  withUnit (decide (unit < 20)) <|
    s.when (alive s && (srUnit s unit).st == 3 && !resetting s (fuDomain (unitFence unit)).1 (fuDomain (unitFence unit)).2) fun s =>
      setSr s unit fun x => { x with
        st := 0
        since := s.nowUs
        lastUse := s.nowUs }

/-- Device physical address of a word of a unit. -/
def unitWordAddr (u w : Nat) : Nat :=
  if u < 8 then u * 2 ^ 36 + 32 * w else ddrBase + (u - 8) * 2 ^ 38 + 32 * w

/-- MEM_PATROL_READ (R274, R276): the scrub reads word `word` of the unit and finds nothing (0), one
symbol in error (1), an uncorrectable word (2), or a failed address check (3). A word marked
uncorrectable earlier reads so again. No read is made while a request waits for the target. -/
def execMemPatrolRead (unit word finding : Nat) (s : State) : Out :=
  withUnit (decide (unit < 20)) <|
    let a := unitWordAddr unit word
    s.when (alive s && framePopulated s a && (srUnit s unit).st == 0 && bit (s.reg (unitBlk unit)) 0
        && decide (finding < (if unit < 8 then 3 else 4))
        && addrUnit a == unit && !(s.mov.waiting.any fun r => (reqPlace s r).2.2 == targetOf s a)) fun s =>
      if finding = 3 then memUe (s.onMem fun m => { m with ue := insertAsc (a / 32) m.ue }) a 2 true none
      else if wordUe s a || finding = 2 then
        memUe (s.onMem fun m => { m with ue := insertAsc (a / 32) m.ue }) a 0 true none
      else if finding = 1 || s.mem.sym.contains (a / 32) then
        memCe (s.onMem fun m => { m with sym := m.sym.erase (a / 32) }) a true none
      else s

/-! Training at start-up (R267, R590, R592). -/

/-- The configuration of a DIMM as its SPD gives it: the fields of `DDR_DIMM_c` (R284), and in bits
[31:29] the highest rate it supports; 0 for an empty channel. It is within the limits of R267. -/
def dimmOk (d : Nat) : Bool :=
  bits d 3 2 != 3 && decide (64 ≤ bits d 8 9) && decide (bits d 8 9 ≤ 256)

/-- The rate all channels run at: the highest that the straps and every DIMM allow. -/
def ddrSpeed (s : State) (dimms : List Nat) : Nat :=
  dimms.foldl (fun v d => if d != 0 && dimmOk d then min v (bits d 29 3) else v) (min 4 s.boot.straps.ddrSpeed)

/-- A third failed training counts one event, and the unit is fenced (R539, R543, R592). -/
def trainFail (s : State) (u : Nat) : State :=
  let s := fenceEvent s u
  let s := if fenced s u then s else setFence s u
  s.onBoot fun b => { b with fencedAtStart := true }

/-- A channel finishes training (or is left unused, or fails its third training). -/
def trainChannel (dimms : List Nat) (failed : Nat) (s : State) (c : Nat) : State :=
  let d := dimms.getD c 0
  if d = 0 then s
  else if !dimmOk d then logEvent s clsConfig 1 (unitCpath (8 + c)) none d
  else if bit failed c then
    logEvent (trainFail s (fuChannel c)) clsConfig 2 (unitCpath (8 + c)) none d
  else
    (s.setReg (dimmReg c) (1 + 2 * bits d 1 4 + 2 ^ 8 * bits d 8 9)).onBoot fun b => { b with
      population := setBit b.population c true }

/-- A stack finishes training, or fails its third attempt and is fenced. -/
def trainStack (stackMask : Nat) (s : State) (t : Nat) : State :=
  if bit stackMask t then s.onBoot fun b => { b with population := setBit b.population (12 + t) true }
  else trainFail s (fuStack t)

/-- A unit already fenced, by a fence that the firmware reapplied, stays out of the population. -/
def trainAllMemory (stackMask : Nat) (dimms : List Nat) (failed : Nat) (s : State) : State :=
  let s := ((List.range 8).filter fun t => !fenced s (fuStack t)).foldl (trainStack stackMask) s
  let s := ((List.range 12).filter fun c => !fenced s (fuChannel c)).foldl (trainChannel dimms failed) s
  s.setReg (ddrBlk + 0x4) (ddrSpeed s dimms * 2 ^ 24)

/-- A stack or channel of a domain that is being reset failed its third training: the domain returns without
it (R539). -/
def retrainFail (s : State) (u : Nat) : State :=
  let f := if u < 8 then fuStack u else fuChannel (u - 8)
  if !(resetting s (fuDomain f).1 (fuDomain f).2) || fenced s f then s
  else (fenceEvent s f).onHlt fun h => { h with fencePend := insertAsc f h.fencePend }

/-- MEM_TRAINING_DONE (R539, R590): every stack and channel has trained or been fenced: `stackMask` bit t:
stack t trained; `dimms`: what each channel holds; `failed` bit c: channel c failed its third training. After
the start-up, the training of the domains that are being reset. -/
def execMemTrainingDone (stackMask : Nat) (dimms : List Nat) (failed : Nat) (s : State) : Out :=
  .next (s.when (alive s && s.boot.imageOk) fun s =>
    if s.boot.memTrained then
      ((List.range 20).filter fun u => if u < 8 then !bit stackMask u else bit failed (u - 8)).foldl retrainFail s
    else (trainAllMemory stackMask dimms failed s).onBoot fun b => { b with memTrained := true })

end Sys2Proof.Machine
end

