-- ==== Sys2Proof/Machine/Trust.lean ====
section
/-! DEFINITION. Attestation by SPDM over DOE and MCTP, PLDM over MCTP (R509 to R511; the message layouts
are those of DMTF's DSP0274, DSP0240, DSP0248 and DSP0267, assumption log 34), and the alert pins. -/
namespace Sys2Proof.Machine

open Sys2Proof

/-! SPDM (R509, R510). `path`: 0 DOE, 1 MCTP. -/

def Spdm.empty : Spdm := ⟨0, [], [], []⟩
def spdmOf (s : State) (path : Nat) : Spdm := Tbl.get Spdm.empty s.grm.spdm (path % 2)
def setSpdm (s : State) (path : Nat) (x : Spdm) : State :=
  s.onGrm fun g => { g with spdm := Tbl.insert g.spdm (path % 2) x }

/-- Send an SPDM response by the path of its request. -/
def spdmSend (s : State) (path : Nat) (b : List Byte) : State :=
  if path % 2 = 0 then s.onHost fun h => { h with doeOut := b } else s.onGrm fun g => { g with spdmOut := b }

def spdmHdr (code p1 p2 : Nat) : List Byte := toLE 1 0x13 ++ toLE 1 code ++ toLE 1 p1 ++ toLE 1 p2
def spdmError (s : State) (path code : Nat) : State := spdmSend s path (spdmHdr 0x7F code 0)
def erInvalid : Nat := 0x01
def erBusy : Nat := 0x03
def erUnexpected : Nat := 0x04

/-- Lift the meaning of an SPDM request: with the Groom not RUNNING the answer is ERROR, Busy; a request
that is malformed, or that comes before the steps it needs, gets an error. -/
def onSpdm (code need len path : Nat) (req : List Byte) (s : State) (f : Spdm → State → State) : Out :=
  .next (s.when (aon s && (path % 2 == 1 || hostUp s)) fun s =>
    let x := spdmOf s path
    if s.grm.st != 1 then spdmError s path erBusy
    else if req.length < len || fieldLE req 1 1 != code then spdmError s path erInvalid
    else if x.st < need then spdmError s path erUnexpected
    else f x s)

/-- Answer a request of the negotiation. -/
def spdmVca (s : State) (path : Nat) (x : Spdm) (st : Nat) (req b : List Byte) : State :=
  spdmSend (setSpdm s path { x with st := st, vca := x.vca ++ req ++ b }) path b

/-- GET_VERSION: version 1.3; the exchange begins anew. -/
def execGetVersion (path : Nat) (req : List Byte) (s : State) : Out :=
  onSpdm 0x84 0 4 path req s fun _ s =>
    spdmVca s path Spdm.empty 1 req (toLE 1 0x10 ++ toLE 1 0x04 ++ toLE 2 0 ++ toLE 1 0 ++ toLE 1 1 ++ toLE 2 0x1300)

/-- GET_CAPABILITIES: certificates, challenges and signed measurements; the response time and the buffer
sizes are open. -/
def execGetCapabilities (path : Nat) (req : List Byte) (s : State) : Out :=
  onSpdm 0xE1 1 4 path req s fun x s =>
    let (s, d) := freeBytes s 9
    spdmVca s path x 2 req (spdmHdr 0x61 0 0 ++ toLE 1 0 ++ d.take 1 ++ toLE 2 0 ++ toLE 4 0x16 ++ d.drop 1)

/-- NEGOTIATE_ALGORITHMS: ECDSA P-384 and SHA-384. -/
def execNegotiateAlgorithms (path : Nat) (req : List Byte) (s : State) : Out :=
  onSpdm 0xE3 2 4 path req s fun x s =>
    spdmVca s path x 3 req (spdmHdr 0x63 0 0 ++ toLE 2 36 ++ toLE 1 1 ++ toLE 1 0 ++ toLE 4 4 ++ toLE 4 0x80 ++ toLE 4 2
      ++ List.replicate 12 0#8 ++ toLE 4 0)

/-- The certificate chain of slot 0. -/
def slotChain (s : State) : List Byte := Config.certChain (memReadN s.grm.flash flashCerts 65536) s.grm.measurements

def be48 (d : BitVec 384) : List Byte := (toLE 48 d.toNat).reverse

/-- Answer a request about certificates. -/
def spdmCert (s : State) (path : Nat) (x : Spdm) (req b : List Byte) : State :=
  spdmSend (setSpdm s path { x with msgB := x.msgB ++ req ++ b }) path b

/-- GET_DIGESTS: slot 0 only. -/
def execGetDigests (path : Nat) (req : List Byte) (s : State) : Out :=
  onSpdm 0x81 3 4 path req s fun x s =>
    spdmCert s path x req (spdmHdr 0x01 0 1 ++ be48 (Config.sha384 (slotChain s)))

/-- GET_CERTIFICATE: a part of the chain of slot 0. -/
def execGetCertificate (path : Nat) (req : List Byte) (s : State) : Out :=
  onSpdm 0x82 3 8 path req s fun x s =>
    let c := slotChain s
    let o := fieldLE req 4 2
    let d := slice c o (fieldLE req 6 2)
    if fieldLE req 2 1 % 16 != 0 || c.length < o then spdmError s path erInvalid
    else spdmCert s path x req (spdmHdr 0x02 0 0 ++ toLE 2 d.length ++ toLE 2 (c.length - o - d.length) ++ d)

/-- A signature by the alias key. -/
def aliasSign (t : List Byte) : List Byte := Config.p384Sign 1 (Config.sha384 t)

/-- One measurement block of R509. -/
def measBlock (s : State) (i : Nat) : List Byte :=
  toLE 1 i ++ toLE 1 1 ++ toLE 2 51 ++ toLE 1 ([0, 0, 1, 1, 3, 2].getD i 0) ++ toLE 2 48
    ++ be48 (s.grm.measurements.getD (i - 1) 0)

/-- The digest of all measurements that a challenge may ask for; 1 asks for the boot ROM's alone. -/
def measSummary (s : State) (kind : Nat) : List Byte :=
  if kind = 0 then []
  else be48 (Config.sha384 ((if kind = 1 then [1] else [1, 2, 3, 4, 5]).flatMap (measBlock s)))

/-- CHALLENGE: signed with the alias key; the nonce is open. -/
def execChallenge (path : Nat) (req : List Byte) (s : State) : Out :=
  onSpdm 0x83 3 36 path req s fun x s =>
    if fieldLE req 2 1 != 0 then spdmError s path erInvalid
    else
      let (s, n) := freeBytes s 32
      let b := spdmHdr 0x03 0 1 ++ be48 (Config.sha384 (slotChain s)) ++ n ++ measSummary s (fieldLE req 3 1) ++ toLE 2 0
        ++ slice req 36 8
      let b := b ++ aliasSign (x.vca ++ x.msgB ++ req ++ b)
      spdmSend (setSpdm s path { x with msgB := [] }) path b

/-- GET_MEASUREMENTS: the number of indices, one block, or all; signed where that is asked for. -/
def execGetMeasurements (path : Nat) (req : List Byte) (s : State) : Out :=
  onSpdm 0xE0 3 4 path req s fun x s =>
    let i := fieldLE req 3 1
    let sign := bit (fieldLE req 2 1) 0
    let is := if i = 0 then [] else if i = 255 then [1, 2, 3, 4, 5] else [i]
    if 5 < i && i != 255 || (sign && req.length < 37) || (sign && fieldLE req 36 1 % 16 != 0) then spdmError s path erInvalid
    else
      let r := is.flatMap (measBlock s)
      let (s, n) := freeBytes s 32
      let b := spdmHdr 0x60 (if i = 0 then 5 else 0) 0 ++ toLE 1 is.length ++ toLE 3 r.length ++ r ++ n ++ toLE 2 0
        ++ (if sign then slice req 37 8 else slice req 4 8)
      let t := x.msgM ++ req ++ b
      if sign then spdmSend (setSpdm s path { x with msgM := [] }) path (b ++ aliasSign (x.vca ++ t))
      else spdmSend (setSpdm s path { x with msgM := t }) path b

/-! PLDM (R511): a request is an instance, a type, a command and data. -/

def pldmOk : Nat := 0x00
def pldmErr : Nat := 0x01
def pldmBadLen : Nat := 0x03

/-- Answer a PLDM request. -/
def pldmSend (s : State) (req : List Byte) (cc : Nat) (d : List Byte) : State :=
  s.onGrm fun g => { g with pldmOut := toLE 1 (fieldLE req 0 1 % 32) ++ slice req 1 2 ++ toLE 1 cc ++ d }

/-- Lift the meaning of a PLDM request: the Groom's firmware answers; in recovery the boot ROM answers
those of type 5 (R507). -/
def onPldm (type cmd len : Nat) (req : List Byte) (s : State) (f : List Byte → State → State) : Out :=
  .next (s.when (aon s && (s.grm.st == 1 || (s.grm.st == 3 && type == 5)) && fieldLE req 1 1 % 64 == type
      && fieldLE req 2 1 == cmd) fun s =>
    if req.length < 3 + len then pldmSend s req pldmBadLen [] else f (req.drop 3) s)

/-- The answer holds `n` open bytes. -/
def pldmOpen (s : State) (req : List Byte) (n : Nat) : State :=
  let (s, d) := freeBytes s n
  pldmSend s req pldmOk d

/-- GetTID: the identifier is open. -/
def execGetTid (_path : Nat) (req : List Byte) (s : State) : Out :=
  onPldm 0 0x02 0 req s fun _ s => pldmOpen s req 1

/-- GetPLDMVersion: of types 0, 2 and 5; the versions and their check are open. -/
def execGetPldmVersion (_path : Nat) (req : List Byte) (s : State) : Out :=
  onPldm 0 0x03 6 req s fun a s =>
    let t := fieldLE a 5 1
    if t = 0 || t = 2 || t = 5 then
      let (s, d) := freeBytes s 8
      pldmSend s req pldmOk (toLE 4 0 ++ toLE 1 5 ++ d)
    else pldmSend s req 0x83 []

/-- GetPLDMTypes: base, platform monitoring and firmware update. -/
def execGetPldmTypes (_path : Nat) (req : List Byte) (s : State) : Out :=
  onPldm 0 0x04 0 req s fun _ s => pldmSend s req pldmOk (toLE 8 0x25)

/-- The commands of a type, as a mask. -/
def pldmCommands (t : Nat) : Nat :=
  let mask := fun (l : List Nat) => sumNat (l.map (2 ^ ·))
  if t = 0 then mask [2, 3, 4, 5]
  else if t = 2 then mask [0x11, 0x12, 0x50, 0x51]
  else mask [0x10, 0x13, 0x14, 0x1A, 0x1B, 0x1D]

/-- GetPLDMCommands. -/
def execGetPldmCommands (_path : Nat) (req : List Byte) (s : State) : Out :=
  onPldm 0 0x05 5 req s fun a s =>
    let t := fieldLE a 0 1
    if t = 0 || t = 2 || t = 5 then pldmSend s req pldmOk (toLE 32 (pldmCommands t)) else pldmSend s req 0x83 []

/-- GetPDRRepositoryInfo: the repository's dates and sizes are open. -/
def execGetPdrRepositoryInfo (_path : Nat) (req : List Byte) (s : State) : Out :=
  onPldm 2 0x50 0 req s fun _ s => pldmOpen s req 40

/-- GetPDR: the records are open. -/
def execGetPdr (_path : Nat) (req : List Byte) (s : State) : Out :=
  onPldm 2 0x51 13 req s fun a s =>
    let (s, d) := freeBytes s (9 + fieldLE a 9 2)
    pldmSend s req pldmOk (d.take 9 ++ toLE 2 (fieldLE a 9 2) ++ d.drop 9)

/-- Sensor `i` in the latest record: 0 the package power, 1 to 7 the dies, 8 to 15 the stacks, 16 to 27 the
DIMMs, 28 to 33 the rails' mV, 34 to 39 their A (assumption log 34). -/
def sensorField (i : Nat) : Option (Nat × Nat) :=
  if i = 0 then some (8, 2)
  else if i < 8 then some (12 + (i - 1), 1)
  else if i < 16 then some (20 + (i - 8), 1)
  else if i < 28 then some (28 + (i - 16), 1)
  else if i < 40 then some (40 + 2 * (i - 28), 2)
  else none

/-- GetSensorReading: from the latest telemetry record (R507). -/
def execGetSensorReading (_path : Nat) (req : List Byte) (s : State) : Out :=
  onPldm 2 0x11 3 req s fun a s =>
    match sensorField (fieldLE a 0 2) with
    | none => pldmSend s req 0x80 []
    | some (o, n) =>
      let v := fieldLE (s.grm.telem.headD []) o n
      pldmSend s req pldmOk (toLE 1 2 ++ toLE 1 0 ++ toLE 1 0 ++ toLE 1 1 ++ toLE 1 1 ++ toLE 1 1 ++ toLE 2 v)

/-- Upper warning, critical and fatal thresholds and the lower ones of a sensor. -/
def sensorLimits (s : State) (i : Nat) : List Nat :=
  if i = 0 then [sustainedW s, peakW s, Config.fuseCeilingW, 0, 0, 0]
  else if i < 8 then [warnC s, throttleC s, Config.fuseTripC, 0, 0, 0]
  else if i < 16 then [warnC s, hbmThrottleC s, Config.fuseStackTripC, 0, 0, 0]
  else if i < 28 then [warnC s, 0, 0, 0, 0, 0]
  else if i < 34 then
    let w := s.reg (powerBlk + 0x140 + 4 * (i - 28))
    [0, 0, bits w 16 12, 0, 0, bits w 0 12]
  else [0, 0, 0, 0, 0, 0]

/-- GetSensorThresholds. -/
def execGetSensorThresholds (_path : Nat) (req : List Byte) (s : State) : Out :=
  onPldm 2 0x12 2 req s fun a s =>
    let i := fieldLE a 0 2
    if (sensorField i).isNone then pldmSend s req 0x80 []
    else pldmSend s req pldmOk (toLE 1 2 ++ (sensorLimits s i).flatMap fun v => toLE 2 v)

/-- RequestUpdate (R507, R511): from a BMC without the rein it completes with ERROR, except in
recovery. -/
def execRequestUpdate (_path : Nat) (req : List Byte) (s : State) : Out :=
  onPldm 5 0x10 0 req s fun _ s =>
    if s.grm.st == 1 && !holdsRein s Master.bmc then pldmSend s req pldmErr []
    else pldmSend (s.onGrm fun g => { g with pldmSt := 1 }) req pldmOk (toLE 2 0 ++ toLE 1 0)

/-- TYPE_5_FLOW_IMAGE (R511, R512): the image of the flow is checked and written as `FW_ACTIVATE` does. -/
def execType5FlowImage (image : List Byte) (s : State) : Out :=
  .next (s.when (aon s && s.grm.pldmSt == 1 && (s.grm.st == 1 || s.grm.st == 3)) fun s =>
    let img := memWriteN [] 0 (image.take flashConfig)
    let cause := imageCheck img s.grm.vendorHash s.grm.svnFloor true
    if cause = 0 then (flashImage s img).onGrm fun g => { g with pldmSt := 2, staging := img }
    else s.onGrm fun g => { g with
      pldmSt := 0
      recError := g.recError || g.st == 3
      recCause := if g.st = 3 then cause else g.recCause })

/-- ActivateFirmware (R511): a Groom restart; in recovery the boot ROM boots the image. -/
def execActivateFirmware (_path : Nat) (req : List Byte) (s : State) : Out :=
  onPldm 5 0x1A 0 req s fun _ s =>
    if s.grm.pldmSt != 2 then pldmSend s req 0x84 []
    else
      let s := pldmSend (s.onGrm fun g => { g with pldmSt := 0 }) req pldmOk (toLE 2 2)
      if s.grm.st = 3 then bootImage s s.grm.staging else groomRestart s

/-! Alert pins, true where asserted (R566, R567, R580, R585). -/

def alertHealth (s : State) : Bool :=
  !s.hlt.recovs.isEmpty || s.boot.startFail || s.hlt.fenced.any fun u => decide (u < 461)

def alertTherm (s : State) : Bool :=
  s.pwr.temps.any fun p => decide (warnC s ≤ p.2 - 1)

def alertPower (s : State) : Bool := stretchK s != 0 || s.boot.railFault

def thermTrip (s : State) : Bool := s.pwr.trip

end Sys2Proof.Machine
end

