-- ==== Sys2Proof/Machine/Dispatch.lean ====
section
/-! DEFINITION. The dispatch: one arm per command, each one direct call of its meaning. -/
namespace Sys2Proof.Machine

open Sys2Proof

/-- The effect of a command on everything but the queue. -/
def exec (i : Instr) (s : State) : Host.Outcome State Fault Refusal :=
  match i with
  | .nop q => Sys2Proof.Machine.execNop q s
  | .fence q => Sys2Proof.Machine.execFence q s
  | .waitStride q => Sys2Proof.Machine.execWaitStride q s
  | .signal q => Sys2Proof.Machine.execSignal q s
  | .waitValue q => Sys2Proof.Machine.execWaitValue q s
  | .handleBind q => Sys2Proof.Machine.execHandleBind q s
  | .handleRelease q => Sys2Proof.Machine.execHandleRelease q s
  | .load q => Sys2Proof.Machine.execLoad q s
  | .store q => Sys2Proof.Machine.execStore q s
  | .offload q => Sys2Proof.Machine.execOffload q s
  | .prefetch q => Sys2Proof.Machine.execPrefetch q s
  | .gather q => Sys2Proof.Machine.execGather q s
  | .scatter q => Sys2Proof.Machine.execScatter q s
  | .routeTokens q => Sys2Proof.Machine.execRouteTokens q s
  | .matmul q => Sys2Proof.Machine.execMatmul q s
  | .blockFwd q => Sys2Proof.Machine.execBlockFwd q s
  | .blockTrain q => Sys2Proof.Machine.execBlockTrain q s
  | .blockBwd q => Sys2Proof.Machine.execBlockBwd q s
  | .attn q => Sys2Proof.Machine.execAttn q s
  | .vec q => Sys2Proof.Machine.execVec q s
  | .reduce q => Sys2Proof.Machine.execReduce q s
  | .reduceLr q => Sys2Proof.Machine.execReduceLr q s
  | .broadcast q => Sys2Proof.Machine.execBroadcast q s
  | .allgather q => Sys2Proof.Machine.execAllgather q s
  | .update q => Sys2Proof.Machine.execUpdate q s
  | .precond q => Sys2Proof.Machine.execPrecond q s
  | .versionRelease q => Sys2Proof.Machine.execVersionRelease q s
  | .ruleLoad q => Sys2Proof.Machine.execRuleLoad q s
  | .ctxCreate q => Sys2Proof.Machine.execCtxCreate q s
  | .ctxTeardown q => Sys2Proof.Machine.execCtxTeardown q s
  | .paddockSet q => Sys2Proof.Machine.execPaddockSet q s
  | .gaitLoad q => Sys2Proof.Machine.execGaitLoad q s
  | .scaleSet q => Sys2Proof.Machine.execScaleSet q s
  | .scaleRead q => Sys2Proof.Machine.execScaleRead q s
  | .seedSet q => Sys2Proof.Machine.execSeedSet q s
  | .packetFetch q => Sys2Proof.Machine.execPacketFetch q s
  | .relaySend q => Sys2Proof.Machine.execRelaySend q s
  | .commandComplete id => Sys2Proof.Machine.execCommandComplete id s
  | .completionWrite q => Sys2Proof.Machine.execCompletionWrite q s
  | .sqTail fn n v => Sys2Proof.Machine.execSqTail fn n v s
  | .cqHead fn n v => Sys2Proof.Machine.execCqHead fn n v s
  | .ringEnable fn n v => Sys2Proof.Machine.execRingEnable fn n v s
  | .ringDisable fn n v => Sys2Proof.Machine.execRingDisable fn n v s
  | .tlbInvalidate fn v => Sys2Proof.Machine.execTlbInvalidate fn v s
  | .tlbInvDone fn => Sys2Proof.Machine.execTlbInvDone fn s
  | .windowWrite fn f n v => Sys2Proof.Machine.execWindowWrite fn f n v s
  | .winBusyClear f => Sys2Proof.Machine.execWinBusyClear f s
  | .atsInvalidation fn page pages => Sys2Proof.Machine.execAtsInvalidation fn page pages s
  | .doeDiscovery idx => Sys2Proof.Machine.execDoeDiscovery idx s
  | .bar4Read off len => Sys2Proof.Machine.execBar4Read off len s
  | .bar4Write off data => Sys2Proof.Machine.execBar4Write off data s
  | .regReadLowHalf fn addr bytes => Sys2Proof.Machine.execRegReadLowHalf fn addr bytes s
  | .regWriteLowHalf fn addr bytes v => Sys2Proof.Machine.execRegWriteLowHalf fn addr bytes v s
  | .regWrite fn addr bytes v => Sys2Proof.Machine.execRegWrite fn addr bytes v s
  | .errLatchWrite fn addr v => Sys2Proof.Machine.execErrLatchWrite fn addr v s
  | .capWrite fn addr v => Sys2Proof.Machine.execCapWrite fn addr v s
  | .injArm fn core v => Sys2Proof.Machine.execInjArm fn core v s
  | .redInjArm fn unit v => Sys2Proof.Machine.execRedInjArm fn unit v s
  | .injHold fn unit v => Sys2Proof.Machine.execInjHold fn unit v s
  | .fenceBitWrite fn addr v => Sys2Proof.Machine.execFenceBitWrite fn addr v s
  | .check fn v => Sys2Proof.Machine.execCheck fn v s
  | .trcCommitStride fn v => Sys2Proof.Machine.execTrcCommitStride fn v s
  | .relayReset fn v => Sys2Proof.Machine.execRelayReset fn v s
  | .retrain fn port v => Sys2Proof.Machine.execRetrain fn port v s
  | .linkEnable fn port v => Sys2Proof.Machine.execLinkEnable fn port v s
  | .timCommitStride fn v => Sys2Proof.Machine.execTimCommitStride fn v s
  | .loadNow fn v => Sys2Proof.Machine.execLoadNow fn v s
  | .accClear fn addr v => Sys2Proof.Machine.execAccClear fn addr v s
  | .recoveryChunkWrite fn v => Sys2Proof.Machine.execRecoveryChunkWrite fn v s
  | .recoveryFinish fn v => Sys2Proof.Machine.execRecoveryFinish fn v s
  | .flitReceive port flit fec => Sys2Proof.Machine.execFlitReceive port flit fec s
  | .replayTimeout port => Sys2Proof.Machine.execReplayTimeout port s
  | .signalDetect port on => Sys2Proof.Machine.execSignalDetect port on s
  | .fecAlignLoss port => Sys2Proof.Machine.execFecAlignLoss port s
  | .trainingComplete port hello => Sys2Proof.Machine.execTrainingComplete port hello s
  | .trainingTimeout port => Sys2Proof.Machine.execTrainingTimeout port s
  | .packetEgress port => Sys2Proof.Machine.execPacketEgress port s
  | .remoteWrite port => Sys2Proof.Machine.execRemoteWrite port s
  | .remoteRead port => Sys2Proof.Machine.execRemoteRead port s
  | .reserve port => Sys2Proof.Machine.execReserve port s
  | .relayCmd port => Sys2Proof.Machine.execRelayCmd port s
  | .hostReq port => Sys2Proof.Machine.execHostReq port s
  | .relayPurge port => Sys2Proof.Machine.execRelayPurge port s
  | .orderMark port => Sys2Proof.Machine.execOrderMark port s
  | .drain port => Sys2Proof.Machine.execDrain port s
  | .writeAck port => Sys2Proof.Machine.execWriteAck port s
  | .readData port => Sys2Proof.Machine.execReadData port s
  | .nack port => Sys2Proof.Machine.execNack port s
  | .grant port => Sys2Proof.Machine.execGrant port s
  | .relayCpl port => Sys2Proof.Machine.execRelayCpl port s
  | .hostResp port => Sys2Proof.Machine.execHostResp port s
  | .chunkAck port => Sys2Proof.Machine.execChunkAck port s
  | .chunkAgain port => Sys2Proof.Machine.execChunkAgain port s
  | .refused port => Sys2Proof.Machine.execRefused port s
  | .issued port => Sys2Proof.Machine.execIssued port s
  | .drainReturn port => Sys2Proof.Machine.execDrainReturn port s
  | .copyStatus port => Sys2Proof.Machine.execCopyStatus port s
  | .purgeAck port => Sys2Proof.Machine.execPurgeAck port s
  | .chunk port => Sys2Proof.Machine.execChunk port s
  | .tail port => Sys2Proof.Machine.execTail port s
  | .result port => Sys2Proof.Machine.execResult port s
  | .notice port => Sys2Proof.Machine.execNotice port s
  | .mgmt port => Sys2Proof.Machine.execMgmt port s
  | .directed port => Sys2Proof.Machine.execDirected port s
  | .sync port ps => Sys2Proof.Machine.execSync port ps s
  | .announce port => Sys2Proof.Machine.execAnnounce port s
  | .abort port => Sys2Proof.Machine.execAbort port s
  | .tableXchg port => Sys2Proof.Machine.execTableXchg port s
  | .genNotice port => Sys2Proof.Machine.execGenNotice port s
  | .restart port => Sys2Proof.Machine.execRestart port s
  | .orderAck port => Sys2Proof.Machine.execOrderAck port s
  | .orderAckTimeout dest vc => Sys2Proof.Machine.execOrderAckTimeout dest vc s
  | .routeCheckTimeout port => Sys2Proof.Machine.execRouteCheckTimeout port s
  | .respTimeout tag => Sys2Proof.Machine.execRespTimeout tag s
  | .syncTimer ps => Sys2Proof.Machine.execSyncTimer ps s
  | .announceTimer => Sys2Proof.Machine.execAnnounceTimer s
  | .candidateTimeout dev => Sys2Proof.Machine.execCandidateTimeout dev s
  | .holdoverTimeout => Sys2Proof.Machine.execHoldoverTimeout s
  | .syncLostTimeout => Sys2Proof.Machine.execSyncLostTimeout s
  | .passIssue core site => Sys2Proof.Machine.execPassIssue core site s
  | .passRetire core site => Sys2Proof.Machine.execPassRetire core site s
  | .drainDone core n hz => Sys2Proof.Machine.execDrainDone core n hz s
  | .productTake core site => Sys2Proof.Machine.execProductTake core site s
  | .coreFault core site kind info => Sys2Proof.Machine.execCoreFault core site kind info s
  | .batchWindowExpiry n => Sys2Proof.Machine.execBatchWindowExpiry n s
  | .handleClaim core h => Sys2Proof.Machine.execHandleClaim core h s
  | .padPatrolRead core word bank findings => Sys2Proof.Machine.execPadPatrolRead core word bank findings s
  | .padScrubDone core => Sys2Proof.Machine.execPadScrubDone core s
  | .bankGroupGateRequest core group => Sys2Proof.Machine.execBankGroupGateRequest core group s
  | .bankGroupGated core group => Sys2Proof.Machine.execBankGroupGated core group s
  | .gateAbandon kind unit => Sys2Proof.Machine.execGateAbandon kind unit s
  | .bankGroupWakeDone core group => Sys2Proof.Machine.execBankGroupWakeDone core group s
  | .stashReserve id layer => Sys2Proof.Machine.execStashReserve id layer s
  | .stashCopyLanded id layer => Sys2Proof.Machine.execStashCopyLanded id layer s
  | .offloadDrainDone id layer => Sys2Proof.Machine.execOffloadDrainDone id layer s
  | .offloadFetchStart id layer => Sys2Proof.Machine.execOffloadFetchStart id layer s
  | .offloadFetchDone id layer => Sys2Proof.Machine.execOffloadFetchDone id layer s
  | .rebuildRun id layer => Sys2Proof.Machine.execRebuildRun id layer s
  | .parkTransfer core => Sys2Proof.Machine.execParkTransfer core s
  | .sthPatrolRead die word finding => Sys2Proof.Machine.execSthPatrolRead die word finding s
  | .saddlebagScrubDone die => Sys2Proof.Machine.execSaddlebagScrubDone die s
  | .requestAdmit id => Sys2Proof.Machine.execRequestAdmit id s
  | .requestLand id finding hz => Sys2Proof.Machine.execRequestLand id finding hz s
  | .gatherDescriptorAssign die => Sys2Proof.Machine.execGatherDescriptorAssign die s
  | .routeCountWrite job dest slot => Sys2Proof.Machine.execRouteCountWrite job dest slot s
  | .hbmRefresh pc n => Sys2Proof.Machine.execHbmRefresh pc n s
  | .recalibration unit ok => Sys2Proof.Machine.execRecalibration unit ok s
  | .selfRefreshRequest unit => Sys2Proof.Machine.execSelfRefreshRequest unit s
  | .selfRefreshEntered unit => Sys2Proof.Machine.execSelfRefreshEntered unit s
  | .selfRefreshAbandon unit => Sys2Proof.Machine.execSelfRefreshAbandon unit s
  | .selfRefreshExitReady unit => Sys2Proof.Machine.execSelfRefreshExitReady unit s
  | .memPatrolRead unit word finding => Sys2Proof.Machine.execMemPatrolRead unit word finding s
  | .reservationGrant vrec => Sys2Proof.Machine.execReservationGrant vrec s
  | .multicastLanded id => Sys2Proof.Machine.execMulticastLanded id s
  | .updateSealReady id => Sys2Proof.Machine.execUpdateSealReady id s
  | .updTaskSwitch => Sys2Proof.Machine.execUpdTaskSwitch s
  | .updStreamUe kind addr => Sys2Proof.Machine.execUpdStreamUe kind addr s
  | .strideBoundary => Sys2Proof.Machine.execStrideBoundary s
  | .accountingSnapshot => Sys2Proof.Machine.execAccountingSnapshot s
  | .hoofbeatCheck => Sys2Proof.Machine.execHoofbeatCheck s
  | .gaitCommit => Sys2Proof.Machine.execGaitCommit s
  | .strideValuesCommit => Sys2Proof.Machine.execStrideValuesCommit s
  | .routeTableCommit => Sys2Proof.Machine.execRouteTableCommit s
  | .gaitTableEffect p => Sys2Proof.Machine.execGaitTableEffect p s
  | .slotBegin p => Sys2Proof.Machine.execSlotBegin p s
  | .runEnd p => Sys2Proof.Machine.execRunEnd p s
  | .switchStart p => Sys2Proof.Machine.execSwitchStart p s
  | .switchDone p => Sys2Proof.Machine.execSwitchDone p s
  | .overrunLimit x => Sys2Proof.Machine.execOverrunLimit x s
  | .telemetrySample => Sys2Proof.Machine.execTelemetrySample s
  | .reinLeaseExpiry => Sys2Proof.Machine.execReinLeaseExpiry s
  | .nonceExpiry k => Sys2Proof.Machine.execNonceExpiry k s
  | .fenceWindowExpiry unit => Sys2Proof.Machine.execFenceWindowExpiry unit s
  | .paddockSetApply p => Sys2Proof.Machine.execPaddockSetApply p s
  | .paddockZeroingDone p => Sys2Proof.Machine.execPaddockZeroingDone p s
  | .teardownDrainTimeout x => Sys2Proof.Machine.execTeardownDrainTimeout x s
  | .teardownDone x => Sys2Proof.Machine.execTeardownDone x s
  | .waitValueTimeout q => Sys2Proof.Machine.execWaitValueTimeout q s
  | .waitValueRecheck q => Sys2Proof.Machine.execWaitValueRecheck q s
  | .quiesceEnd n => Sys2Proof.Machine.execQuiesceEnd n s
  | .dumpStart => Sys2Proof.Machine.execDumpStart s
  | .dumpReadTimeout cpath => Sys2Proof.Machine.execDumpReadTimeout cpath s
  | .dumpDone => Sys2Proof.Machine.execDumpDone s
  | .domainReset n => Sys2Proof.Machine.execDomainReset n s
  | .domainReturn n => Sys2Proof.Machine.execDomainReturn n s
  | .domainReturnTimeout n => Sys2Proof.Machine.execDomainReturnTimeout n s
  | .mgmtReadTimeout => Sys2Proof.Machine.execMgmtReadTimeout s
  | .mgmtDequeue path => Sys2Proof.Machine.execMgmtDequeue path s
  | .mctpMessage msg => Sys2Proof.Machine.execMctpMessage msg s
  | .identify => Sys2Proof.Machine.execIdentify s
  | .read => Sys2Proof.Machine.execRead s
  | .write => Sys2Proof.Machine.execWrite s
  | .readDiag => Sys2Proof.Machine.execReadDiag s
  | .telemetryRead => Sys2Proof.Machine.execTelemetryRead s
  | .accountRead => Sys2Proof.Machine.execAccountRead s
  | .reinNonce nonce => Sys2Proof.Machine.execReinNonce nonce s
  | .reinClaim cycle => Sys2Proof.Machine.execReinClaim cycle s
  | .reinRenew => Sys2Proof.Machine.execReinRenew s
  | .passRein => Sys2Proof.Machine.execPassRein s
  | .reinStatus => Sys2Proof.Machine.execReinStatus s
  | .setId => Sys2Proof.Machine.execSetId s
  | .ownerKeysSet => Sys2Proof.Machine.execOwnerKeysSet s
  | .fwStage => Sys2Proof.Machine.execFwStage s
  | .fwActivate => Sys2Proof.Machine.execFwActivate s
  | .fwFlashWriteDone => Sys2Proof.Machine.execFwFlashWriteDone s
  | .groomRestart => Sys2Proof.Machine.execGroomRestart s
  | .groomRestartDone ok => Sys2Proof.Machine.execGroomRestartDone ok s
  | .fmForward => Sys2Proof.Machine.execFmForward s
  | .healthLogRead => Sys2Proof.Machine.execHealthLogRead s
  | .healthStatus => Sys2Proof.Machine.execHealthStatus s
  | .dumpNow => Sys2Proof.Machine.execDumpNow s
  | .resetDomain => Sys2Proof.Machine.execResetDomain s
  | .fenceSet => Sys2Proof.Machine.execFenceSet s
  | .jobAbort => Sys2Proof.Machine.execJobAbort s
  | .logClear => Sys2Proof.Machine.execLogClear s
  | .gaitSet => Sys2Proof.Machine.execGaitSet s
  | .powerStatus => Sys2Proof.Machine.execPowerStatus s
  | .railRead => Sys2Proof.Machine.execRailRead s
  | .getVersion path req => Sys2Proof.Machine.execGetVersion path req s
  | .getCapabilities path req => Sys2Proof.Machine.execGetCapabilities path req s
  | .negotiateAlgorithms path req => Sys2Proof.Machine.execNegotiateAlgorithms path req s
  | .getDigests path req => Sys2Proof.Machine.execGetDigests path req s
  | .getCertificate path req => Sys2Proof.Machine.execGetCertificate path req s
  | .challenge path req => Sys2Proof.Machine.execChallenge path req s
  | .getMeasurements path req => Sys2Proof.Machine.execGetMeasurements path req s
  | .getTid path req => Sys2Proof.Machine.execGetTid path req s
  | .getPldmVersion path req => Sys2Proof.Machine.execGetPldmVersion path req s
  | .getPldmTypes path req => Sys2Proof.Machine.execGetPldmTypes path req s
  | .getPldmCommands path req => Sys2Proof.Machine.execGetPldmCommands path req s
  | .getPdrRepositoryInfo path req => Sys2Proof.Machine.execGetPdrRepositoryInfo path req s
  | .getPdr path req => Sys2Proof.Machine.execGetPdr path req s
  | .getSensorReading path req => Sys2Proof.Machine.execGetSensorReading path req s
  | .getSensorThresholds path req => Sys2Proof.Machine.execGetSensorThresholds path req s
  | .requestUpdate path req => Sys2Proof.Machine.execRequestUpdate path req s
  | .activateFirmware path req => Sys2Proof.Machine.execActivateFirmware path req s
  | .avsAck rail mv => Sys2Proof.Machine.execAvsAck rail mv s
  | .avsTimeout rail => Sys2Proof.Machine.execAvsTimeout rail s
  | .walkGate => Sys2Proof.Machine.execWalkGate s
  | .haltEntryDone => Sys2Proof.Machine.execHaltEntryDone s
  | .haltExitBegin => Sys2Proof.Machine.execHaltExitBegin s
  | .haltExitDone => Sys2Proof.Machine.execHaltExitDone s
  | .wakePinEvent n high => Sys2Proof.Machine.execWakePinEvent n high s
  | .powerEstimate rails stackW => Sys2Proof.Machine.execPowerEstimate rails stackW s
  | .slowLoopTick => Sys2Proof.Machine.execSlowLoopTick s
  | .gaitCapStepDown => Sys2Proof.Machine.execGaitCapStepDown s
  | .thermalSensorRead sensor celsius => Sys2Proof.Machine.execThermalSensorRead sensor celsius s
  | .thermalLimitTick => Sys2Proof.Machine.execThermalLimitTick s
  | .thermThrottleAssert => Sys2Proof.Machine.execThermThrottleAssert s
  | .thermThrottleRelease => Sys2Proof.Machine.execThermThrottleRelease s
  | .clusterGate g => Sys2Proof.Machine.execClusterGate g s
  | .wayGate die way => Sys2Proof.Machine.execWayGate die way s
  | .domainWakeDone unit => Sys2Proof.Machine.execDomainWakeDone unit s
  | .powerOnRelease straps => Sys2Proof.Machine.execPowerOnRelease straps s
  | .railCheckTimeout mv => Sys2Proof.Machine.execRailCheckTimeout mv s
  | .perstAssert => Sys2Proof.Machine.execPerstAssert s
  | .perstDeassert straps => Sys2Proof.Machine.execPerstDeassert straps s
  | .pcieLinkUp gen6 => Sys2Proof.Machine.execPcieLinkUp gen6 s
  | .imageVerified readOk => Sys2Proof.Machine.execImageVerified readOk s
  | .firmwareStart => Sys2Proof.Machine.execFirmwareStart s
  | .memTrainingDone stackMask dimms failed => Sys2Proof.Machine.execMemTrainingDone stackMask dimms failed s
  | .selfTestDone failed dcpOk => Sys2Proof.Machine.execSelfTestDone failed dcpOk s
  | .deviceReady => Sys2Proof.Machine.execDeviceReady s
  | .extest pins data => Sys2Proof.Machine.execExtest pins data s
  | .idcode => Sys2Proof.Machine.execIdcode s
  | .samplePreload pins data => Sys2Proof.Machine.execSamplePreload pins data s
  | .clamp => Sys2Proof.Machine.execClamp s
  | .highz => Sys2Proof.Machine.execHighz s
  | .extestPulse pins data => Sys2Proof.Machine.execExtestPulse pins data s
  | .extestTrain pins data => Sys2Proof.Machine.execExtestTrain pins data s
  | .bypass code => Sys2Proof.Machine.execBypass code s
  | .add core hz => Sys2Proof.Machine.execAdd core hz s
  | .sub core hz => Sys2Proof.Machine.execSub core hz s
  | .mul core hz => Sys2Proof.Machine.execMul core hz s
  | .fma core hz => Sys2Proof.Machine.execFma core hz s
  | .max core hz => Sys2Proof.Machine.execMax core hz s
  | .min core hz => Sys2Proof.Machine.execMin core hz s
  | .scaleBias core hz => Sys2Proof.Machine.execScaleBias core hz s
  | .exp2 core hz => Sys2Proof.Machine.execExp2 core hz s
  | .log2 core hz => Sys2Proof.Machine.execLog2 core hz s
  | .rcp core hz => Sys2Proof.Machine.execRcp core hz s
  | .rsqrt core hz => Sys2Proof.Machine.execRsqrt core hz s
  | .gelu core hz => Sys2Proof.Machine.execGelu core hz s
  | .silu core hz => Sys2Proof.Machine.execSilu core hz s
  | .sigmoid core hz => Sys2Proof.Machine.execSigmoid core hz s
  | .tanh core hz => Sys2Proof.Machine.execTanh core hz s
  | .rowSum core hz => Sys2Proof.Machine.execRowSum core hz s
  | .rowMax core hz => Sys2Proof.Machine.execRowMax core hz s
  | .softmaxRow core hz => Sys2Proof.Machine.execSoftmaxRow core hz s
  | .normRow core hz => Sys2Proof.Machine.execNormRow core hz s
  | .cast core hz => Sys2Proof.Machine.execCast core hz s
  | .vadd => Sys2Proof.Machine.execVadd s
  | .vsub => Sys2Proof.Machine.execVsub s
  | .vmul => Sys2Proof.Machine.execVmul s
  | .vfma => Sys2Proof.Machine.execVfma s
  | .vmax => Sys2Proof.Machine.execVmax s
  | .vmin => Sys2Proof.Machine.execVmin s
  | .vabs => Sys2Proof.Machine.execVabs s
  | .vneg => Sys2Proof.Machine.execVneg s
  | .vcmplt => Sys2Proof.Machine.execVcmplt s
  | .vsel => Sys2Proof.Machine.execVsel s
  | .vrcp => Sys2Proof.Machine.execVrcp s
  | .vrsqrt => Sys2Proof.Machine.execVrsqrt s
  | .vsqrt => Sys2Proof.Machine.execVsqrt s
  | .vexp2 => Sys2Proof.Machine.execVexp2 s
  | .vlog2 => Sys2Proof.Machine.execVlog2 s
  | .vacc => Sys2Proof.Machine.execVacc s
  | .vld => Sys2Proof.Machine.execVld s
  | .vst => Sys2Proof.Machine.execVst s
  | .vldc => Sys2Proof.Machine.execVldc s
  | .vldr => Sys2Proof.Machine.execVldr s
  | .vldw => Sys2Proof.Machine.execVldw s
  | .vstw => Sys2Proof.Machine.execVstw s
  | .wld => Sys2Proof.Machine.execWld s
  | .wst => Sys2Proof.Machine.execWst s
  | .sop => Sys2Proof.Machine.execSop s
  | .loop => Sys2Proof.Machine.execLoop s
  | .endl => Sys2Proof.Machine.execEndl s
  | .body => Sys2Proof.Machine.execBody s
  | .pass => Sys2Proof.Machine.execPass s
  | .tailInstruction => Sys2Proof.Machine.execTailInstruction s
  | .endInstr => Sys2Proof.Machine.execEndInstr s
  | .batchBudgetDeadline n => Sys2Proof.Machine.execBatchBudgetDeadline n s
  | .claimVerified n => Sys2Proof.Machine.execClaimVerified n s
  | .recoveryChunkDone => Sys2Proof.Machine.execRecoveryChunkDone s
  | .type5FlowImage image => Sys2Proof.Machine.execType5FlowImage image s
  | .supplyFail => Sys2Proof.Machine.execSupplyFail s
  | .vfEnable f on => Sys2Proof.Machine.execVfEnable f on s

end Sys2Proof.Machine
end

