-- ==== Sys2Proof/Machine/Idle.lean ====
section
/-! DEFINITION. What the block does with no command waiting. -/
namespace Sys2Proof.Machine

open Sys2Proof

/-- An engine site of the core has a product whose next pass may not issue (R87). -/
def siteWaits (s : State) (c : Nat) : Bool :=
  (List.range 3).any fun site => !(idleOn s c site).isEmpty && !((idleOn s c site).all fun p => passReady s p site)

/-- Arithmetic-clock cycles of a microsecond count for the cores that wait (R108, assumption log 4). -/
def countWaits (s : State) : State :=
  (dedupNat (s.core.products.map (·.core))).foldl (fun s c =>
    if siteWaits s c then s.count64 (coreBlk c + 0x38) (4 * cyclesPerEstimate s.pwr.gait) else s) s

/-- One microsecond passes: local and fabric time advance (R388, R479), and engines that have work go on
with it (assumption log 4). -/
def idle (s : State) : State := (advanceUs 1 s).when (alive s) fun s => kickEngines (countWaits s)

end Sys2Proof.Machine
end

