-- ==== Sys2Proof/WellFormed.lean ====
section
/-! DEFINITION. Well-formed commands: the unit that a command names exists on the device. -/
namespace Sys2Proof

/-- Queues: context rings, admin rings, relay queues. -/
def queueOk (q : Nat) : Bool := decide (q < 256)
/-- Trace ports, 24 the loopback. -/
def portOk (p : Nat) : Bool := decide (p ≤ 24)
def dieOk (k : Nat) : Bool := decide (k < 4)
def coreOk (c : Nat) : Bool := decide (c < 256)
/-- The engine sites of a core, paired sites as one. -/
def siteOk (c s : Nat) : Bool := coreOk c && decide (s < 3)
/-- The bank groups of a pad. -/
def groupOk (c g : Nat) : Bool := coreOk c && decide (g < 8)
def pdkOk (p : Nat) : Bool := decide (p < 16)
/-- Stacks 0 to 7 and DDR5 channels 8 to 19. -/
def memOk (u : Nat) : Bool := decide (u < 20)
/-- Sensors (R565): 64 × die + i, stacks 1024 + t, DIMMs 2048 + c. -/
def sensorOk (k : Nat) : Bool :=
  if k < 1024 then decide (k / 64 < 7) && decide (k % 64 < (if k / 64 < 4 then 16 else 4))
  else if k < 2048 then decide (k < 1032) else decide (k < 2060)

/-- The command names no unit that the device does not have. -/
def Instr.wf : Instr → Bool
  | .nop q => queueOk q
  | .fence q => queueOk q
  | .waitStride q => queueOk q
  | .signal q => queueOk q
  | .waitValue q => queueOk q
  | .handleBind q => queueOk q
  | .handleRelease q => queueOk q
  | .load q => queueOk q
  | .store q => queueOk q
  | .offload q => queueOk q
  | .prefetch q => queueOk q
  | .gather q => queueOk q
  | .scatter q => queueOk q
  | .routeTokens q => queueOk q
  | .matmul q => queueOk q
  | .blockFwd q => queueOk q
  | .blockTrain q => queueOk q
  | .blockBwd q => queueOk q
  | .attn q => queueOk q
  | .vec q => queueOk q
  | .reduce q => queueOk q
  | .reduceLr q => queueOk q
  | .broadcast q => queueOk q
  | .allgather q => queueOk q
  | .update q => queueOk q
  | .precond q => queueOk q
  | .versionRelease q => queueOk q
  | .ruleLoad q => queueOk q
  | .ctxCreate q => queueOk q
  | .ctxTeardown q => queueOk q
  | .paddockSet q => queueOk q
  | .gaitLoad q => queueOk q
  | .scaleSet q => queueOk q
  | .scaleRead q => queueOk q
  | .seedSet q => queueOk q
  | .packetFetch q => decide (q < 128)
  | .relaySend q => decide (q < 128)
  | .commandComplete _ => true
  | .completionWrite q => queueOk q
  | .sqTail _ _ _ => true
  | .cqHead _ _ _ => true
  | .ringEnable _ _ _ => true
  | .ringDisable _ _ _ => true
  | .tlbInvalidate _ _ => true
  | .tlbInvDone _ => true
  | .windowWrite _ _ _ _ => true
  | .winBusyClear _ => true
  | .atsInvalidation _ _ _ => true
  | .doeDiscovery _ => true
  | .bar4Read _ _ => true
  | .bar4Write _ _ => true
  | .regReadLowHalf _ _ _ => true
  | .regWriteLowHalf _ _ _ _ => true
  | .regWrite _ _ _ _ => true
  | .errLatchWrite _ _ _ => true
  | .capWrite _ _ _ => true
  | .injArm _ core _ => coreOk core
  | .redInjArm _ unit _ => decide (unit < 56)
  | .injHold _ unit _ => decide (unit < 56)
  | .fenceBitWrite _ _ _ => true
  | .check _ _ => true
  | .trcCommitStride _ _ => true
  | .relayReset _ _ => true
  | .retrain _ port _ => decide (port < 24)
  | .linkEnable _ port _ => decide (port < 24)
  | .timCommitStride _ _ => true
  | .loadNow _ _ => true
  | .accClear _ _ _ => true
  | .recoveryChunkWrite _ _ => true
  | .recoveryFinish _ _ => true
  | .flitReceive port _ _ => decide (port < 24)
  | .replayTimeout port => decide (port < 24)
  | .signalDetect port _ => decide (port < 24)
  | .fecAlignLoss port => decide (port < 24)
  | .trainingComplete port _ => decide (port < 24)
  | .trainingTimeout port => decide (port < 24)
  | .packetEgress port => decide (port < 24)
  | .remoteWrite port => portOk port
  | .remoteRead port => portOk port
  | .reserve port => portOk port
  | .relayCmd port => portOk port
  | .hostReq port => portOk port
  | .relayPurge port => portOk port
  | .orderMark port => portOk port
  | .drain port => portOk port
  | .writeAck port => portOk port
  | .readData port => portOk (port % 32)
  | .nack port => portOk port
  | .grant port => portOk port
  | .relayCpl port => portOk port
  | .hostResp port => portOk (port % 32)
  | .chunkAck port => portOk port
  | .chunkAgain port => portOk port
  | .refused port => portOk port
  | .issued port => portOk port
  | .drainReturn port => portOk port
  | .copyStatus port => portOk port
  | .purgeAck port => portOk port
  | .chunk port => portOk port
  | .tail port => portOk port
  | .result port => portOk port
  | .notice port => portOk port
  | .mgmt port => portOk port
  | .directed port => portOk port
  | .sync port _ => portOk port
  | .announce port => portOk port
  | .abort port => portOk port
  | .tableXchg port => portOk port
  | .genNotice port => portOk port
  | .restart port => portOk port
  | .orderAck port => portOk port
  | .orderAckTimeout _ _ => true
  | .routeCheckTimeout port => decide (port < 24)
  | .respTimeout _ => true
  | .syncTimer _ => true
  | .announceTimer => true
  | .candidateTimeout _ => true
  | .holdoverTimeout => true
  | .syncLostTimeout => true
  | .passIssue core site => siteOk core site
  | .passRetire core site => siteOk core site
  | .drainDone core _ _ => coreOk core
  | .productTake core site => siteOk core site
  | .coreFault core site _ _ => coreOk core && decide (site < 10)
  | .batchWindowExpiry _ => true
  | .handleClaim core h => coreOk core && decide (h < 64)
  | .padPatrolRead core word _ _ => coreOk core && decide (word < 2048)
  | .padScrubDone core => coreOk core
  | .bankGroupGateRequest core group => groupOk core group
  | .bankGroupGated core group => groupOk core group
  | .gateAbandon kind unit => (kind == 0 && decide (unit < 2048)) || (kind == 1 && decide (unit < 32)) || (kind == 2 && decide (unit < 64))
  | .bankGroupWakeDone core group => groupOk core group
  | .stashReserve _ _ => true
  | .stashCopyLanded _ _ => true
  | .offloadDrainDone _ _ => true
  | .offloadFetchStart _ _ => true
  | .offloadFetchDone _ _ => true
  | .rebuildRun _ _ => true
  | .parkTransfer core => coreOk core
  | .sthPatrolRead die word _ => dieOk die && decide (word < 768 * 2048)
  | .saddlebagScrubDone die => dieOk die
  | .requestAdmit _ => true
  | .requestLand _ _ _ => true
  | .gatherDescriptorAssign die => dieOk die
  | .routeCountWrite _ _ _ => true
  | .hbmRefresh pc _ => decide (pc < 512)
  | .recalibration unit _ => memOk unit
  | .selfRefreshRequest unit => memOk unit
  | .selfRefreshEntered unit => memOk unit
  | .selfRefreshAbandon unit => memOk unit
  | .selfRefreshExitReady unit => memOk unit
  | .memPatrolRead unit _ _ => memOk unit
  | .reservationGrant _ => true
  | .multicastLanded _ => true
  | .updateSealReady _ => true
  | .updTaskSwitch => true
  | .updStreamUe kind _ => decide (kind < 4)
  | .strideBoundary => true
  | .accountingSnapshot => true
  | .hoofbeatCheck => true
  | .gaitCommit => true
  | .strideValuesCommit => true
  | .routeTableCommit => true
  | .gaitTableEffect p => pdkOk p
  | .slotBegin p => pdkOk p
  | .runEnd p => pdkOk p
  | .switchStart p => pdkOk p
  | .switchDone p => pdkOk p
  | .overrunLimit _ => true
  | .telemetrySample => true
  | .reinLeaseExpiry => true
  | .nonceExpiry _ => true
  | .fenceWindowExpiry _ => true
  | .paddockSetApply p => pdkOk p
  | .paddockZeroingDone p => pdkOk p
  | .teardownDrainTimeout x => decide (x < 64)
  | .teardownDone x => decide (x < 64)
  | .waitValueTimeout q => queueOk q
  | .waitValueRecheck q => queueOk q
  | .quiesceEnd _ => true
  | .dumpStart => true
  | .dumpReadTimeout _ => true
  | .dumpDone => true
  | .domainReset _ => true
  | .domainReturn _ => true
  | .domainReturnTimeout _ => true
  | .mgmtReadTimeout => true
  | .mgmtDequeue _ => true
  | .mctpMessage _ => true
  | .identify => true
  | .read => true
  | .write => true
  | .readDiag => true
  | .telemetryRead => true
  | .accountRead => true
  | .reinNonce _ => true
  | .reinClaim _ => true
  | .reinRenew => true
  | .passRein => true
  | .reinStatus => true
  | .setId => true
  | .ownerKeysSet => true
  | .fwStage => true
  | .fwActivate => true
  | .fwFlashWriteDone => true
  | .groomRestart => true
  | .groomRestartDone _ => true
  | .fmForward => true
  | .healthLogRead => true
  | .healthStatus => true
  | .dumpNow => true
  | .resetDomain => true
  | .fenceSet => true
  | .jobAbort => true
  | .logClear => true
  | .gaitSet => true
  | .powerStatus => true
  | .railRead => true
  | .getVersion _ _ => true
  | .getCapabilities _ _ => true
  | .negotiateAlgorithms _ _ => true
  | .getDigests _ _ => true
  | .getCertificate _ _ => true
  | .challenge _ _ => true
  | .getMeasurements _ _ => true
  | .getTid _ _ => true
  | .getPldmVersion _ _ => true
  | .getPldmTypes _ _ => true
  | .getPldmCommands _ _ => true
  | .getPdrRepositoryInfo _ _ => true
  | .getPdr _ _ => true
  | .getSensorReading _ _ => true
  | .getSensorThresholds _ _ => true
  | .requestUpdate _ _ => true
  | .activateFirmware _ _ => true
  | .avsAck rail _ => decide (rail < 6)
  | .avsTimeout rail => decide (rail < 6)
  | .walkGate => true
  | .haltEntryDone => true
  | .haltExitBegin => true
  | .haltExitDone => true
  | .wakePinEvent n _ => decide (n < 4)
  | .powerEstimate _ _ => true
  | .slowLoopTick => true
  | .gaitCapStepDown => true
  | .thermalSensorRead sensor _ => sensorOk sensor
  | .thermalLimitTick => true
  | .thermThrottleAssert => true
  | .thermThrottleRelease => true
  | .clusterGate g => decide (g < 32)
  | .wayGate die way => dieOk die && decide (way < 16)
  | .domainWakeDone unit => decide (unit < 32) || (decide (352 ≤ unit) && decide (unit < 416))
  | .powerOnRelease _ => true
  | .railCheckTimeout _ => true
  | .perstAssert => true
  | .perstDeassert _ => true
  | .pcieLinkUp _ => true
  | .imageVerified _ => true
  | .firmwareStart => true
  | .memTrainingDone _ _ _ => true
  | .selfTestDone failed _ => failed.all fun u => decide (u < 465)
  | .deviceReady => true
  | .extest _ _ => true
  | .idcode => true
  | .samplePreload _ _ => true
  | .clamp => true
  | .highz => true
  | .extestPulse _ _ => true
  | .extestTrain _ _ => true
  | .bypass _ => true
  | .add core _ => coreOk core
  | .sub core _ => coreOk core
  | .mul core _ => coreOk core
  | .fma core _ => coreOk core
  | .max core _ => coreOk core
  | .min core _ => coreOk core
  | .scaleBias core _ => coreOk core
  | .exp2 core _ => coreOk core
  | .log2 core _ => coreOk core
  | .rcp core _ => coreOk core
  | .rsqrt core _ => coreOk core
  | .gelu core _ => coreOk core
  | .silu core _ => coreOk core
  | .sigmoid core _ => coreOk core
  | .tanh core _ => coreOk core
  | .rowSum core _ => coreOk core
  | .rowMax core _ => coreOk core
  | .softmaxRow core _ => coreOk core
  | .normRow core _ => coreOk core
  | .cast core _ => coreOk core
  | .vadd => true
  | .vsub => true
  | .vmul => true
  | .vfma => true
  | .vmax => true
  | .vmin => true
  | .vabs => true
  | .vneg => true
  | .vcmplt => true
  | .vsel => true
  | .vrcp => true
  | .vrsqrt => true
  | .vsqrt => true
  | .vexp2 => true
  | .vlog2 => true
  | .vacc => true
  | .vld => true
  | .vst => true
  | .vldc => true
  | .vldr => true
  | .vldw => true
  | .vstw => true
  | .wld => true
  | .wst => true
  | .sop => true
  | .loop => true
  | .endl => true
  | .body => true
  | .pass => true
  | .tailInstruction => true
  | .endInstr => true
  | .batchBudgetDeadline _ => true
  | .claimVerified _ => true
  | .recoveryChunkDone => true
  | .type5FlowImage _ => true
  | .supplyFail => true
  | .vfEnable f _ => decide (1 ≤ f) && decide (f ≤ 16)

end Sys2Proof
end

