-- ==== Sys2Proof/Safety.lean ====
section
/-! DEFINITION. What counts as a safe state and a safe run, in the terms the statements use. -/
namespace Sys2Proof.Machine

open Sys2Proof

/-- Every memory of the block is in canonical form: addresses strictly rising, no entry equal to what
an unlisted address reads as. -/
def Memory.wf (m : Tbl Byte) : Bool := Tbl.wf 0#8 m

/-- The memories of a state: host and device memory, pads, saddlebags, flash and staging. -/
def State.memories (s : State) : List (Tbl Byte) :=
  [s.host.mem, s.mem.dpa, s.pad.mem, s.blk.mem, s.grm.flash, s.grm.staging]

/-- All memories are in canonical form. -/
def State.memWf (s : State) : Bool := s.memories.all Memory.wf

/-- What no step of the block may take away (R508): the fused vendor key hash is `h`, and the fused
floor of the firmware's security version is at least `n`. -/
def FusesHeld (h : BitVec 384) (n : Nat) (s : State) : Prop := s.grm.vendorHash = h ∧ n ≤ s.grm.svnFloor

/-- Every command that waits is well-formed. -/
def QueueWf (s : State) : Prop := s.pending.all Instr.wf = true

/-- A step neither stops with a fault nor is refused. -/
def Steps (s : State) : Prop := ∃ t, step s = .next t

/-! When a command runs: the conditions on the state alone that the statements name. -/

/-- Packet `p` is at the head of queue `q`, is for this device, has opcode `op` and may issue (R415 to
R418, R473). -/
abbrev HeadReady (op q : Nat) (p : Packet) (s : State) : Prop :=
  q < 256 ∧ s.headPkt q = some p ∧ p.op = op ∧ forSeat s p = false ∧ dieRuns s 5 = true ∧ mayIssue s q p = true

/-- Fabric packet `k` of type `type` is the first received on channel `vc` of port `p`, and the port's
link die runs. -/
abbrev RxReady (type vc p : Nat) (k : FPkt) (s : State) : Prop :=
  p ≤ 24 ∧ (rxOf s p vc).head? = some k ∧ k.type = type ∧ linkRuns s p = true

/-- The state once the first packet of channel `vc` of port `p` is taken: its credits go back. -/
def takenRx (vc p : Nat) (k : FPkt) (s : State) : State :=
  freeRx (s.onFab fun x => { x with rxq := Tbl.upd [] x.rxq (rxKey p vc) (·.drop 1) }) p vc k.units

/-- The Groom core serves message `m`: its opcode is `op`, its sender may have it carried out, and its
form is right (R483, R491, R498). -/
abbrev Serving (op : Nat) (m : Msg) (s : State) : Prop :=
  aon s = true ∧ s.grm.st = 1 ∧ s.grm.cur = some m ∧ msgServed s m = true ∧ m.op = op
    ∧ (needsRein op = true → holdsRein s s.grm.tag = true) ∧ m.ok = true

/-- Task `t` of entry `e` is the one that runs on the update die, and its next word's opcode is `opc`
(R344). -/
abbrev NextWord (opc : Nat) (t : Task) (e : UpdEntry) (s : State) : Prop :=
  runningTask s = some t ∧ s.updEnt? t.entry = some e ∧ dieRuns s 4 = true
    ∧ wOpc (ruleWord (s.ctx t.ctx).rule t.pc) = opc

/-- Operation `v`, of opcode `op` (and variant `alt`, where the row names one), is the next of the vector
unit of core `c`, and can run: its inputs and output are in place, nothing is armed and no input
reads uncorrectable; `t` is the state once its inputs have been read and checked (R108 to R112). -/
abbrev VuReady (op : Nat) (alt : Option Bool) (c : Nat) (v : VuOp) (s t : State) : Prop :=
  c < 256 ∧ dieRuns s (coreDie c) = true ∧ vuFront s c = some v ∧ v.op = op ∧ v.core = c
    ∧ alt.any (· != v.alt) = false ∧ coreUsable s c = true ∧ bit (s.reg (coreLatch c)) 15 = false
    ∧ gateReady s (coreCluster c) = true ∧ vuReady s v = true
    ∧ bit (s.reg (coreBlk c)) 12 = false ∧ vuCheck (vuAcquire s v) v = (t, [])

/-- A sealing reduction for `step` may issue: every tail before it is sent, and the step is not sealed
yet (R286, R311). -/
abbrev maySeal (s : State) (x step : Nat) : Bool :=
  tailsSent s x step && !(steFor (stepEntry s x step) step && steSealed (stepEntry s x step))

/-- Work `d` is the first that is due; `rest` follows it. -/
abbrev DueHead (d : Due) (rest : List Due) (s : State) : Prop := s.tim.due = d :: rest

/-- The state once the first due work is taken. -/
def takenDue (rest : List Due) (s : State) : State := s.onTim fun x => { x with due := rest }

end Sys2Proof.Machine
end

