-- ==== Sys2Proof/Certificates/Slice0/Obligations.lean ====
section
/-! DEFINITION. The statements about the block, for the provers. Those named Complete, Run, Issue, Taken or Served say of
each command that it answers a next state, and which, under conditions on the state and the operands alone; together they
name every command of the block. The others state the spec's rules: what each kind of command leaves unchanged, and what
no step can take away. -/

section
open Sys2Proof Sys2Proof.Machine

/-- The control and numerics commands complete as their rules say (R66 to R69, R422 to R427, R600, R601): each issues and
completes with `OK` and its effect on the state, when what it waits for holds and its parameters are good. -/
def Obligations.ControlCommandsComplete : Prop :=
  ∀ (s : State) (q : Nat) (p : Packet),
    (HeadReady 0x00 q p s → exec (.nop q) s = .next (completeNow s q p stOk 0))
    ∧ (HeadReady 0x01 q p s → ringClear s q = true → exec (.fence q) s = .next (completeNow s q p stOk 0))
    ∧ (HeadReady 0x02 q p s → waitTarget p ≤ s.nowStride →
        exec (.waitStride q) s = .next (completeNow s q p stOk 0))
    ∧ (HeadReady 0x03 q p s → ringClear s q = true → bit (p.hdr 32 2) 15 = true → bit (p.hdr 32 2) 14 = false →
        exec (.signal q) s = .next (signalLocal q p s))
    ∧ (HeadReady 0x03 q p s → ringClear s q = true → bit (p.hdr 32 2) 15 = false → bit (p.hdr 32 2) 14 = true →
        exec (.signal q) s = .next (signalHost q p s))
    ∧ (HeadReady 0x03 q p s → ringClear s q = true → bit (p.hdr 32 2) 15 = false → bit (p.hdr 32 2) 14 = false →
        exec (.signal q) s = .next (signalRemote q p s))
    ∧ (HeadReady 0x05 q p s → diesIssue s [coreDie (p.hdr 16 1)] = true → ctxOwnsCore s (q % 64) (p.hdr 16 1) = true →
        p.hdr 17 1 < 64 → fmtReserved (p.hdr 24 1) = false → p.hdr 26 1 < 64 →
        (hnd s (p.hdr 16 1) (p.hdr 17 1)).bound = false →
        bindOk s (p.hdr 16 1) (p.hdr 17 1) (bindEntry s (q % 64) p) = true →
        exec (.handleBind q) s = .next (completeNow (wakeGroups
          (updHnd (s.beat (dieCpath (coreDie (p.hdr 16 1)) 0)) (p.hdr 16 1) (p.hdr 17 1) fun _ => bindEntry s (q % 64) p)
          (p.hdr 16 1) (bindEntry s (q % 64) p)) q p stOk 0))
    ∧ (HeadReady 0x06 q p s → ∀ hs, hs = (bitsOf (p.hdr 24 8) 64).filter (fun h => (hnd s (p.hdr 16 1) h).bound) →
        diesIssue s [coreDie (p.hdr 16 1)] = true → ctxOwnsCore s (q % 64) (p.hdr 16 1) = true →
        (∀ h ∈ hs, ownedBy (hnd s (p.hdr 16 1) h) (q % 64) (s.gen (q % 64)) = true ∧ canRelease (hnd s (p.hdr 16 1) h) = true) →
        exec (.handleRelease q) s = .next (completeNow
          (hs.foldl (fun s h => unbind s (p.hdr 16 1) h) (s.beat (dieCpath (coreDie (p.hdr 16 1)) 0))) q p stOk 0))
    ∧ (HeadReady 0x60 q p s → scaleSetOk p = true →
        exec (.scaleSet q) s = .next (completeNow ((List.range (p.par 2 2)).foldl (fun s i =>
          let r := readSlot s (q % 64) (p.par 0 2 + i)
          writeSlot r.1 (q % 64) (p.par 0 2 + i) (scaleSetBytes r.2 (p.par 4 4) (p.par 8 4))) s) q p stOk 0))
    ∧ (HeadReady 0x62 q p s → allZero (slice p.params 8 56) = true →
        exec (.seedSet q) s = .next (completeNow
          (s.updCtx (q % 64) fun c => { c with seed := BitVec.ofNat 64 (p.par 0 8) }) q p stOk 0))

/-- SCALE_READ copies the named slots to device or host memory (R68, R601); WAIT_VALUE completes when the value it
reads meets its condition, and otherwise at its time limit with `TIMEOUT` (R29, R426). -/
def Obligations.ReadingCommandsComplete : Prop :=
  ∀ (s : State) (q : Nat) (p : Packet),
    (HeadReady 0x61 q p s → scaleReadOk p = true → ∀ r, r = slotImages s (q % 64) (p.par 0 2) (p.par 2 2) →
        (bit (p.par 4 4) 0 = false → ∀ t, vaWrite r.1 (homeDie r.1 (q % 64)) (q % 64) (p.par 8 8) r.2 = (t, 0) →
          exec (.scaleRead q) s = .next (completeNow t q p stOk 0))
        ∧ (bit (p.par 4 4) 0 = true → p.lead = none → hostOk s p.fn (p.par 8 8) (128 * p.par 2 2) true = true →
          exec (.scaleRead q) s = .next (completeNow
            ((hostWrite r.1 (p.par 8 8) r.2).charge (q % 64) acHost (128 * p.par 2 2)) q p stOk 0)))
    ∧ (∀ r, r = vaRead s (homeDie s (q % 64)) (q % 64) (p.hdr 16 8) 8 →
        HeadReady 0x04 q p s → r.2.1 = 0 → waitMet p (leNat r.2.2) = true →
        exec (.waitValue q) s = .next (completeNow r.1 q p stOk 0)
        ∧ exec (.waitValueRecheck q) s = .next (completeNow r.1 q p stOk 0))
    ∧ (∀ r, r = peek s (homeDie s (q % 64)) (q % 64) (p.hdr 16 8) false →
        q < 256 → s.headPkt q = some p → p.op = 0x04 → forSeat s p = false → dieRuns s 5 = true → p.hdr 32 4 ≠ 0 →
        ((r.1 = 0 && (ueWords s r.2 8).isEmpty && waitMet p (leNat (dpaRead s r.2 8))) = false →
          exec (.waitValueTimeout q) s = .next (refuseAtIssue s q p stTimeout))
        ∧ (r.1 = 0 → (ueWords s r.2 8).isEmpty = true → waitMet p (leNat (dpaRead s r.2 8)) = true →
          mayIssue s q p = true → exec (.waitValueTimeout q) s = .next (completeNow s q p stOk 0)))

/-- The data-movement commands issue: their descriptors become jobs of the DMA engines, the offload and cache movers and
the gather engines, and each job starts (R236 to R249, R422). -/
def Obligations.MovementCommandsIssue : Prop :=
  ∀ (s : State) (q : Nat) (p : Packet),
    (HeadReady 0x10 q p s → dmaCheck s (q % 64) .load p = 0 → diesIssue s (jobDies (dmaJobs .load p)) = true →
        exec (.load q) s = .next (issueJobs s q p (jobDies (dmaJobs .load p)) (dmaJobs .load p)
          fun s j => startJob s (dmaIssuer j.core) j))
    ∧ (HeadReady 0x11 q p s → dmaCheck s (q % 64) .store p = 0 → diesIssue s (jobDies (dmaJobs .store p)) = true →
        exec (.store q) s = .next (issueJobs s q p (jobDies (dmaJobs .store p)) (dmaJobs .store p)
          fun s j => startJob s (dmaIssuer j.core) j))
    ∧ (HeadReady 0x14 q p s → dmaCheck s (q % 64) .offload p = 0 →
        exec (.offload q) s = .next (issueJobs s q p [] (dmaJobs .offload p) fun s j => startJob s issOffload j))
    ∧ (HeadReady 0x15 q p s → dmaCheck s (q % 64) .prefetch p = 0 →
        exec (.prefetch q) s = .next (issueJobs s q p [] (dmaJobs .prefetch p) fun s j => startJob s issCache j))
    ∧ (HeadReady 0x12 q p s → gatherCheck s (q % 64) 0x12 p = 0 → diesIssue s (jobDies (gatherJobs p)) = true →
        exec (.gather q) s =
          .next (kickMovers (assignDies (issueJobs s q p (jobDies (gatherJobs p)) (gatherJobs p) queueGather))))
    ∧ (HeadReady 0x13 q p s → gatherCheck s (q % 64) 0x13 p = 0 → diesIssue s (jobDies (gatherJobs p)) = true →
        exec (.scatter q) s =
          .next (kickMovers (assignDies (issueJobs s q p (jobDies (gatherJobs p)) (gatherJobs p) queueGather))))
    ∧ (HeadReady 0x34 q p s → gatherCheck s (q % 64) 0x34 p = 0 → diesIssue s (jobDies (gatherJobs p)) = true →
        exec (.routeTokens q) s =
          .next (kickMovers (assignDies (issueJobs s q p (jobDies (gatherJobs p)) (gatherJobs p) queueGather))))

/-- The movers' own steps run: a queued descriptor goes to a gather engine (R241), a claim succeeds on a handle that may be
claimed (R130, R132), a request is admitted at its target and lands (R227 to R231), and a route job's count word leaves when
every write of its pair is acknowledged (R246). -/
def Obligations.MoverStepsRun : Prop :=
  ∀ s : State,
    (∀ die, die < 4 → dieRuns s die = true →
        exec (.gatherDescriptorAssign die) s = .next (kickMovers (assignGather die s)))
    ∧ (∀ core h c, core < 256 → h < 64 → dieRuns s (coreDie core) = true →
        s.pad.claims.find? (fun c => c.core == core && c.h == h) = some c → canClaim (hnd s core h) c.cmd = true →
        groupsReady s core (hnd s core h) true = true →
        exec (.handleClaim core h) s = .next (kickMovers (claimJob (addOut
          (updHnd (s.onPad fun p => { p with claims := p.claims.erase c }) core h fun e => claim e c.cmd c.src c.bytes)
          c.cmd (hKey core h)) c)))
    ∧ (∀ id r pa t, s.mov.waiting.find? (·.id == id) = some r → dieRuns s (issuerDie r.issuer) = true →
        tagFree s r.issuer = true → r.host = false → reqPlace s r = (0, pa, t) → t ≠ noTarget →
        (srUnit s (targetUnit t)).st = 0 → countAt s t < capOf s t → oldestFor s r t = true →
        exec (.requestAdmit id) s = .next (kickMovers (admitMem s r pa t)))
    ∧ (∀ id r, s.mov.waiting.find? (·.id == id) = some r → dieRuns s (issuerDie r.issuer) = true →
        tagFree s r.issuer = true → r.host = true → s.host.linkUp = true →
        exec (.requestAdmit id) s = .next (kickMovers (admitHost s r)))
    ∧ (∀ id finding hz r, s.mov.flight.find? (·.id == id) = some r → dieRuns s (issuerDie r.issuer) = true →
        s.mem.refreshing.contains r.target = false → findingOk r (finding % 8) (finding / 8) = true →
        exec (.requestLand id finding hz) s =
          .next (settleAts (kickMovers (landReq s r (finding % 8) (finding / 8) hz))))
    ∧ (∀ job dest slot i j n,
        s.mov.jobs.findSome? (fun e => (e.2.find? (·.id == job)).map (e.1, ·)) = some (i, j) →
        j.kind = .route → j.rows ≤ j.row → (routePairs j).contains (dest + 4096 * slot) = true →
        j.counted.contains (dest, slot) = false →
        pairDone s j.cmd dest slot = true → tagFree s i = true → dieRuns s (issuerDie i) = true →
        n = ((List.range j.rows).filter fun p => idxAt j p == some (dest + 4096 * slot)).length →
        exec (.routeCountWrite job dest slot) s = .next (kickMovers (sendRemote
          (updJob s i j.id fun j => { j with counted := j.counted ++ [(dest, slot)] }) j.cmd j.ctx dest 5 slot 4 .none
          { mkPkt 0x01 0 dest (toLE 4 (min n j.capacity + 65536 * min 65535 (n - j.capacity))) with
            job := j.jobId, addr := j.countBase + 4 * (slot * j.sources + j.rank), aux := 65536 * 4 } j.id i)))

/-- The memory units' steps run (R262, R274 to R279, R590): refresh, recalibration, self-refresh entry and exit, the patrol
scrub, and the end of training. -/
def Obligations.MemoryUnitStepsRun : Prop :=
  ∀ (s : State), alive s = true →
    (∀ pc n, pc < 512 → (srUnit s (pc / 64)).st ≠ 2 →
        exec (.hbmRefresh pc n) s = .next (s.onMem fun m => { m with
          refreshing := if n = 0 then m.refreshing.filter (· != pc) else insertAsc pc m.refreshing }))
    ∧ (∀ u, u < 20 → (memUnits s).contains u = true → (srUnit s u).st = 0 →
        exec (.recalibration u true) s = .next s
        ∧ exec (.recalibration u false) s = .next (setSr
            (logEvent (s.latch (unitBlk u + 0x8) (calFailBit u)) clsLink (calFailBit u) (unitCpath u) none u) u
            fun x => { x with retrain := true }))
    ∧ (∀ u, u < 20 → (memUnits s).contains u = true → (gaitWantsSr s u || idleLongEnough s u) = true →
        exec (.selfRefreshRequest u) s = .next (requestSelfRefresh s u))
    ∧ (∀ u, u < 20 → (srUnit s u).st = 1 → unitBusy s u = false →
        exec (.selfRefreshEntered u) s = .next (haltProceed ((setSr s u fun x => { x with
          st := if x.exitAfter then 3 else 2
          since := s.nowUs
          exitAfter := false }).onMem fun m => { m with refreshing := m.refreshing.filter (· / 64 != u) })))
    ∧ (∀ u, u < 20 → (srUnit s u).st = 1 → unitBusy s u = true →
        exec (.selfRefreshAbandon u) s = .next ((setSr s u fun x => { x with
          st := 0
          since := s.nowUs
          exitAfter := false }).count32 (diePowerBlk (unitDie u) + 0x8) 1))
    ∧ (∀ u, u < 20 → (srUnit s u).st = 3 → resetting s (fuDomain (unitFence u)).1 (fuDomain (unitFence u)).2 = false →
        exec (.selfRefreshExitReady u) s = .next (setSr s u fun x => { x with
          st := 0
          since := s.nowUs
          lastUse := s.nowUs }))
    ∧ (∀ u w f, u < 20 → f < (if u < 8 then 3 else 4) → framePopulated s (unitWordAddr u w) = true →
        (srUnit s u).st = 0 → bit (s.reg (unitBlk u)) 0 = true → addrUnit (unitWordAddr u w) = u →
        s.mov.waiting.any (fun r => (reqPlace s r).2.2 == targetOf s (unitWordAddr u w)) = false →
        (f = 3 → exec (.memPatrolRead u w f) s = .next (memUe
          (s.onMem fun m => { m with ue := insertAsc (unitWordAddr u w / 32) m.ue }) (unitWordAddr u w) 2 true none))
        ∧ (f = 2 → exec (.memPatrolRead u w f) s = .next (memUe
          (s.onMem fun m => { m with ue := insertAsc (unitWordAddr u w / 32) m.ue }) (unitWordAddr u w) 0 true none))
        ∧ (f = 1 → wordUe s (unitWordAddr u w) = false →
          exec (.memPatrolRead u w f) s = .next (memCe
            (s.onMem fun m => { m with sym := m.sym.erase (unitWordAddr u w / 32) }) (unitWordAddr u w) true none))
        ∧ (f = 0 → wordUe s (unitWordAddr u w) = false → s.mem.sym.contains (unitWordAddr u w / 32) = false → exec (.memPatrolRead u w f) s = .next s))
    ∧ (∀ mask dimms failed, s.boot.imageOk = true → exec (.memTrainingDone mask dimms failed) s =
        .next (if s.boot.memTrained then
            ((List.range 20).filter fun u => if u < 8 then !bit mask u else bit failed (u - 8)).foldl retrainFail s
          else (trainAllMemory mask dimms failed s).onBoot fun b => { b with memTrained := true }))

/-- Each operation of the vector unit runs when it is the unit's next and its operands are in place: it takes its inputs,
writes its rows and leaves the queue (R105 to R108, R602 to R604). The opcode and variant tell the rows apart. -/
def Obligations.VectorOperationsRun : Prop :=
  ∀ (s t : State) (c hz : Nat) (v : VuOp),
    (VuReady 0x01 (some false) c v s t → exec (.add c hz) s = .next (vuFinish v hz t))
    ∧ (VuReady 0x01 (some true) c v s t → exec (.sub c hz) s = .next (vuFinish v hz t))
    ∧ (VuReady 0x02 none c v s t → exec (.mul c hz) s = .next (vuFinish v hz t))
    ∧ (VuReady 0x03 none c v s t → exec (.fma c hz) s = .next (vuFinish v hz t))
    ∧ (VuReady 0x04 (some false) c v s t → exec (.max c hz) s = .next (vuFinish v hz t))
    ∧ (VuReady 0x04 (some true) c v s t → exec (.min c hz) s = .next (vuFinish v hz t))
    ∧ (VuReady 0x05 none c v s t → exec (.scaleBias c hz) s = .next (vuFinish v hz t))
    ∧ (VuReady 0x08 none c v s t → exec (.exp2 c hz) s = .next (vuFinish v hz t))
    ∧ (VuReady 0x09 none c v s t → exec (.log2 c hz) s = .next (vuFinish v hz t))
    ∧ (VuReady 0x0A none c v s t → exec (.rcp c hz) s = .next (vuFinish v hz t))
    ∧ (VuReady 0x0B none c v s t → exec (.rsqrt c hz) s = .next (vuFinish v hz t))
    ∧ (VuReady 0x10 none c v s t → exec (.gelu c hz) s = .next (vuFinish v hz t))
    ∧ (VuReady 0x11 none c v s t → exec (.silu c hz) s = .next (vuFinish v hz t))
    ∧ (VuReady 0x12 none c v s t → exec (.sigmoid c hz) s = .next (vuFinish v hz t))
    ∧ (VuReady 0x13 none c v s t → exec (.tanh c hz) s = .next (vuFinish v hz t))
    ∧ (VuReady 0x20 (some false) c v s t → exec (.rowSum c hz) s = .next (vuFinish v hz t))
    ∧ (VuReady 0x20 (some true) c v s t → exec (.rowMax c hz) s = .next (vuFinish v hz t))
    ∧ (VuReady 0x28 none c v s t → exec (.softmaxRow c hz) s = .next (vuFinish v hz t))
    ∧ (VuReady 0x29 none c v s t → exec (.normRow c hz) s = .next (vuFinish v hz t))
    ∧ (VuReady 0x30 none c v s t → exec (.cast c hz) s = .next (vuFinish v hz t))

/-- The compute commands issue (R99, R153, R201, R428 to R435): the products, block runs, attention runs and vector
operations they ask for begin, with the version references they hold. -/
def Obligations.ComputeCommandsIssue : Prop :=
  ∀ (s : State) (q : Nat) (p : Packet),
    (HeadReady 0x20 q p s → bit (p.par 27 1) 0 = false → mmMemStatus s (q % 64) p = 0 →
        diesIssue s (diesOf (p.par 52 4)) = true → ∀ r, r = acquireAt s (q % 64) (p.par 16 8) (p.par 24 2) → r.2.1 = 0 →
        exec (.matmul q) s = .next (mmMemStart q p r.2.2 r.1))
    ∧ (HeadReady 0x20 q p s → bit (p.par 27 1) 0 = true → mmHandleStatus s (q % 64) p = 0 →
        diesIssue s [coreDie (p.par 56 1)] = true → exec (.matmul q) s = .next (mmHandleStart q p s))
    ∧ (HeadReady 0x24 q p s → attnStatus s (q % 64) p = 0 → diesIssue s (diesOf (p.par 20 4)) = true →
        exec (.attn q) s = .next (attnStart q p s))
    ∧ (HeadReady 0x25 q p s → vecStatus s (q % 64) p = 0 → diesIssue s [coreDie (p.par 0 1)] = true →
        exec (.vec q) s = .next (vecStart q p s))
    ∧ (HeadReady 0x42 q p s → p.par 4 4 = 1 → allZero (p.params.drop 8) = true →
        exec (.versionRelease q) s =
          .next (completeNow ((s.blk.stashes.filter (·.ctx == q % 64)).foldl releaseStash s) q p stOk 0))
    ∧ (HeadReady 0x42 q p s → p.par 4 4 = 0 → allZero (p.params.drop 8) = true →
        ∀ t, findStash s (q % 64) (p.par 0 4) = some t →
        exec (.versionRelease q) s = .next (completeNow (releaseStash s t) q p stOk 0))

/-- The block commands issue (R153 to R160, R200 to R202, R217 to R219): the layers' descriptors are read, the version
records reached and referenced, and the run of the block begins. -/
def Obligations.BlockCommandsIssue : Prop :=
  ∀ (s : State) (q : Nat) (p : Packet) (d : State × Nat × Descs) (v : State × Nat × List Nat) (a : State × Nat),
    blockShape s (q % 64) 0 p = 0 ∧ HeadReady 0x21 q p s ∨ blockShape s (q % 64) 1 p = 0 ∧ HeadReady 0x22 q p s →
    diesIssue s (diesOf (bpClusters p)) = true →
    d = readDescs s (q % 64) (bpLayers p) (bpTable p) (p.op != 0x21) → d.2.1 = 0 →
    layersStatus (p.op - 0x21) p d.2.2 = 0 → blockRegions d.1 (q % 64) p = 0 →
    stashStatus d.1 (q % 64) (p.op - 0x21) p d.2.2.layers = 0 →
    coresFenced d.1 (partsOf (bpClusters p) (bpG p) (bpTokens p / 128)) = 0 →
    v = reachAll d.1 (q % 64) d.2.2.layers → v.2.1 = 0 →
    a = acquireAll v.1 (List.zipWith (fun pa l => (pa, l.version)) v.2.2 d.2.2.layers) → a.2 = 0 →
    ∀ refs bufs, refs = List.zipWith (fun pa l => (pa, l.version)) v.2.2 d.2.2.layers →
    bufs = refs.map (fun r => bufOf v.1 r.1 r.2) →
    (p.op = 0x22 → anyMeet (blockOuts 1 p d.2.2.layers) (blockIns p d.2.2 bufs) = false) →
    exec (if p.op = 0x21 then .blockFwd q else .blockTrain q) s = .next (blockStart (p.op - 0x21) q p refs
      (List.zipWith (fun b l => { l with buf := b }) bufs d.2.2.layers) a.1)

/-- BLOCK_BWD issues over the versions that its stash holds, once the records its layers name are reached (R201, R202,
R217). -/
def Obligations.BlockBackwardIssues : Prop :=
  ∀ (s : State) (q : Nat) (p : Packet) (d : State × Nat × Descs) (v : State × Nat × List Nat),
    HeadReady 0x23 q p s → blockShape s (q % 64) 2 p = 0 → diesIssue s (diesOf (bpClusters p)) = true →
    d = readDescs s (q % 64) (bpLayers p) (bpTable p) true → d.2.1 = 0 → layersStatus 2 p d.2.2 = 0 →
    stashStatus d.1 (q % 64) 2 p d.2.2.layers = 0 →
    coresFenced d.1 (partsOf (bpClusters p) (bpG p) (bpTokens p / 128)) = 0 →
    v = reachAll d.1 (q % 64) d.2.2.layers → v.2.1 = 0 →
    ∀ refs bufs, refs = List.zipWith (fun pa l => (pa, l.version))
      (((findStash v.1 (q % 64) (bpTag p)).elim [] (·.refs)).map (·.1)) d.2.2.layers →
    bufs = refs.map (fun r => bufOf v.1 r.1 r.2) →
    anyMeet (blockOuts 2 p d.2.2.layers) (blockIns p d.2.2 bufs) = false →
    exec (.blockBwd q) s = .next (blockStart 2 q p refs
      (List.zipWith (fun b l => { l with buf := b }) bufs d.2.2.layers) v.1)

/-- The cores' engines step (R85 to R97, R99 to R104): a held batch starts, a site takes a product, a pass issues and
retires, a drain is written, a fault is taken. -/
def Obligations.CoreEnginesStep : Prop :=
  ∀ s : State,
    (∀ n b, s.cp.batches[n]? = some b → dieRuns s 5 = true → inSlot s b.ctx = true →
        b.openUs + batchWindow s b.ctx ≤ s.nowUs →
        exec (.batchWindowExpiry n) s = .next (kickAll (startBatch b s)))
    ∧ (∀ n b r, s.cp.batches[n]? = some b → dieRuns s 5 = true → (s.pdk (s.ctx b.ctx).pdk).loaded = true →
        (s.pdk (s.ctx b.ctx).pdk).run = some r → r.ctx = b.ctx → usUntil s (boundaryNs s r.endStride) ≤ b.budget →
        exec (.batchBudgetDeadline n) s = .next (kickAll (startBatch b s)))
    ∧ (∀ c site p, c < 256 → site < 3 → dieRuns s (coreDie c) = true → gateReady (kickAll s) (coreCluster c) = true →
        nextProduct (kickAll s) c site = some p → firstWanting (kickAll s) c site p.id = true →
        exec (.productTake c site) s = .next (takeProduct c site (kickAll s) p))
    ∧ (∀ c site, c < 256 → site < 3 → dieRuns s (coreDie c) = true → idleOn s c site ≠ [] → passesOn s c site < 3 →
        (idleOn s c site).all (fun p => passReady s p site) = true → gateReady s (coreCluster c) = true →
        exec (.passIssue c site) s = .next (kickAll (issuePass site (idleOn s c site) s)))
    ∧ (∀ c site, c < 256 → site < 3 → dieRuns s (coreDie c) = true → oldestPass s c site ≠ [] →
        injected s c site (oldestPass s c site) = none →
        exec (.passRetire c site) s = .next (kickAll (sweepAcc (retirePass s c site (oldestPass s c site)))))
    ∧ (∀ c n hz p, c < 256 → dieRuns s (coreDie c) = true → (drainsOf s c)[n]? = some p → drainMayRun s p = true →
        scrubHolds s c = false → exec (.drainDone c n hz) s = .next (finishDrain p hz s))
    ∧ (∀ c site kind (info : W64), c < 256 → site < 10 → 1 ≤ kind → kind ≤ 6 → dieRuns s (coreDie c) = true →
        exec (.coreFault c site kind info) s =
          .next (kickAll (sweepAcc (coreFaultAt s c site kind (info.toNat % 2)))))

/-- The core pads' steps run (R139 to R146): the patrol, the end of a scrub, and bank-group power. -/
def Obligations.PadStepsRun : Prop :=
  ∀ (s : State) (c g : Nat), c < 256 → g < 8 → dieRuns s (coreDie c) = true →
    (∀ w b f, w < 2048 → bit (s.reg (coreBlk c + 0x400)) 0 = true → Tbl.get 0 s.pad.patrol c = w → xWaits s c = false →
        (groupOf s c (w / 256)).st < 2 → ∀ s' line, line = 2 ^ 17 * c + 64 * w →
        s' = foundCells (s.onPad fun p => { p with patrol := Tbl.set 0 p.patrol c ((w + 1) % 2048) }) line (4 ^ (b % 64) * f) →
        exec (.padPatrolRead c w b f) s =
          .next (checkCells (useWords s' c w 1) c 3 none none ((List.range 64).map (line + ·))).1)
    ∧ (∀ e, s.pad.scrubs.find? (·.core == c) = some e →
        exec (.padScrubDone c) s = .next (kickAll (s.onPad fun p => { p with scrubs := p.scrubs.erase e })))
    ∧ (bit (s.reg (coreBlk c + 0x400)) 8 = true → (groupOf s c g).st = 0 → groupUncovered s c g = true →
        (groupOf s c g).lastUse + bits (s.reg (coreBlk c + 0x400)) 16 8 ≤ s.nowUs →
        exec (.bankGroupGateRequest c g) s = .next (setGroup s c g 1))
    ∧ ((groupOf s c g).st = 1 → groupUncovered s c g = true → staleWrites s c g = false →
        exec (.bankGroupGated c g) s = .next (gateGroup s c g))
    ∧ ((groupOf s c g).st = 3 → exec (.bankGroupWakeDone c g) s = .next (kickAll (setGroup s c g 0)))
    ∧ ((groupOf s c g).st = 1 → staleWrites s c g = true →
        exec (.gateAbandon 0 (8 * c + g)) s = .next (gateAbort (setGroup s c g 0) (coreDie c)))

/-- The saddlebag's steps run (R175 to R193, R206, R207): stash, offload, fetch, rebuild, park, patrol and scrub. -/
def Obligations.SaddlebagStepsRun : Prop :=
  ∀ (s : State) (r : BRun) (l : Nat),
    (runOf s r.cmd = some r → dieRuns s 0 = true → ended s r.cmd = false →
      (r.polOf l ≠ 1 → l < r.layers.length → r.decided.contains l = false → r.again = false →
        ((List.range r.parts.length).any fun j => r.steps[r.pos.getD j 0]? = some (.fwd l 0)) = true →
        waysReady s r = true →
        (r.polOf l = 2 → exec (.stashReserve r.cmd l) s = .next (kickAll (reserveOffload s r l)))
        ∧ (∀ bs, r.polOf l ≠ 2 → pickBlocks s r l = some bs → exec (.stashReserve r.cmd l) s = .next (kickAll
          (hold (updRun s r.cmd fun r => { r with decided := l :: r.decided }) r l 0 bs)))
        ∧ (r.polOf l ≠ 2 → pickBlocks s r l = none →
          exec (.stashReserve r.cmd l) s = .next (kickAll (demote s r l true))))
      ∧ (∀ t, s.blk.stored.find? (fun t => t.cmd == r.cmd && t.layer == l && t.use ≤ 1 && !t.landed) = some t →
        allHold s r l = true → exec (.stashCopyLanded r.cmd l) s = .next (copyStash r l t s))
      ∧ (∀ o, s.blk.offloads.find? (fun o => o.cmd == r.cmd && o.layer == l && o.st == 0) = some o →
        (o.direct = true → allHold s r l = true → exec (.offloadDrainDone r.cmd l) s = .next (drainPads r l o s))
        ∧ (∀ t, o.direct = false →
          s.blk.stored.find? (fun t => t.cmd == r.cmd && t.layer == l && t.use == 1 && t.landed) = some t →
          exec (.offloadDrainDone r.cmd l) s = .next (drainBlocks r l o t s)))
      ∧ (∀ o, r.kind ≠ 0 → bwdBegun r (min (l + bpLead r.pkt) (r.layers.length - 1)) = true →
        offloadOf s r l = some o → o.tried ≠ bwdLayer r + 1 → storedOf s r l = none →
        s.blk.stored.any (fun t => t.cmd == r.cmd && t.layer == l) = false → allHold s r l = false →
        waysReady s r = true → exec (.offloadFetchStart r.cmd l) s = .next (startFetch r l o s))
      ∧ (∀ t o, s.blk.stored.find? (fun t => t.cmd == r.cmd && t.layer == l && t.use == 3 && !t.landed) = some t →
        offloadOf s r l = some o →
        (∀ s' b, viaLead r o = false → offloadBytes s r o l 0 (r.xBytes l) = (s', some b) →
          exec (.offloadFetchDone r.cmd l) s = .next (fetchIn r l t b s'))
        ∧ (∀ s', viaLead r o = false → offloadBytes s r o l 0 (r.xBytes l) = (s', none) →
          exec (.offloadFetchDone r.cmd l) s = .next (kickAll (dropStored s' fun u => u = t)))
        ∧ (viaLead r o = true → (s.mov.remote.any fun m => match m.dst with
            | .sth c k _ => c == r.cmd && k == l
            | _ => false) = false →
          exec (.offloadFetchDone r.cmd l) s =
            .next (kickAll (updStored (beatWays s r) t fun t => { t with landed := true }))))
      ∧ (rebuildDue s r l = true → waysReady s r = true →
        exec (.rebuildRun r.cmd l) s = .next (rebuildNow r l s)))
    ∧ (∀ c t, c < 256 → dieRuns s (coreDie c) = true → scrubHolds s c = false → parkStep s c = some t →
        exec (.parkTransfer c) s = .next (kickAll t))
    ∧ (∀ d w n, d < 4 → w < 768 * 2048 → n = 2 ^ 21 * d + w → dieRuns s d = true → bit (s.reg (saddleBlk d)) 0 = true →
        (gateOf s (fuWay d (w / 2048 / 48))).st = 0 → sthBusy s d = false →
        exec (.sthPatrolRead d w 0) s = .next (sthCheck s 1 none (· == n)).1
        ∧ (s.blk.ue.contains n = false → exec (.sthPatrolRead d w 1) s =
            .next (sthCheck (s.onBlk fun b => { b with sym := insertAsc n b.sym }) 1 none (· == n)).1)
        ∧ exec (.sthPatrolRead d w 2) s = .next (sthCheck
            (s.onBlk fun b => { b with ue := insertAsc n b.ue, sym := b.sym.erase n }) 1 none (· == n)).1)
    ∧ (∀ d e keep, d < 4 → dieRuns s d = true → s.blk.scrubs.find? (·.1 == d) = some e →
        keep = (fun w => !(w / 2 ^ 21 == d && e.2.2.contains (w % 2 ^ 21 / 2048))) →
        exec (.saddlebagScrubDone d) s = .next (restoreRest (s.onBlk fun b => { b with
          scrubs := b.scrubs.erase e
          mem := b.mem.filter fun c => keep (c.1 / 32)
          ue := b.ue.filter keep
          sym := b.sym.filter keep }) e.2.1))

/-- The collective commands issue (R33, R286, R300, R312 to R317): the tree record is read, the regions and parameters are
good, one of the 64 places is free for it, the step is open (and, for a sealing reduction, every tail before it is sent), and
the member's part of the collective begins. -/
def Obligations.CollectiveCommandsIssue : Prop :=
  ∀ (s : State) (q : Nat) (p : Packet) (r : State × Nat × Tree), (askPlace s q).2 = true →
    (HeadReady 0x30 q p s → diesIssue s (diesOf (p.par 56 4)) = true → r = readTree s (q % 64) (p.par 32 8) → r.2.1 = 0 →
        collStatus s (q % 64) (reduceStatus p) (p.par 56 4) r.2.2
          ((if r.2.2.root || bit (p.par 52 4) 0 then [(p.par 8 8, p.par 16 4 * fmtBytes (numFmt (p.par 28 4)))] else [])
            ++ (if p.par 64 8 = 0 then [] else [(p.par 64 8, 64)]))
          ([(p.par 0 8, p.par 16 4 * fmtBytes (numFmt (p.par 20 4)))] ++ [(p.par 32 8, 64)]) = 0 →
        (bit (p.par 52 4) 1 = true → maySeal s (q % 64) (p.par 44 4) = true) →
        ∀ s', stepIssue r.1 (q % 64) (p.par 44 4) = some s' →
        exec (.reduce q) s = .next (collStart q p (p.par 56 4) (fun id => reduceStart p id r.2.2) (askPlace s' q).1))
    ∧ (HeadReady 0x31 q p s → diesIssue s (diesOf (p.par 104 4)) = true → r = readTree s (q % 64) (p.par 56 8) →
        r.2.1 = 0 →
        collStatus s (q % 64) (lrStatus p) (p.par 104 4) r.2.2 (lrOuts p r.2.2) (lrIns p ++ [(p.par 56 8, 64)]) = 0 →
        (bit (p.par 100 4) 0 = true → maySeal s (q % 64) (p.par 84 4) = true) →
        ∀ s', stepIssue r.1 (q % 64) (p.par 84 4) = some s' →
        exec (.reduceLr q) s = .next (collStart q p (p.par 104 4) (fun id => lrStart p id r.2.2) (askPlace s' q).1))
    ∧ (HeadReady 0x32 q p s → diesIssue s (diesOf (p.par 40 4)) = true → r = readTree s (q % 64) (p.par 24 8) →
        r.2.1 = 0 →
        collStatus s (q % 64) (copyStatus false p) (p.par 40 4) r.2.2 [(p.par 8 8, p.par 16 4)]
          ((if r.2.2.root then [(p.par 0 8, p.par 16 4)] else []) ++ [(p.par 24 8, 64)]) = 0 →
        exec (.broadcast q) s = .next (collStart q p (p.par 40 4) (fun id => broadcastStart p id r.2.2) (askPlace r.1 q).1))
    ∧ (HeadReady 0x33 q p s → diesIssue s (diesOf (p.par 40 4)) = true → r = readTree s (q % 64) (p.par 24 8) →
        r.2.1 = 0 →
        collStatus s (q % 64) (copyStatus true p) (p.par 40 4) r.2.2 [(p.par 8 8, p.par 32 2 * p.par 16 4)]
          ([(p.par 0 8, p.par 16 4)] ++ [(p.par 24 8, 64)]) = 0 →
        exec (.allgather q) s = .next (collStart q p (p.par 40 4) (fun id => allgatherStart p id r.2.2) (askPlace r.1 q).1))

/-- The commands of the update die issue (R329 to R332, R350, R355): UPDATE and PRECOND begin with their entries, and
RULE_LOAD installs a good image once no update command of the context runs. -/
def Obligations.UpdateCommandsIssue : Prop :=
  ∀ (s : State) (q : Nat) (p : Packet) (r : State × Nat × List Byte),
    (HeadReady 0x40 q p s → updateStatus s (q % 64) p.params = 0 → fenced s fuUpdate = false →
        r = vaRead s 4 (q % 64) (upList p.params) (64 * upEntries p.params) → r.2.1 = 0 →
        ∀ e, e = entriesStatus r.1 (q % 64) r.2.2 (upEntries p.params) → e.2.1 = 0 → e.2.2 = 0 →
        updateOverlap e.1 (q % 64) p.params r.2.2 (upEntries p.params) = false →
        exec (.update q) s = .next (updateStart q p r.2.2 e.1))
    ∧ (HeadReady 0x41 q p s → 1 ≤ fieldLE p.params 8 2 → fieldLE p.params 8 2 ≤ 1024 → allZero (slice p.params 11 5) = true →
        allZero (p.params.drop 24) = true → modeOf s (q % 64) (pcRule p.params) = 3 → fenced s fuUpdate = false →
        r = vaRead s 4 (q % 64) (fieldLE p.params 0 8) (8 * fieldLE p.params 8 2) → r.2.1 = 0 →
        exec (.precond q) s = .next (precondStart q p r.2.2 r.1))
    ∧ (HeadReady 0x43 q p s → 1 ≤ p.par 8 4 → p.par 8 4 ≤ 4096 → allZero (p.params.drop 12) = true →
        (runningInCtx s (q % 64)).any (fun c => c.op == 0x40 || c.op == 0x41) = false →
        r = vaRead s 4 (q % 64) (p.par 0 8) (64 + 8 * p.par 8 4) → r.2.1 = 0 → ruleImageOk r.2.2 (p.par 8 4) = true →
        exec (.ruleLoad q) s = .next (completeNow (r.1.updCtx (q % 64) fun k => { k with rule := r.2.2 }) q p stOk 0))

/-- The packets of collectives and of update trees are taken (R220, R221, R294 to R305, R319, R332, R336 to R338): each
reaches the collective or the entry that it names, and the answers free, resend or decide. -/
def Obligations.CollectivePacketsTaken : Prop :=
  ∀ (s : State) (port : Nat) (k : FPkt), awake s = true →
    (RxReady 0x21 2 port k s → ∀ s' c, s' = takenRx 2 port k s → (ctxOfJob s' (chunkOfBytes k.pay).job).isNone = false →
        collFor s' (chunkOfBytes k.pay).job (chunkOfBytes k.pay).serial = some c →
        (∀ j, (chunkOfBytes k.pay).kind = 0 → childOf c k.src = some j →
          exec (.chunk port) s = .next (kickRed (takeUp s' port k c j (chunkOfBytes k.pay))))
        ∧ ((chunkOfBytes k.pay).kind ≠ 0 → c.root = false → k.src = c.parent →
          exec (.chunk port) s = .next (kickRed (takeDown s' port k c (chunkOfBytes k.pay)))))
    ∧ (RxReady 0x22 2 port k s → ∀ s' c j, s' = takenRx 2 port k s → (ctxOfJob s' (hdrOfBytes k.pay).job).isNone = false →
        collFor s' (hdrOfBytes k.pay).job (hdrOfBytes k.pay).serial = some c → childOf c k.src = some j →
        exec (.tail port) s = .next (kickRed (updColl s' c.cmd c.serial fun c => { c with
          tails := c.tails ++ [(j, hdrOfBytes k.pay)] })))
    ∧ (RxReady 0x23 2 port k s → ∀ s' c, s' = takenRx 2 port k s → (ctxOfJob s' (hdrOfBytes k.pay).job).isNone = false →
        collFor s' (hdrOfBytes k.pay).job (hdrOfBytes k.pay).serial = some c → c.root = false → k.src = c.parent →
        exec (.result port) s = .next (kickRed (takeResult s' c (hdrOfBytes k.pay))))
    ∧ (RxReady 0x03 0 port k s → ∀ s' e, s' = takenRx 0 port k s → (ctxOfJob s' k.job).isNone = false →
        replicaFor s' k = some e → exec (.reserve port) s = .next (kickUpd (takeEarly s' k)))
    ∧ (RxReady 0x24 2 port k s → ∀ s' e, s' = takenRx 2 port k s → (ctxOfJob s' k.job).isNone = false →
        replicaFor s' k = some e → exec (.notice port) s = .next (kickUpd (takeEarly s' k)))

/-- The answers of collectives and of update trees are taken (R296, R300, R319, R337, R338). -/
def Obligations.CollectiveAnswersTaken : Prop :=
  ∀ (s : State) (port : Nat) (k : FPkt) (s' : State), s' = takenRx 1 port k s → k.gen = s'.gen k.ctx →
    (RxReady 0x17 1 port k s → exec (.chunkAck port) s =
        .next (kickRed (s'.onRed fun r => { r with retain := r.retain.filter fun e => !e.named k })))
    ∧ (RxReady 0x18 1 port k s → ∀ r, s'.red.retain.find? (·.named k) = some r →
        exec (.chunkAgain port) s = .next (kickRed (transmit s' r.unit r.dest r.ctx r.chunk)))
    ∧ (RxReady 0x19 1 port k s → exec (.refused port) s = .next (s'.onRed fun r => { r with
        retain := r.retain.map fun e => if e.named k then { e with refused := true } else e }))
    ∧ (RxReady 0x1A 1 port k s → ∀ mine : Retained → Bool, (∀ e : Retained, mine e = (e.refused && e.dest == k.src
          && e.ctx == k.ctx && e.chunk.job == k.job && e.chunk.serial == k.tag)) →
        exec (.issued port) s = .next (kickRed ((s'.red.retain.filter mine).foldl
          (fun s e => transmit s e.unit e.dest e.ctx e.chunk)
          (s'.onRed fun r => { r with retain := r.retain.map fun e => if mine e then { e with refused := false } else e }))))
    ∧ (RxReady 0x14 1 port k s → ∀ e, askedEntry s' k = some e → (e.phase = 1 ∨ e.phase = 11) →
        exec (.grant port) s = .next (kickUpd (grantsIn (s'.updEntry e.id fun e => { e with
          grants := e.grants ++ [k.src]
          refused := if bit k.aux 0 then e.refused else mergeRefusal e.refused (bits k.aux 8 8)
          heldFrom := match e.heldFrom, fieldLE k.pay 0 8 with
            | h, 0 => h
            | none, n + 1 => some n
            | some a, n + 1 => some (min a n)
          heldTo := max e.heldTo (fieldLE k.pay 8 8) }) e.id)))
    ∧ (RxReady 0x1C 1 port k s → ∀ e u, askedEntry s' k = some e → u = s'.updEntry e.id (fun e => { e with
          grants := e.grants ++ [k.src]
          refused := if k.aux % 256 = 0 then e.refused else some (k.aux % 256) }) →
        exec (.copyStatus port) s = .next (kickUpd (if e.replica then settleCopy u e.id else settleOwner u e.id)))

/-- The update die's own events run (R220, R319, R332, R351, R357): a reservation asks again, a landed copy commits, a waiting
UPDATE finds its step sealed, a task takes its turn, an uncorrectable word or a parity error ends its task, and a corrected
word is counted. -/
def Obligations.UpdateEventsRun : Prop :=
  ∀ s : State,
    (∀ v r e, s.upd.resvs.find? (·.vrec == v) = some r → s.updEnt? r.entry = some e → alive s = true →
        exec (.reservationGrant v) s = .next (kickUpd (grantsIn (tryOwn s e) e.id)))
    ∧ (∀ id e c, s.updEnt? id = some e → e.phase = 12 → alive s = true → collOf s e.cmd e.serial = some c → c.kind = 5 →
        (c.downFail || c.result.any fun h => decide (h.chunks ≤ c.got.length)) = true →
        exec (.multicastLanded id) s = .next (kickUpd (landReplica s e c c.result)))
    ∧ (∀ id u, s.updCmd? id = some u → alive s = true → u.sealed = false → stepSealed s u.ctx (upStep u.params) = true →
        exec (.updateSealReady id) s = .next (kickUpd (s.updCmdRec id fun u => { u with sealed := true })))
    ∧ (∀ t e r, dieRuns s 4 = true → s.upd.running = none → fenced s fuUpdate = false → oldestTask s = some t →
        s.updEnt? t.entry = some e → r = resumeTask t e (s.onUpd fun u => { u with running := some t.id }) → r.2 = 0 →
        exec .updTaskSwitch s = .next r.1)
    ∧ (∀ (addr : W64) t, runningTask s = some t → dieRuns s 4 = true →
        exec (.updStreamUe 0 addr) s = .next (kickUpd (failTask (updLatch (memUe s addr.toNat 0 false (some t.ctx)) 0 1 0
          ((s.updEnt? t.entry).elim 0 (·.layerId)) t.ctx) t stAborted)))
    ∧ (∀ kind (addr : W64) t, 1 ≤ kind → kind < 3 → runningTask s = some t → dieRuns s 4 = true →
        exec (.updStreamUe kind addr) s = .next (kickUpd (failTask (fenceEvent (updLatch s kind (kind + 1) 0
          ((s.updEnt? t.entry).elim 0 (·.layerId)) t.ctx) fuUpdate) t stAborted)))
    ∧ (∀ (addr : W64) t, runningTask s = some t → dieRuns s 4 = true →
        exec (.updStreamUe 3 addr) s = .next (s.count64 (updBlk + 0x40) 1))

/-- Each lane-by-lane operation of a rule runs when its word is the next (R348): the lanes of its destination take the
operation's value lane by lane, the operations are charged, and the task goes past the word. -/
def Obligations.RuleLaneOperationsRun : Prop :=
  ∀ (s : State) (t : Task) (e : UpdEntry),
    let w := ruleWord (s.ctx t.ctx).rule t.pc
    let lanes := fun (f : Nat → Nat → Nat → Nat) (n : Nat) =>
      pastInstr ((s.charge t.ctx acOps (n * aluLanes t e.desc)).updTask t.id fun t' => t'.setV (wVd w)
        (((List.range (aluLanes t e.desc)).map fun i => f ((t.vreg (wVa w)).getD i 0)
          ((if wBs w then List.replicate 4096 (t.s (wVb w)) else t.vreg (wVb w)).getD i 0)
          ((if wCs w then List.replicate 4096 (t.s (wVc w)) else t.vreg (wVc w)).getD i 0))
          ++ (t.vreg (wVd w)).drop (aluLanes t e.desc))) t
    (NextWord 0x01 t e s → exec .vadd s = .next (lanes (fun a b _ => toF32 (fadd (ofF32 a) (ofF32 b))) 1))
    ∧ (NextWord 0x02 t e s → exec .vsub s = .next (lanes (fun a b _ => toF32 (fadd (ofF32 a) (ofF32 b).neg)) 1))
    ∧ (NextWord 0x03 t e s → exec .vmul s = .next (lanes (fun a b _ => toF32 (fmul (ofF32 a) (ofF32 b))) 1))
    ∧ (NextWord 0x04 t e s → exec .vfma s =
        .next (lanes (fun a b c => toF32 (fadd (fmul (ofF32 a) (ofF32 b)) (ofF32 c))) 2))
    ∧ (NextWord 0x05 t e s → exec .vmax s = .next (lanes (fun a b _ => toF32 (fmaxIeee (ofF32 a) (ofF32 b))) 1))
    ∧ (NextWord 0x06 t e s → exec .vmin s = .next (lanes (fun a b _ => toF32 (fminIeee (ofF32 a) (ofF32 b))) 1))
    ∧ (NextWord 0x07 t e s → exec .vabs s = .next (lanes (fun a _ _ => toF32 (ofF32 a).abs) 1))
    ∧ (NextWord 0x08 t e s → exec .vneg s = .next (lanes (fun a _ _ => toF32 (ofF32 a).neg) 1))
    ∧ (NextWord 0x09 t e s → exec .vcmplt s =
        .next (lanes (fun a b _ => if flt (ofF32 a) (ofF32 b) then f32Nat 1 else 0) 1))
    ∧ (NextWord 0x0A t e s → exec .vsel s =
        .next (lanes (fun a b c => toF32 (if (ofF32 a).isZero then ofF32 c else ofF32 b)) 1))
    ∧ (NextWord 0x10 t e s → exec .vrcp s = .next (lanes (fun a _ _ => toF32 (vuRcp (ofF32 a))) 1))
    ∧ (NextWord 0x11 t e s → exec .vrsqrt s = .next (lanes (fun a _ _ => toF32 (vuRsqrt (ofF32 a))) 1))
    ∧ (NextWord 0x12 t e s → exec .vsqrt s = .next (lanes (fun a _ _ => toF32 (sqrt32 (ofF32 a))) 1))
    ∧ (NextWord 0x13 t e s → exec .vexp2 s = .next (lanes (fun a _ _ => toF32 (vuExp2 (ofF32 a))) 1))
    ∧ (NextWord 0x14 t e s → exec .vlog2 s = .next (lanes (fun a _ _ => toF32 (vuLog2 (ofF32 a))) 1))

/-- The words of a rule that sum, move data and steer run when they are the next (R348, R349, R351, R355). -/
def Obligations.RuleMoveAndControlWordsRun : Prop :=
  ∀ (s : State) (t : Task) (e : UpdEntry) (w : Nat), w = ruleWord (s.ctx t.ctx).rule t.pc →
    (NextWord 0x18 t e s → ∀ xs,
        xs = ((List.range (aluLanes t e.desc)).filter (accLane t e w)).map (fun i => ofF32 ((t.vreg (wVa w)).getD i 0)) →
        exec .vacc s = .next (pastInstr
          (({ s with free := s.free + xs.length + 1 }.charge t.ctx acOps (aluLanes t e.desc)).updTask t.id fun t' =>
            t'.setS (wSd w) (toF32 (freeSum add32 s.free (ofF32 (t.s (wSd w)) :: xs)))) t))
    ∧ (NextWord 0x20 t e s → ∀ r, r = loadLanes s t e w → r.2.1 = 0 →
        exec .vld s = .next (pastInstr (r.1.updTask t.id fun t' => t'.setV (wVd w) r.2.2) t))
    ∧ (NextWord 0x21 t e s → ∀ r, r = writeLanes s t e w → r.2 = 0 → exec .vst s = .next (pastInstr r.1 t))
    ∧ (NextWord 0x22 t e s → ∀ r, r = slotRows s (wSel w) (fourRows t w) →
        exec .vldc s = .next (pastInstr (r.1.updTask t.id fun k => k.setV (wVd w)
          (r.2.flatMap fun l => List.replicate 1024 (l.getD (t.col w) 0))) t))
    ∧ (NextWord 0x23 t e s → ∀ r, r = slotRows s (wSel w) [t.row w] →
        exec .vldr s = .next (pastInstr (r.1.updTask t.id fun k => k.setV (wVd w)
          ((List.range 4).flatMap fun _ => r.2.headD [])) t))
    ∧ (NextWord 0x24 t e s → ∀ r, r = slotRows s (wSel w) (fourRows t w) →
        exec .vldw s = .next (pastInstr (r.1.updTask t.id fun k => k.setV (wVd w) r.2.flatten) t))
    ∧ (NextWord 0x25 t e s → exec .vstw s = .next (pastInstr ((List.range 4).foldl (fun s u =>
        if t.row w + u < 1024 then
          setStoreRow s (wSel w) (t.row w + u) (slice (t.vreg (wVa w)) (1024 * u) 1024) else s) s) t))
    ∧ (NextWord 0x26 t e s → ∀ r, r = blockIn s t.ctx (wSel w) (pdStat e.desc (statBlock t e.desc w).1)
          (statBlock t e.desc w).2 → r.2 = 0 → exec .wld s = .next (pastInstr (r.1.beat (dieCpath 4 0)) t))
    ∧ (NextWord 0x27 t e s → ∀ r, r = blockOut s t.ctx (wSel w) (pdStat e.desc (statBlock t e.desc w).1) → r.2 = 0 →
        exec .wst s = .next (pastInstr (r.1.beat (dieCpath 4 0)) t))
    ∧ (NextWord 0x30 t e s → exec .sop s = .next (pastInstr ((s.charge t.ctx acOps 1).updTask t.id fun k =>
        k.setS (wSd w) (toF32 (sopValue (wSel w) (ofF32 (t.s (wVa w))) (ofF32 (t.s (wVb w))) (ofF32 (t.s (wVc w)))))) t))
    ∧ (NextWord 0x38 t e s → exec .loop s = .next (pastInstr (s.updTask t.id fun t => { t with
        lc := t.lc.set (wSd w % 4 - 1) 0
        loops := (t.pc + 1, wSd w % 4, t.row w) :: t.loops }) t))
    ∧ (NextWord 0x39 t e s → ∀ a k last rest, t.loops = (a, k, last) :: rest →
        (t.lcAt k < last → exec .endl s = .next (s.updTask t.id fun t' => { t' with
          lc := t'.lc.set (k - 1) (t.lcAt k + 1)
          pc := a }))
        ∧ (last ≤ t.lcAt k → exec .endl s = .next (pastInstr (s.updTask t.id fun t => { t with loops := rest }) t)))
    ∧ (NextWord 0x3C t e s → ∀ r, r = loadUnit (pastInstr (s.updTask t.id fun t' => { t' with
          part := 1
          unit := 0
          pass := 0
          start := t.pc + 1 }) t) { t with unit := 0 } e → r.2 = 0 → exec .body s = .next r.1)
    ∧ (NextWord 0x3D t e s →
        (t.unit + 1 < segUnits t e.desc →
          exec .pass s = .next (retireUnit s t fun t => { t with unit := t.unit + 1, pc := t.start }))
        ∧ (segUnits t e.desc ≤ t.unit + 1 → exec .pass s = .next (retireUnit s t fun t => { t with
          unit := 0
          pass := 1
          pc := t.pc + 1
          start := t.pc + 1 })))
    ∧ (NextWord 0x3E t e s → t.mode = 3 → ∀ r : State × Nat,
        r = (match t.blocks with
          | b :: _ => blockOut s t.ctx 1 (pdRoot e.desc (1 - pdCur e.desc) b.1)
          | [] => (s, 0)) → r.2 = 0 →
        exec .tailInstruction s = .next (retireUnit r.1 t fun t => { t with part := 2, pc := t.pc + 1 }))
    ∧ (NextWord 0x3E t e s → t.mode ≠ 3 →
        (t.unit + 1 < segUnits t e.desc →
          exec .tailInstruction s = .next (retireUnit s t fun t => { t with unit := t.unit + 1, pc := t.start }))
        ∧ (segUnits t e.desc ≤ t.unit + 1 →
          exec .tailInstruction s = .next (retireUnit s t fun t => { t with part := 2, pc := t.pc + 1 })))
    ∧ (NextWord 0x3F t e s → t.root = true →
        (t.blocks.drop 1 = [] → exec .endInstr s = .next (kickUpd (finishRoots s t e)))
        ∧ (∀ b rest, t.blocks.drop 1 = b :: rest → exec .endInstr s =
          .next (kickUpd (nextSeg { t with blocks := b :: rest, seg := segOfBlock e.desc b.1 } e s))))
    ∧ (NextWord 0x3F t e s → t.root = false →
        (t.seg + 1 < pdSegs e.desc → exec .endInstr s =
          .next (kickUpd (nextSeg { t with seg := t.seg + 1 } e (mcastSeg s e e.newBuf t.seg))))
        ∧ (pdSegs e.desc ≤ t.seg + 1 → exec .endInstr s =
          .next (kickUpd (commitOwner (dropTask (mcastSeg s e e.newBuf t.seg) t.id) e))))

/-- The scheduling commands are carried out (R451 to R462, R472, R473): PADDOCK_SET begins a change, CTX_CREATE makes the
context, CTX_TEARDOWN begins, and GAIT_LOAD sets the table that is to come. -/
def Obligations.SchedulingCommandsComplete : Prop :=
  ∀ (s : State) (q : Nat) (p : Packet),
    (HeadReady 0x52 q p s → (s.pdk (p.par 0 1)).change = none →
        (ctxsOf s (p.par 0 1)).all (fun x => (runningInCtx s x).isEmpty) = true → paddockSetOk s p = true →
        holdsRein s Master.pf = true → ∀ i, i = issue s q p [] →
        exec (.paddockSet q) s = .next (i.1.updPdk (p.par 0 1) fun t => { t with
          change := some (i.2, pdkSetOf p, false) }))
    ∧ (HeadReady 0x50 q p s → (s.ctx (p.ctx % 64)).down = none → (s.pdk (p.par 8 1)).change = none →
        createOk s p = true → ∀ c t, c = checkRegions p s → t = putCtx c (p.ctx % 64) (newCtx c p) →
        createOk c p = true → (List.range 4).all (regionOk t (p.ctx % 64)) = true →
        exec (.ctxCreate q) s = .next (completeNow (initHeader
          (t.onFab fun f => { f with sentTo := Tbl.erase f.sentTo (p.ctx % 64) }) (p.ctx % 64)) q p stOk (c.gen (p.ctx % 64))))
    ∧ (HeadReady 0x51 q p s → (s.ctx (p.ctx % 64)).live = true → p.gen = s.gen (p.ctx % 64) → p.par 0 1 < 2 →
        allZero (p.params.drop 1) = true → (s.ctx (p.ctx % 64)).down = none →
        (p.fn = 0 ∨ p.fn = (s.ctx (p.ctx % 64)).fn) →
        exec (.ctxTeardown q) s = .next (beginTeardown q p s))
    ∧ (HeadReady 0x53 q p s → p.par 0 1 < 16 → p.par 2 2 ≤ 256 → p.par 1 1 = 0 → p.par 4 4 = 0 →
        allZero (slice p.params 24 40) = true → holdsRein s Master.pf = true →
        (p.par 2 2 = 0 → exec (.gaitLoad q) s =
          .next (completeNow (s.updPdk (p.par 0 1) fun t => { t with pend := some ([], 0) }) q p stOk 0))
        ∧ (p.par 2 2 ≠ 0 → hostOk s 0 (p.par 16 8) (4 * p.par 2 2) false = true → ∀ es,
          es = (List.range (p.par 2 2)).map (fun i => leNat (hostRead s (p.par 16 8 + 4 * i) 4)) →
          es.all slotEntryOk = true → exec (.gaitLoad q) s = .next (completeNow (s.updPdk (p.par 0 1) fun t => { t with
            pend := some (es.map slotEntry, p.par 8 8) }) q p stOk 0)))

/-- What the scheduler does in its own time runs (R141, R416, R454, R462 to R474): changes of paddock and table take effect,
switches start and end, teardown drains and ends, commands complete. -/
def Obligations.SchedulerStepsRun : Prop :=
  ∀ (s : State) (p : Nat) (rest : List Due), p < 16 →
    (DueHead (.paddockSet p) rest s → ∀ id new, ((takenDue rest s).pdk p).change = some (id, new, false) →
        exec (.paddockSetApply p) s = .next (leaveResources p id new (takenDue rest s)))
    ∧ (∀ id new, alive s = true → (ctxsOf s p).any (scrubbing s) = false → (s.pdk p).change = some (id, new, true) →
        exec (.paddockZeroingDone p) s = .next (zeroResources p new s))
    ∧ (DueHead (.gaitTable p) rest s → ∀ l a, ((takenDue rest s).pdk p).pend = some (l, a) → l ≠ [] →
        exec (.gaitTableEffect p) s = .next ((takenDue rest s).updPdk p fun d => { d with
          pend := none
          table := l
          anchor := a
          loaded := true }))
    ∧ (DueHead (.runEnd p) rest s → exec (.runEnd p) s = .next (endRun (takenDue rest s) p))
    ∧ (DueHead (.slotBegin p) rest s → ∀ s' x, s' = (takenDue rest s).updPdk p (fun d => { d with
          curSlot := (slotOf ((takenDue rest s).pdk p) (takenDue rest s).nowStride).1 }) →
        (((takenDue rest s).pdk p).table[(slotOf ((takenDue rest s).pdk p) (takenDue rest s).nowStride).1]?).bind
          (resolveSlot s' p) = some x →
        exec (.slotBegin p) s = .next (if ((takenDue rest s).pdk p).run.any fun r =>
            r.ctx == x && decide (s'.nowStride < r.endStride) then
            s'.updPdk p fun d => { d with
              curIdle := false
              curCtx := x }
          else beginRun s' p x (slotOf ((takenDue rest s).pdk p) (takenDue rest s).nowStride).1))
    ∧ (∀ r, dieRuns s 0 = true → (s.pdk p).run = some r → r.switched = false → (s.pdk p).loaded = true →
        r.debitUs < runLenUs s r → (s.pdk p).switch.any (fun w => w.2.1 == r.ctx) = false → ∀ t, t = waitUntil s (r.startNs + r.debitUs * 1000) →
        exec (.switchStart p) s = .next ((saveOuts t ((ctxsOf t p).filter fun a => a != r.ctx && (t.ctx a).resident)
          r.ctx).updPdk p fun d => { d with
            switch := some ((ctxsOf t p).filter fun a => a != r.ctx && (t.ctx a).resident, r.ctx,
              (saveOuts t ((ctxsOf t p).filter fun a => a != r.ctx && (t.ctx a).resident) r.ctx).nowUs) }))
    ∧ (∀ outs b t0, dieRuns s 0 = true → (s.pdk p).switch = some (outs, b, t0) → switchWaits s outs b = false →
        ∀ u, u = saveOuts s (switchLeft s outs) b → outs.any (scrubbing u) = false →
        exec (.switchDone p) s = .next (finishSwitch p b t0 u))
    ∧ (∀ x t, x < 64 → alive s = true → (s.ctx x).down = some t → t.phase = 1 →
        exec (.teardownDrainTimeout x) s = .next (teardownScrub (s.updCtx x fun c => { c with
          down := c.down.map fun t => { t with timedOut := true } }) x))
    ∧ (∀ x t, x < 64 → alive s = true → (s.ctx x).down = some t → t.phase = 2 → scrubbing s x = false →
        exec (.teardownDone x) s = .next (endTeardown x t s))
    ∧ (∀ id c, alive s = true → workLeft s id = false → s.cmd? id = some c →
        exec (.commandComplete id) s = .next (afterCommand (finish s id) c.ctx))

/-- Time and its events are taken (R447 to R450, R478, R498, R544, R563): the stride boundary, the values committed there, the
accounting snapshot, and the expiries that are due. -/
def Obligations.TimeStepsRun : Prop :=
  ∀ (s : State) (rest : List Due) (fn : Nat) (v : W64),
    (aon s = true → s.tim.due = [] → exec .strideBoundary s = .next (takeBoundary s))
    ∧ (DueHead .strideValues rest s → exec .strideValuesCommit s = .next ((takenDue rest s).onTim fun t => { t with
        period := (takenDue rest s).fld timBlk 0 14
        baseStride := (takenDue rest s).reg (timBlk + 0x8)
        baseNs := (takenDue rest s).reg (timBlk + 0x10)
        loadNow := false }))
    ∧ (DueHead .snapshot rest s → exec .accountingSnapshot s = .next (applyClears (snapshotAll (takenDue rest s))))
    ∧ (DueHead .capStep rest s → exec .gaitCapStepDown s = .next
        (((takenDue rest s).setReg (powerBlk + 0x10) (min 2 (gaitCap (takenDue rest s) + 1))).latch (powerBlk + 0x2C) 2))
    ∧ (∀ u, DueHead (.fenceWindow u) rest s → exec (.fenceWindowExpiry u) s =
        .next ((takenDue rest s).onHlt fun h => { h with fenceCount := Tbl.erase h.fenceCount u }))
    ∧ (∀ k n, DueHead (.nonce k) rest s →
        s.grm.nonces.find? (fun n => n.stride + 1000 ≤ (takenDue rest s).nowStride) = some n →
        exec (.nonceExpiry k) s = .next ((takenDue rest s).onGrm fun g => { g with nonces := g.nonces.erase n }))
    ∧ (owWrite s fn = true → exec (.timCommitStride fn v) s =
        .next ((touchReg s fn (timBlk + 0x18)).setReg (timBlk + 0x18) v.toNat))
    ∧ (owWrite s fn = true → bit v.toNat 0 = true → exec (.loadNow fn v) s =
        .next ((touchReg s fn (timBlk + 0x20)).onTim fun t => { t with loadNow := true }))
    ∧ (∀ a, owWrite s fn = true → (a = accBlk + 0x8 ∨ a = accBlk + 0x10) → exec (.accClear fn a v) s =
        .next (markClear (touchReg s fn a) a v.toNat))

/-- Power and gaits step as their rules say (R552 to R571): the gait is committed, Walk and Halt are entered and left, the
rails answer or time out, the limiter's loops and the thermal rules run, wake pins and power domains act. -/
def Obligations.PowerStepsRun : Prop :=
  ∀ (s : State) (rest : List Due), alive s = true →
    (DueHead .gait rest s → exec .gaitCommit s = .next (commitGait (takenDue rest s)))
    ∧ (DueHead .walkGate rest s → s.pwr.phase = 2 → s.pwr.target = 3 →
        s.cp.cmds.all (fun c => !isContextQueue c.pkt.q) = true → s.sch.pdks.all (fun p => p.2.switch.isNone) = true →
        ∀ t, t = (takenDue rest s).onPwr (fun p => { p with walkGated := true, gait := 3 }) →
        exec .walkGate s =
          .next (gaitSettle (requestVolts (((memUnits t).filter (· < 8)).foldl requestSelfRefresh t) 3)))
    ∧ (s.pwr.phase = 2 → s.pwr.target = 4 → railsWaiting s = false → (memUnits s).all (fun u => (srUnit s u).st == 2) = true →
        exec .haltEntryDone s = .next (s.onPwr fun p => { p with gait := 4, phase := 0, commanded := 4 }))
    ∧ (DueHead .haltExit rest s → s.pwr.gait = 4 → s.pwr.phase = 0 → ∀ t, t = takenDue rest s →
        exec .haltExitBegin s = .next (trainAll (requestVolts (t.onPwr fun p => { p with
          phase := 3
          target := max (resumeGait t) (gaitCap t)
          commanded := resumeGait t
          wake := false }) (max (resumeGait t) (gaitCap t)))))
    ∧ (s.pwr.gait = 4 → s.pwr.phase = 3 → railsWaiting s = false → s.pwr.rails.any (·.again) = false →
        exec .haltExitDone s = .next (((zeroSram s).onPwr fun p => { p with
          gait := p.target
          phase := 0
          walkGated := false }).onCp fun c => { c with fetching := s.boot.ready }))
    ∧ (∀ r mv, r < 6 → (rail s r).waiting = true → exec (.avsAck r mv) s = .next (gaitSettle (setRail s r
        { rail s r with ack := (rail s r).req, mv := mv % 4096, waiting := false })))
    ∧ (∀ r t, r < 6 → (rail s r).waiting = true → s.pwr.phase ≠ 1 →
        t = logEvent ((s.latch (powerBlk + 0x2C) 0).count32 (powerBlk + 0x48) 1) clsFault 0 groomCpath none r →
        t.pwr.phase ≠ 1 →
        exec (.avsTimeout r) s = .next (gaitSettle (setRail t r { rail t r with waiting := false, again := true })))
    ∧ (∀ rails w, s.boot.fuses = true → exec (.powerEstimate rails w) s = .next (energyReads (rails.drop 12) (powerSample rails w s)))
    ∧ (s.boot.fuses = true → exec .slowLoopTick s = .next (slowLoop s))
    ∧ (∀ k t, sensorExists k = true → exec (.thermalSensorRead k t) s = .next (senseTemp k t s))
    ∧ exec .thermalLimitTick s = .next (s.onPwr fun p => { p with
        thermalW := if anyHot s then (if p.thermalW ≤ 600 then p.thermalW else max 600 (p.thermalW - 25))
          else if allCool s && !p.extThrottle then min Config.fuseCeilingW (p.thermalW + 25)
          else p.thermalW })
    ∧ exec .thermThrottleAssert s = .next ((s.latch (powerBlk + 0x2C) 6).onPwr fun p => { p with
        extThrottle := true
        thermalW := sustainedW s / 2 })
    ∧ exec .thermThrottleRelease s = .next (s.onPwr fun p => { p with extThrottle := false })
    ∧ (∀ n high, n < 4 → bit s.pwr.wakeLevel n ≠ high → bit (s.reg (powerBlk + 0x40)) (4 + n) = high →
        bit (s.reg (powerBlk + 0x40)) n = true →
        exec (.wakePinEvent n high) s =
          .next (wakeEvent (s.onPwr fun p => { p with wakeLevel := setBit p.wakeLevel n high }) n))
    ∧ (∀ g, g < 32 → dieRuns s (clusterDie g) = true → bit (s.reg (diePowerBlk (clusterDie g))) 0 = true →
        clusterQuiet s g = true → (gateOf s g).st ≤ 1 →
        exec (.clusterGate g) s = .next (setGate s g (if clusterTraffic s g then 1 else 2)))
    ∧ (∀ k w lo keep, k < 4 → w < 16 → dieRuns s k = true → bit (s.reg (diePowerBlk k)) 1 = true → wayEmpty s k w = true →
        (gateOf s (fuWay k w)).st = 0 → lo = 2 ^ 26 * k + 65536 * 48 * w →
        keep = (fun (i : Nat) => decide (32 * i < lo) || decide (lo + 65536 * 48 ≤ 32 * i)) →
        exec (.wayGate k w) s = .next ((setGate s (fuWay k w) 2).onBlk fun b => { b with
          mem := memZero b.mem lo (lo + 65536 * 48)
          ue := b.ue.filter keep
          sym := b.sym.filter keep }))
    ∧ (∀ k, k < 32 ∨ 352 ≤ k ∧ k < 416 → dieRuns s (if k < 32 then clusterDie k else (k - 352) / 16) = true →
        (gateOf s k).st = 3 → exec (.domainWakeDone k) s = .next (setGate s k 0))

/-- The host's accesses to its rings act (R405 to R413, R419, R421, R385): doorbells move the ring's indices, ENABLE starts or
stops it, a packet is fetched, an entry is written or goes to the lead, and a packet for a seat is relayed. -/
def Obligations.RingStepsRun : Prop :=
  ∀ (s : State) (fn n q : Nat), hostUp s = true → ringOf s fn n = some q →
    (∀ v w, w = doorbellWake (touchReg s fn (doorbellKey n 0)) → ringFetching (w.ring q) = true →
        (v % 2 ^ 32 + 2 ^ 32 - (w.ring q).sqHead) % 2 ^ 32 ≤ sqSize (w.ring q) →
        exec (.sqTail fn n v) s = .next (queueRing q (w.updRing q fun r => { r with sqTail := v % 2 ^ 32 })))
    ∧ (∀ v w, w = doorbellWake (touchReg s fn (doorbellKey n 4)) → (w.ring q).enabled = true →
        (v % 2 ^ 32 + 2 ^ 32 - (w.ring q).cqHead) % 2 ^ 32 ≤ ((w.ring q).cqTail + 2 ^ 32 - (w.ring q).cqHead) % 2 ^ 32 →
        exec (.cqHead fn n v) s = .next (w.updRing q fun r => { r with cqHead := v % 2 ^ 32 }))
    ∧ (∀ v w, w = (touchReg s fn (ringCtlReg fn n)).updRing q (fun r => { r with ctl := ctlFields r fn v }) →
        ((s.ring q).enabled = false → bit v 0 = true → enableCause w fn (w.ring q) = 0 →
          exec (.ringEnable fn n v) s = .next (w.updRing q fun r => { r with
            enabled := true
            draining := false
            err := false
            errCause := 0
            sqTail := 0
            sqHead := 0
            cqTail := 0
            cqHead := 0 }))
        ∧ ((s.ring q).enabled = true → bit v 0 = false →
          exec (.ringDisable fn n v) s = .next (w.updRing q fun r => { r with enabled := false, draining := ringBusy w q })))
    ∧ (∀ plen, q < 128 → mayFetch s q = true → oldestRing s q = true → slotsOk s (ringFn s q) (s.ring q) (s.ring q).sqHead 1 = true →
        plen = headPlen s q → 1 + plen ≤ ringAvail s q →
        slotsOk s (ringFn s q) (s.ring q) (s.ring q).sqHead (1 + plen) = true →
        exec (.packetFetch q) s = .next (takePacket q plen (fetchedPkt s q plen) s))
    ∧ (∀ c rest, q < 256 → dieRuns s 5 = true → oldestDone s q = true → Tbl.get [] s.cp.done q = c :: rest →
        (∀ lead epoch, c.lead = some (lead, epoch) → exec (.completionWrite q) s = .next (relayEntry q c lead epoch s))
        ∧ (c.lead = none → cqFull s q = false → (s.ring q).enabled = true →
            hostOk s (ringFn s q) (entryAddr s q) 32 true = true →
            exec (.completionWrite q) s = .next (writeEntry q c s)))
    ∧ (∀ p, q < 128 → s.headPkt q = some p → forSeat s p = true → dieRuns s 5 = true → cqFull s q = false →
        relayWaits s q (p.hdr 4 2) p = false →
        levelShared s (p.hdr 4 2) = true → relayUsed s (p.hdr 4 2) q < 8 → s.fab.purging.contains (p.hdr 4 2) = false →
        (originate s (relayPkt s q p)).1 = true →
        exec (.relaySend q) s = .next (noteRelayed q p (originate s (relayPkt s q p)).2))

/-- The other host accesses act (R259, R260, R401, R403, R404, R439 to R442): translations are dropped, windows are written,
their requests end, ATS invalidations are taken, the DOE mailbox answers, the debug window reads and writes, and virtual
functions are enabled. -/
def Obligations.HostAccessesRun : Prop :=
  ∀ (s : State) (fn f : Nat), hostUp s = true →
    (∀ v : W64, s.vfEnabled fn = true → fn < 17 →
        exec (.tlbInvalidate fn v) s = .next (tlbInvalidate (touchReg s fn (fnBlk fn + 0x1100)) fn v.toNat))
    ∧ (∀ i, Tbl.get none s.host.tlbInv fn = some i → s.mov.flight.any (fun r => i.reqs.contains r.id) = false →
        exec (.tlbInvDone fn) s = .next (s.onHost fun h => { h with tlbInv := Tbl.erase h.tlbInv fn }))
    ∧ (∀ n (v : W128), f < 17 → n < 16 →
        exec (.windowWrite 0 f n v) s = .next (writeWindow (touchReg s 0 (windowReg f n)) f n v))
    ∧ (∀ l, Tbl.get none s.host.winBusy f = some l → s.mov.flight.any (fun r => l.contains r.id) = false →
        exec (.winBusyClear f) s = .next (s.onHost fun h => { h with winBusy := Tbl.erase h.winBusy f }))
    ∧ (∀ page pages, s.vfEnabled fn = true → fn < 17 → exec (.atsInvalidation fn page pages) s =
        .next (settleAts (s.onHost fun h => { h with atsInv := h.atsInv ++ [(fn, page, pages,
          (s.mov.flight.filter fun r => r.host && r.fn == fn
            && meets (r.va / 4096) ((r.va + r.len + 4095) / 4096 - r.va / 4096) page pages).map (·.id))] })))
    ∧ (∀ idx, exec (.doeDiscovery idx) s = .next (s.onHost fun h => { h with
        doeOut := toLE 4 1 ++ toLE 4 3 ++ toLE 4 (if idx % 256 = 0 then 0x01000001
          else if idx % 256 = 1 then 0x00010001 else 0xFFFF) }))
    ∧ (∀ off len a, off + len ≤ 2 ^ 36 → a = s.fld dbgCtl 0 3 * 2 ^ 36 + off →
        ∀ r, r = checkWords s a len none →
        (r.2 = false → exec (.bar4Read off len) s =
          .next (r.1.onRegs fun g => { g with
            out := dpaRead r.1 a len
            outPoisoned := false }))
        ∧ (r.2 = true → exec (.bar4Read off len) s =
          .next (r.1.onRegs fun g => { g with
            out := List.replicate len 0xFF#8
            outPoisoned := true })))
    ∧ (∀ off (d : List Byte), off + d.length ≤ 2 ^ 36 → bit (s.reg dbgCtl) 3 = true → holdsRein s Master.pf = true →
        exec (.bar4Write off d) s = .next (dpaPut s (s.fld dbgCtl 0 3 * 2 ^ 36 + off) d none).1)
    ∧ (∀ on, 1 ≤ f → f ≤ 16 →
        exec (.vfEnable f on) s = .next (s.onHost fun h => { h with vfEn := setBit h.vfEn f on }))

/-- The host's register accesses act (R9 to R16, R32, R109, R380, R386, R400, R507, R547, R602): BAR0 reads and writes whole
registers and parts of them, and the writes that are rows of their own write their register. -/
def Obligations.RegisterAccessesRun : Prop :=
  ∀ (s : State) (fn addr n : Nat) (v : W64),
    (busOk s fn addr n = true → exec (.regReadLowHalf fn addr n) s = .next (busRead s fn addr n)
        ∧ exec (.regWriteLowHalf fn addr n v) s = .next (busWrite s fn addr n v.toNat)
        ∧ exec (.regWrite fn addr n v) s = .next (busWrite s fn addr n v.toNat))
    ∧ (busOk s 0 addr 4 = true → (latchNames addr).isNone = false →
        exec (.errLatchWrite 0 addr v) s = .next (busWrite s 0 addr 4 v.toNat))
    ∧ (busOk s fn addr 4 = true → addr = dmaUdBlk ∨ addr = dmaBlk 0 ∨ addr = dmaBlk 1 ∨ addr = dmaBlk 2 ∨ addr = dmaBlk 3 →
        exec (.capWrite fn addr v) s = .next (busWrite s fn addr 4 v.toNat))
    ∧ (∀ c, c < 256 → busOk s fn (coreBlk c) 4 = true → bit v.toNat 12 = true →
        exec (.injArm fn c v) s = .next (busWrite s fn (coreBlk c) 4 v.toNat))
    ∧ (n = (if addr = healthBlk + 0x88 then 4 else 8) → busOk s fn addr n = true → healthBlk ≤ addr →
        fenceBits (addr - healthBlk) ≠ 0 → addr % n = 0 →
        exec (.fenceBitWrite fn addr v) s = .next (busWrite s fn addr n v.toNat))
    ∧ (busOk s fn (groomBlk + 0x1000) 4 = true →
        (bit v.toNat 8 = true →
          exec (.recoveryChunkWrite fn v) s = .next (busWrite s fn (groomBlk + 0x1000) 4 v.toNat))
        ∧ (bit v.toNat 9 = true →
          exec (.recoveryFinish fn v) s = .next (busWrite s fn (groomBlk + 0x1000) 4 v.toNat)))
    ∧ (∀ k, alive s = true → s.grm.recBusy = some k → exec .recoveryChunkDone s = .next (s.onGrm fun g => { g with
        staging := memWriteN g.staging (65536 * k) (memReadN g.recWindow 0 65536)
        recBusy := none }))
    ∧ (∀ u, u < 56 → owWrite s fn = true →
        (bit v.toNat 0 = true → exec (.redInjArm fn u v) s = .next (redCtlWrite u v (touchReg s fn (redBlk u))))
        ∧ exec (.injHold fn u v) s = .next (redCtlWrite u v (touchReg s fn (redBlk u))))
    ∧ (owWrite s fn = true → linkRuns s 0 = true →
        (bit v.toNat 0 = true → exec (.check fn v) s = .next (routeCtlWrite (touchReg s fn trcBlk) v.toNat))
        ∧ exec (.trcCommitStride fn v) s = .next ((touchReg s fn (trcBlk + 0x8)).setReg (trcBlk + 0x8) v.toNat)
        ∧ exec (.relayReset fn v) s = .next (relayResetWrite (touchReg s fn (trcBlk + 0x14)) v.toNat))
    ∧ (∀ p, p < 24 → owWrite s fn = true → linkRuns s p = true →
        (bit v.toNat 1 = true → exec (.retrain fn p v) s = .next (linkCtl (touchReg s fn (linkBlk p)) p v.toNat))
        ∧ exec (.linkEnable fn p v) s = .next (linkCtl (touchReg s fn (linkBlk p)) p v.toNat))

/-- The trace ports' own steps run (R361 to R367, R370, R381, R382, R384): flits are taken or refused, replay, training and its
end, the loss of signal or alignment, and the egress of packets. -/
def Obligations.LinkStepsRun : Prop :=
  ∀ (s : State) (p : Nat), p < 24 → linkRuns s p = true →
    (∀ (f : List Byte) fec, linkUpish (portOf s p) = true → f.length = 256 →
        (65536 ≤ fec → exec (.flitReceive p f fec) s =
          .next (nakFlit p ((s.count64 (linkBlk p + 0x28) 1).latch (linkBlk p + 0x18) 0)))
        ∧ (∀ t, fec < 65536 → t = s.count64 (linkBlk p + 0x20) fec →
          (flitCrcOk f = false → exec (.flitReceive p f fec) s =
            .next (nakFlit p ((t.count64 (linkBlk p + 0x30) 1).latch (linkBlk p + 0x18) 1)))
          ∧ (flitCrcOk f = true → flitType f = 0 → exec (.flitReceive p f fec) s = .next (pump (takeAck t p f) p))
          ∧ (flitCrcOk f = true → flitType f = 1 ∨ flitType f = 2 → flitSeq f = (portOf t p).rxSeq →
            exec (.flitReceive p f fec) s = .next (takeFlit p f t))
          ∧ (flitCrcOk f = true → flitType f = 1 ∨ flitType f = 2 → flitSeq f ≠ (portOf t p).rxSeq →
            exec (.flitReceive p f fec) s = .next (nakFlit p t))))
    ∧ (linkUpish (portOf s p) = true → exec (.replayTimeout p) s = .next (replayPort s p)
        ∧ exec (.fecAlignLoss p) s = .next (retrainPort s p))
    ∧ (∀ on, exec (.signalDetect p on) s = .next (updPort s p fun q => { q with signal := on }))
    ∧ (∀ h, (portOf s p).st = 1 → (portOf s p).signal = true → bit (s.reg (linkBlk p)) 0 = true →
        exec (.trainingComplete p h) s = .next (takeTraining p h s))
    ∧ (∀ n, (portOf s p).st = 1 → (portOf s p).signal = true → n = (portOf s p).failed + 1 →
        (n < 3 → exec (.trainingTimeout p) s =
          .next (updPort s p fun q => { q with failed := n, trainUs := s.nowUs }))
        ∧ (∀ t, 3 ≤ n → t = updPort s p (fun q => { q with failed := n, st := 5 }) → exec (.trainingTimeout p) s =
          .next (fenceEvent (logEvent (t.latch (linkBlk p + 0x18) 3) clsLink 3 (portCpath p) none 0) (fuPort p))))
    ∧ (∀ t, (portOf s p).st ≠ 1 → inRecovery s 4 p = false → t = fillTokens (dropUncarried s p) p →
        linkUpish (portOf t p) = true →
        (242 ≤ (portOf t p).txStream.length → exec (.packetEgress p) s = .next (pump t p))
        ∧ ((portOf t p).txStream.length < 242 → (∀ i, pickEgress t p = some i →
            exec (.packetEgress p) s = .next (pump (startPkt t p i) p))
          ∧ (pickEgress t p = none → (portOf t p).txStream ≠ [] → (portOf t p).replay.length < 512 →
            exec (.packetEgress p) s = .next (cutFlit t p))))

/-- The requests of other devices are carried out (R245 to R248, R372, R383 to R387): remote writes and reads, relayed
packets, host requests, purges, marks and drains. -/
def Obligations.FabricRequestsTaken : Prop :=
  ∀ (s : State) (port : Nat) (k : FPkt),
    (awake s = true →
      (RxReady 0x01 0 port k s → ∀ t x pa, remotePlace (takenRx 0 port k s) k true = (t, some (x, pa)) →
          exec (.remoteWrite port) s = .next (remoteStore k x pa t))
      ∧ (RxReady 0x02 0 port k s → ∀ t x pa, remotePlace (takenRx 0 port k s) k false = (t, some (x, pa)) →
          exec (.remoteRead port) s = .next (remoteLoad k x pa t))
      ∧ (RxReady 0x04 0 port k s → ∀ t p, t = takenRx 0 port k s → p = relayedPacket t k → contextCheck t p.q p = 0 →
          exec (.relayCmd port) s = .next (queueRelayed p t))
      ∧ (RxReady 0x05 0 port k s → s.host.linkUp = true →
          exec (.hostReq port) s = .next (hostServe k (takenRx 0 port k s)))
      ∧ (RxReady 0x06 0 port k s → exec (.relayPurge port) s = .next (sendPkt ((takenRx 0 port k s).onCp fun c =>
          { c with waiting := c.waiting.filter (·.1 < 128) }) (answer k 0x1D []))))
    ∧ (∀ v t, v < 3 → RxReady 0x0E v port k s → t = takenRx v port k s →
        (∀ u, u < v → (rxOf s port u).head?.any (·.type == 0x0E) = false) →
        exec (.orderMark port) s = .next (sendPkt t { mkPkt 0x39 3 k.src [] with aux := k.vc }))
    ∧ (∀ v t, v < 3 → RxReady 0x0F v port k s → t = takenRx v port k s →
        (∀ u, u < v → (rxOf s port u).head?.any (·.type == 0x0F) = false) →
        exec (.drain port) s = .next (if bothHold t k.src k.ctx k.gen then answerDrain t k
          else t.onFab fun f => { f with drains := f.drains ++ [k] }))

/-- The answers to this device's requests are taken (R245 to R248, R372, R383, R385 to R387, R473): each ends the request that
its tag names, with its data or its status; `hz` is the alias hazard its landing reports (R138). -/
def Obligations.FabricAnswersTaken : Prop :=
  ∀ (s : State) (port : Nat) (k : FPkt) (t : State), t = takenRx 1 port k s →
    (∀ r u, k.gen = t.gen k.ctx → t.mov.remote.find? (·.tag == k.tag) = some r → u = dropRemote t k.tag →
        (RxReady 0x11 1 port k s → exec (.writeAck port) s = .next (kickEngines u))
        ∧ (RxReady 0x12 1 port k s → ∀ hz, exec (.readData (port + 32 * hz)) s = .next (kickEngines (landAnswer u r k.pay hz)))
        ∧ (RxReady 0x13 1 port k s → exec (.nack port) s = .next (kickEngines (endCmd u r.cmd (bits k.aux 0 8))))
        ∧ (RxReady 0x16 1 port k s → ∀ hz,
          (bits k.aux 0 8 ≠ 0 → exec (.hostResp (port + 32 * hz)) s = .next (kickEngines (endCmd u r.cmd (bits k.aux 0 8))))
          ∧ (bits k.aux 0 8 = 0 → r.kind = 3 →
            exec (.hostResp (port + 32 * hz)) s = .next (kickEngines (landAnswer u r k.pay hz)))
          ∧ (bits k.aux 0 8 = 0 → r.kind = 6 → ∀ c, u.cmd? r.cmd = some c → c.ended = false →
            exec (.hostResp (port + 32 * hz)) s = .next (kickEngines (scaleReadSend c u)))
          ∧ (bits k.aux 0 8 = 0 → r.kind ≠ 3 → r.kind ≠ 6 →
            exec (.hostResp (port + 32 * hz)) s = .next (kickEngines u))))
    ∧ (RxReady 0x15 1 port k s → bits k.aux 0 4 = Tbl.get 0 t.fab.epoch k.src → ∀ r, t.fab.relayed.find? (fun r =>
          r.seat == k.src && r.q == bits k.aux 16 16 && r.serial == fieldLE k.pay 0 4) = some r →
        exec (.relayCpl port) s =
          .next ((setRelayed t (t.fab.relayed.erase r)).addCpl r.q (relayedCpl r k.pay)))
    ∧ (RxReady 0x1D 1 port k s → exec (.purgeAck port) s =
        .next (t.onFab fun f => { f with purging := f.purging.filter (· != k.src) }))
    ∧ (RxReady 0x1B 1 port k s → k.gen = t.gen k.ctx → ∀ d w u, (t.ctx k.ctx).down = some d → d.phase = 1 →
        d.waitFor.contains (4 * k.src + k.tag) = true → w = d.waitFor.filter (· != 4 * k.src + k.tag) →
        u = t.updCtx k.ctx (fun c => { c with down := some { d with waitFor := w, dropped := d.dropped + k.aux } }) →
        exec (.drainReturn port) s = .next (if w = [] then teardownScrub u k.ctx else u))

/-- The management packets of the fabric are taken (R372 to R374, R378, R382, R383, R386, R389, R390, R531). -/
def Obligations.FabricManagementTaken : Prop :=
  ∀ (s : State) (port : Nat) (k : FPkt) (t : State), t = takenRx 3 port k s →
    (RxReady 0x31 3 port k s →
        (isReply k.pay = true → exec (.mgmt port) s = .next (takeReply t [] k.src k.pay))
        ∧ (isReply k.pay = false → exec (.mgmt port) s = .next (queueVc3 t
          { master := ⟨3, false, k.src, 0⟩, bytes := k.pay, cmd := none, replyAddr := 0, list := [] })))
    ∧ (RxReady 0x32 3 port k s → ∀ i c m, i = fieldLE k.pay 16 1 → c = fieldLE k.pay 17 1 → c ≤ 16 → i ≤ c →
        m = k.pay.drop 32 →
        (isReply m = true → i = 0 → exec (.directed port) s = .next (takeReply t (k.pay.take 16) 0 m))
        ∧ (isReply m = true → i ≠ 0 → exec (.directed port) s =
          .next (sendDirected t (fieldLE (k.pay.take 16) (i - 1) 1) (k.pay.take 16) (i - 1) c m))
        ∧ (isReply m = false → i = c → exec (.directed port) s = .next (queueVc3 t
          { master := ⟨3, true, 0, port⟩, bytes := m, cmd := none, replyAddr := 0, list := k.pay.take 18 }))
        ∧ (isReply m = false → i ≠ c → exec (.directed port) s = .next (sendDirected t (fieldLE (k.pay.take 16) i 1)
          (if i = 0 then k.pay.take 16 else patch (k.pay.take 16) (i - 1) (toLE 1 port)) (i + 1) c m)))
    ∧ (RxReady 0x33 3 port k s → port < 24 → ∀ ps,
        (k.aux % 2 = 0 → exec (.sync port ps) s =
          .next (sendNbr t port { mkPkt 0x33 3 0 (toLE 8 ps ++ toLE 8 ps) with aux := 1 }))
        ∧ (∀ t1, k.aux % 2 = 1 → t.fab.syncT1 = some t1 → port = t.fab.parentPort → t.fab.tState ≠ 0 →
          exec (.sync port ps) s =
            .next (takeOffset t (syncOffset t1 (fieldLE k.pay 0 8) (fieldLE k.pay 8 8) ps))))
    ∧ (RxReady 0x34 3 port k s → port < 24 → (t.boot.devIdValid = false ∨ k.addr % 4096 ≠ t.devId) →
        exec (.announce port) s = .next (hearCand
          ⟨k.addr % 4096, bits k.aux 0 8, min 63 (bits k.aux 8 24 + 1), port, t.nowUs⟩ t))
    ∧ (RxReady 0x35 3 port k s →
        (ctxOfJob t k.job = none → exec (.abort port) s =
          .next (t.onHlt fun h => { h with abortsIgnored := satAdd 11 h.abortsIgnored 1 }))
        ∧ (∀ x, ctxOfJob t k.job = some x → exec (.abort port) s =
          .next (kickEngines (holdCtx (logEvent (t.onHlt fun h => { h with abortsIn := satAdd 11 h.abortsIn 1 })
            clsAbort 1 (fieldLE k.pay 4 2) (some x) 0) x))))
    ∧ (RxReady 0x36 3 port k s → port < 24 →
        exec (.tableXchg port) s = .next (if bit k.aux 2 then takeReport t port k else takeTablePkt port k t))
    ∧ (RxReady 0x37 3 port k s → exec (.genNotice port) s =
        .next (answerDrains (raiseGen (raiseGen t 0 k.src k.ctx k.gen) 1 k.src k.ctx k.gen)))
    ∧ (RxReady 0x38 3 port k s → ∀ u, u = t.onFab (fun f => { f with
          gens := f.gens.filter fun e => !(e.1 % 2 ^ 18 / 64 == k.src) }) →
        exec (.restart port) s = .next (if seatOfMine u k.src then resetRelay u k.src else u))
    ∧ (RxReady 0x39 3 port k s → ∀ m, markOf t (k.aux % 4) k.src = some m →
        exec (.orderAck port) s = .next (endMark t m))

/-- The timers of the fabric act, where what they wait for has not arrived (R29, R372, R378, R380, R389 to R392, R396), and a passed table is committed at its stride. -/
def Obligations.FabricTimersRun : Prop :=
  ∀ (s : State),
    (∀ tag r, alive s = true → s.mov.remote.find? (·.tag == tag) = some r →
        arrived s (fun k => [0x11, 0x12, 0x13, 0x16].contains k.type && k.tag == tag) = false →
        exec (.respTimeout tag) s = .next (kickEngines (endCmd (dropRemote s tag) r.cmd stTimeout)))
    ∧ (∀ p, p < 24 → linkRuns s p = true → (awaits s p = true ∨ awaits s (32 + p) = true) → tableHere s p = false →
        exec (.routeCheckTimeout p) s = .next (refuseTable s p 0 6))
    ∧ (linkRuns s 0 = true →
      (∀ d v m, markOf s v d = some m → arrived s (fun k => k.type == 0x39 && k.src == d && k.aux % 4 == v) = false →
          exec (.orderAckTimeout d v) s = .next (endMark (s.count32 (trcBlk + 0x30) 1) m))
      ∧ (∀ ps, s.fab.tState ≠ 0 → exec (.syncTimer ps) s =
          .next (sendNbr (s.onFab fun f => { f with syncT1 := some ps }) s.fab.parentPort (mkPkt 0x33 3 0 [])))
      ∧ (∀ c, bestCand s = some c → exec .announceTimer s = .next ((upPorts s).foldl (fun s p =>
          sendNbr s p { mkPkt 0x34 3 0 [] with addr := c.dev, aux := c.prio + 256 * c.hops }) s))
      ∧ (∀ d, exec (.candidateTimeout d) s =
          .next (reparent (s.onFab fun f => { f with cands := f.cands.filter (·.dev != d) })))
      ∧ (s.fab.tState = 1 ∨ s.fab.tState = 2 → exec .holdoverTimeout s =
          .next (s.onFab fun f => { f with tState := 3, okCount := 0, holdUs := s.nowUs }))
      ∧ (s.fab.tState = 3 → exec .syncLostTimeout s = .next (s.onFab fun f => { f with syncLost := true })))
    ∧ (∀ rest t, DueHead .routeTable rest s → t = (takenDue rest s).setReg (trcBlk + 0x8) 0 →
        exec .routeTableCommit s = .next (if t.fab.pendSt = 2 then commitTable t else t))

/-- The health engine's steps run (R468, R507, R519 to R528, R533 to R540, R544), and the rein opens when its lease ends (R501). -/
def Obligations.HealthStepsRun : Prop :=
  ∀ (s : State) (rest : List Due),
    (DueHead .hoofbeat rest s → exec .hoofbeatCheck s = .next (checkHooves (takenDue rest s)))
    ∧ (∀ x, DueHead (.overrunLimit x) rest s → lateCmds (takenDue rest s) x ≠ [] → exec (.overrunLimit x) s =
        .next (endLate x (lateCmds (takenDue rest s) x) (takenDue rest s)))
    ∧ (DueHead .telemetry rest s → ∀ t, t = takenDue rest s → exec .telemetrySample s =
        .next ((t.onGrm fun g => { g with telem := (telemRecord t :: g.telem).take 64 }).onPwr fun p => { p with
          telemStretch := t.reg (powerBlk + 0x30) }))
    ∧ (DueHead .reinLease rest s → s.grm.holder.cls ≠ 0 → s.grm.expiry ≤ (takenDue rest s).nowStride →
        exec .reinLeaseExpiry s = .next (setHolder (takenDue rest s) Master.none 0 false))
    ∧ (alive s = true →
      (∀ n r, recov? s n 3 = some r → exec (.quiesceEnd n) s = .next (endQuiesce n r s))
      ∧ (∀ n r, recov? s n 5 = some r → (domMems r.dom r.inst).any (fun u => (srUnit s u).st == 1) = false →
          exec (.domainReset n) s = .next (resetDomain (logEvent (setRecov s { r with phase := 6 }) clsReset 0 r.unit none 0
            r.dom) r.dom r.inst))
      ∧ (∀ n r, recov? s n 6 = some r → exec (.domainReturn n) s = .next (returnDomain n r s))
      ∧ (∀ n r, recov? s n 6 = some r → r.dom ≠ 6 → exec (.domainReturnTimeout n) s = .next (escalate r s))
      ∧ (∀ d ds t, s.hlt.dumping = none → s.hlt.dumpQ = d :: ds →
          t = s.onHlt (fun h => { h with dumpQ := ds, dumpSerial := h.dumpSerial + 1 }) →
          (dumpDest t = none → exec .dumpStart s = .next (skipDump d t))
          ∧ (∀ dest base cap, dumpDest t = some (dest, base, cap) →
            exec .dumpStart s = .next (beginDump d dest base cap t)))
      ∧ (∀ c type, c < 2 ^ 16 → exec (.dumpReadTimeout (c + 2 ^ 16 * type)) s = .next (dumpLoses c type s))
      ∧ (∀ d, s.hlt.dumping = some d → exec .dumpDone s = .next (finishDump d s)))

/-- Messages reach the Groom and are taken (R486 to R488, R507, R567), and its other engines answer: a read times out (R496), a
claim is verified (R499), a flash write ends (R512) and a restart ends (R513). -/
def Obligations.GroomStepsRun : Prop :=
  ∀ (s : State), aon s = true →
    (∀ b, (s.grm.mctpq.length < 16 → exec (.mctpMessage b) s = .next (s.onGrm fun g => { g with
          mctpq := g.mctpq ++ [{ master := Master.bmc, bytes := b, cmd := none, replyAddr := 0, list := [] }] }))
        ∧ (16 ≤ s.grm.mctpq.length → exec (.mctpMessage b) s = .next (s.count32 (groomBlk + 0x20) 1)))
    ∧ (∀ m l, s.grm.st = 1 → s.grm.cur = none →
        (s.grm.mctpq = m :: l → exec (.mgmtDequeue 1) s = .next (takeMsg (s.onGrm fun g => { g with mctpq := l }) m))
        ∧ (alive s = true → s.grm.vc3q = m :: l → exec (.mgmtDequeue 2) s = .next (takeMsg (s.onGrm fun g => { g with vc3q := l }) m)))
    ∧ (∀ path q p i, alive s = true → (path = 0 ∧ q = 64 ∨ path = 3 ∧ q = 192) → s.headPkt q = some p → 0x80 ≤ p.op →
        forSeat s p = false → mayIssue s q p = true → s.grm.st = 1 → s.grm.cur = none →
        allZero (slice p.params 8 8) = true → fieldLE (p.params.drop 16) 0 1 = p.op → isReply (p.params.drop 16) = false →
        i = issue s q p [] →
        exec (.mgmtDequeue path) s = .next (takeMsg i.1
          { master := Master.pf, bytes := p.params.drop 16, cmd := some i.2, replyAddr := p.par 0 8, list := [] }))
    ∧ (∀ m, s.grm.st = 1 → s.grm.cur = some m → 0x81 ≤ m.op → m.op ≤ 0x83 → m.ok = true → m.target.isSome = true →
        msgServed s m = true → exec .mgmtReadTimeout s = .next (reply s m stTimeout []))
    ∧ (∀ n c, alive s = true → s.grm.claims[n]? = some c → c.verdict = none →
        (claimOk s c = true → exec (.claimVerified n) s = .next (decideClaims s.grm.claims.length
          (s.onGrm fun g => { g with claims := g.claims.set n { c with verdict := some true } })))
        ∧ (claimOk s c = false → ∀ t, t = reply (countClaim (dropClaim s c) false) c.msg stBadParam [] →
          exec (.claimVerified n) s = .next (decideClaims t.grm.claims.length t)))
    ∧ (∀ m flags img l t u, s.grm.st = 1 → s.grm.activating = (m, flags, img) :: l →
        t = reply (flashImage (s.onGrm fun g => { g with activating := l }) img) m stOk [] →
        u = (if bit flags 1 then t.onGrm fun g => { g with svnFloor := max g.svnFloor (imageSvn img) } else t) →
        exec .fwFlashWriteDone s = .next (if bit flags 0 then groomRestart u else u))
    ∧ (∀ ok, s.grm.st = 2 →
        (imageCheck s.grm.flash s.grm.vendorHash s.grm.svnFloor ok = 0 → exec (.groomRestartDone ok) s =
          .next (reapplyFences (updateLevel (s.onGrm fun g => { g with st := 1, recCause := 0, recError := false }))))
        ∧ (∀ c, c = imageCheck s.grm.flash s.grm.vendorHash s.grm.svnFloor ok → c ≠ 0 → exec (.groomRestartDone ok) s =
          .next (s.onGrm fun g => { g with st := 3, recCause := c, recLive := true })))

/-- The commands that read are answered with what they name (R483, R493 to R496, R546, R572). -/
def Obligations.ManagementReadsServed : Prop :=
  ∀ (s : State) (m : Msg),
    (Serving 0x80 m s → exec .identify s = .next (reply s m stOk (if m.dazal then (words s ((List.range 8).map (4 * ·))).take 16
        else words s ((List.range 8).map (4 * ·)))))
    ∧ (Serving 0x81 m s → ∀ c blk o n, regArgs m 256 = some (c, blk, o, n) → cpathOff s c = false →
        exec .read s = .next (reply s m stOk ((List.range n).map fun i => ((blockKey blk (o + i)).map (viewByte s)).getD 0#8)))
    ∧ (Serving 0x82 m s → ∀ c blk o n d, regArgs m 64 = some (c, blk, o, n) → cpathOff s c = false →
        d = slice m.args 8 n → n ≤ d.length →
        (holdsRein s s.grm.tag = true ∨ (coveredRegs blk o n).any (fun r => ownedReg r.1) = false) →
        ∀ t, t = (coveredRegs blk o n).foldl (fun t r => writeCovered t (holdsRein s s.grm.tag) blk o d r) s →
        exec .write s =
          .next (reply t m (if writesCheck blk o d && t.fab.pendSt == 3 then stBadParam else stOk) []))
    ∧ (Serving 0x83 m s → m.dazal = true → ∀ c t b, m.target = some c → cpathOff s c = false →
        diagRead s c (fieldLE m.payload 6 2) (fieldLE m.payload 8 2) (fieldLE m.payload 10 2) = (t, some b) →
        exec .readDiag s = .next (reply t m stOk b))
    ∧ (Serving 0x84 m s → m.args ≠ [] → m.arg 0 1 ≤ 63 → exec .telemetryRead s =
        .next (reply s m stOk (s.grm.telem.getD (m.arg 0 1) (List.replicate 128 0#8))))
    ∧ (Serving 0x85 m s → m.args ≠ [] →
        (m.arg 0 1 < 64 → exec .accountRead s = .next (reply s m stOk
          ((List.range 128).map fun i => viewByte s (accBlk + 0x1000 + 0x80 * (m.arg 0 1) + i))))
        ∧ (64 ≤ m.arg 0 1 → m.arg 0 1 < 80 → exec .accountRead s = .next (reply s m stOk
          ((List.range 128).map fun i => viewByte s (accBlk + 0x4000 + 0x80 * (m.arg 0 1 - 64) + i)))))
    ∧ (Serving 0x8C m s → exec .reinStatus s = .next (reply s m stOk (longs s [groomBlk, groomBlk + 8])))
    ∧ (Serving 0xA0 m s → ∀ n, n = m.arg 4 2 → 7 ≤ m.args.length → n ≠ 0 → n ≤ m.limit / 32 → m.arg 6 1 ≤ 1 →
        exec .healthLogRead s = .next (reply s m stOk
          ((((if m.arg 6 1 = 1 then s.hlt.flashLog else s.hlt.log).reverse.filter
            fun e => decide (m.arg 0 4 ≤ e.seq)).take n).flatMap LogE.bytes)))
    ∧ (Serving 0xA1 m s → exec .healthStatus s = .next (reply s m stOk (words s [healthBlk + 4]
        ++ longs s [healthBlk + 0x30, healthBlk + 0x40] ++ words s [healthBlk + 0x1C])))
    ∧ (Serving 0xB1 m s → exec .powerStatus s =
        .next (reply s m stOk (words s ([0x4, 0x10, 0x20, 0x24, 0x28, 0x3C].map (powerBlk + ·)))))
    ∧ (Serving 0xB2 m s → exec .railRead s =
        .next (reply s m stOk (longs s ((List.range 6).map fun r => powerBlk + 0x100 + 8 * r)
          ++ words s ((List.range 6).map fun r => powerBlk + 0x140 + 4 * r))))

/-- The commands of ownership, identity, firmware and forwarding are carried out (R375, R497 to R502, R512, R513). -/
def Obligations.OwnershipCommandsServed : Prop :=
  ∀ (s : State) (m : Msg),
    (Serving 0x88 m s → ∀ nonce n, n = (padTo nonce 32).take 32 → exec (.reinNonce nonce) s =
        .next (reply (s.onGrm fun g => { g with
          nonces := g.nonces.filter (fun e => e.path != m.master.cls) ++ [⟨m.master.cls, n, s.nowStride⟩] }) m stOk n))
    ∧ (Serving 0x89 m s → ∀ cycle ok, ok = (s.grm.nonces.find? fun e => e.path == m.master.cls).any (fun e =>
          e.val == slice m.args 12 32 && decide (s.nowStride < e.stride + 1000)) →
        exec (.reinClaim cycle) s = .next (s.onGrm fun g => { g with
          cur := none
          nonces := g.nonces.filter fun e => e.path != m.master.cls
          claims := g.claims ++ [⟨m, cycle, ok, none⟩] }))
    ∧ (Serving 0x8A m s → exec .reinRenew s = .next (reply (renewLease s) m stOk []))
    ∧ (Serving 0x8B m s → ∀ t, 4 ≤ m.args.length → passTarget (m.arg 0 4) = some t → t ≠ s.grm.holder →
        exec .passRein s = .next (reply (renewLease (setHolder s t 0 false)) m stOk []))
    ∧ (Serving 0x8D m s → ∀ v, v = m.arg 0 4 → 4 ≤ m.args.length → v < 4096 → s.boot.devIdValid = false →
        (v % 64 == 0) = s.host.linkUp →
        exec .setId s = .next (reply (reparent (s.onBoot fun b => { b with devId := v, devIdValid := true })) m stOk []))
    ∧ (Serving 0x8E m s → ∀ e, e = slice m.args 4 128 → 132 ≤ m.args.length → m.arg 0 4 < 8 → fieldLE e 96 1 % 2 = 0 →
        fieldLE e 96 1 < 16 → fieldLE e 97 1 < 2 → allZero (slice e 98 30) = true →
        exec .ownerKeysSet s = .next (reply (setOwnerKey s (m.arg 0 4) e) m stOk []))
    ∧ (Serving 0x90 m s → ∀ d, d = m.args.drop 4 → 4 ≤ m.args.length → m.arg 0 4 + d.length ≤ 12582912 →
        exec .fwStage s =
          .next (reply (s.onGrm fun g => { g with staging := memWriteN g.staging (m.arg 0 4) d }) m stOk []))
    ∧ (Serving 0x91 m s → ∀ img, img = s.grm.staging.filter (·.1 < flashConfig) → 4 ≤ m.args.length → m.arg 0 4 < 4 →
        imageCheck img s.grm.vendorHash s.grm.svnFloor true = 0 →
        exec .fwActivate s = .next (s.onGrm fun g => { g with
          cur := none
          activating := g.activating ++ [(m, m.arg 0 4, img)] }))
    ∧ (Serving 0x92 m s → exec .groomRestart s = .next (groomRestart (reply s m stOk [])))
    ∧ (Serving 0x98 m s → ∀ dest cnt b t, dest = m.arg 0 2 → cnt = m.arg 2 1 → b = m.args.drop (3 + cnt) →
        t = s.onGrm (fun g => { g with cur := none, forwards := g.forwards ++ [(m, fieldLE b 2 2)] }) →
        m.master.cls = 1 → 3 + cnt + 16 ≤ m.args.length → dest < 4096 → cnt ≤ 16 → isReply b = false →
        (cnt ≠ 0 → exec .fmForward s =
          .next (sendDirected t (fieldLE (slice m.args 3 cnt) 0 1) (slice m.args 3 cnt) 1 cnt b))
        ∧ (cnt = 0 → dest = s.devId → exec .fmForward s = .next (queueVc3 t
          { master := ⟨3, false, s.devId, 0⟩, bytes := b, cmd := none, replyAddr := 0, list := [] }))
        ∧ (cnt = 0 → dest ≠ s.devId → (originate t (mkPkt 0x31 3 dest b)).1 = true →
          exec .fmForward s = .next (originate t (mkPkt 0x31 3 dest b)).2))

/-- The health and power commands are carried out (R530, R543 to R546, R553, R571, R572). -/
def Obligations.HealthCommandsServed : Prop :=
  ∀ (s : State) (m : Msg),
    (∀ dom c, domArgs m = some (dom, c) →
      (Serving 0xA2 m s → exec .dumpNow s = .next (reply (if dumpOn s then
          queueDump s 3 dom c 0 s.nowStride none (domainCtxs s dom (domInst dom c)) else s) m stOk []))
      ∧ (Serving 0xA3 m s → s.hlt.recovs.find? (fun r => domContains r.dom r.inst dom (domInst dom c)) = none →
          exec .resetDomain s = .next (reply (kickEngines (beginRecovery s dom c 3 [])) m stOk []))
      ∧ (Serving 0xA3 m s → ∀ r, s.hlt.recovs.find? (fun r => domContains r.dom r.inst dom (domInst dom c)) = some r →
          exec .resetDomain s = .next (reply (if r.phase = 7 && r.dom == dom then
            ((domMems r.dom r.inst).filter fun u => (memUnits s).contains u).foldl requestSelfRefresh
              (setRecov s { r with phase := 5 }) else s) m stOk [])))
    ∧ (Serving 0xA4 m s → ∀ u, 3 ≤ m.args.length → fenceTarget (m.arg 0 2) = some u →
        exec .fenceSet s = .next (reply (kickEngines (fenceTo (bit (m.arg 2 1) 0) s u)) m stOk []))
    ∧ (Serving 0xA5 m s → 2 ≤ m.args.length → exec .jobAbort s =
        .next (reply (kickEngines (originateAbort s (m.arg 0 2) 4 0xFFFF s.nowStride)) m stOk []))
    ∧ (Serving 0xA6 m s → exec .logClear s =
        .next (reply (s.onHlt fun h => { h with flashLog := [], flashFences := [] }) m stOk []))
    ∧ (Serving 0xB0 m s → ∀ t, 16 ≤ m.args.length → allZero (slice m.args 1 7) = true → m.arg 0 1 ≤ 4 →
        (m.arg 0 1 = 4 → s.sch.ctxs.any (·.2.live) = false) → haltChanging s = false →
        t = s.onPwr (fun p => { p with pending := some (m.arg 0 1, m.arg 8 8) }) →
        exec .gaitSet s = .next (reply (if m.arg 0 1 < 3 then wakeEvent t 5 else t) m stOk []))

/-- Every SPDM request is answered in its turn with what R509 and R510 name, the layouts being those of assumption log 34. -/
def Obligations.AttestationAnswers : Prop :=
  ∀ (s : State) (path : Nat) (req : List Byte) (x : Spdm),
    aon s = true → (path % 2 = 1 ∨ hostUp s = true) → s.grm.st = 1 → x = spdmOf s path →
    (4 ≤ req.length → fieldLE req 1 1 = 0x84 → exec (.getVersion path req) s = .next (spdmVca s path Spdm.empty 1 req
        (toLE 1 0x10 ++ toLE 1 0x04 ++ toLE 2 0 ++ toLE 1 0 ++ toLE 1 1 ++ toLE 2 0x1300)))
    ∧ (4 ≤ req.length → fieldLE req 1 1 = 0xE1 → 1 ≤ x.st → ∀ f, f = freeBytes s 9 →
        exec (.getCapabilities path req) s = .next (spdmVca f.1 path x 2 req
          (spdmHdr 0x61 0 0 ++ toLE 1 0 ++ f.2.take 1 ++ toLE 2 0 ++ toLE 4 0x16 ++ f.2.drop 1)))
    ∧ (4 ≤ req.length → fieldLE req 1 1 = 0xE3 → 2 ≤ x.st → exec (.negotiateAlgorithms path req) s =
        .next (spdmVca s path x 3 req (spdmHdr 0x63 0 0 ++ toLE 2 36 ++ toLE 1 1 ++ toLE 1 0 ++ toLE 4 4 ++ toLE 4 0x80
          ++ toLE 4 2 ++ List.replicate 12 0#8 ++ toLE 4 0)))
    ∧ (4 ≤ req.length → fieldLE req 1 1 = 0x81 → 3 ≤ x.st → exec (.getDigests path req) s =
        .next (spdmCert s path x req (spdmHdr 0x01 0 1 ++ be48 (Config.sha384 (slotChain s)))))
    ∧ (8 ≤ req.length → fieldLE req 1 1 = 0x82 → 3 ≤ x.st → fieldLE req 2 1 % 16 = 0 → ∀ o d, o = fieldLE req 4 2 →
        o ≤ (slotChain s).length → d = slice (slotChain s) o (fieldLE req 6 2) →
        exec (.getCertificate path req) s = .next (spdmCert s path x req
          (spdmHdr 0x02 0 0 ++ toLE 2 d.length ++ toLE 2 ((slotChain s).length - o - d.length) ++ d)))
    ∧ (36 ≤ req.length → fieldLE req 1 1 = 0x83 → 3 ≤ x.st → fieldLE req 2 1 = 0 → ∀ f b, f = freeBytes s 32 →
        b = spdmHdr 0x03 0 1 ++ be48 (Config.sha384 (slotChain f.1)) ++ f.2 ++ measSummary f.1 (fieldLE req 3 1) ++ toLE 2 0
          ++ slice req 36 8 →
        exec (.challenge path req) s = .next (spdmSend (setSpdm f.1 path { x with msgB := [] }) path
          (b ++ aliasSign (x.vca ++ x.msgB ++ req ++ b))))
    ∧ (37 ≤ req.length → fieldLE req 1 1 = 0xE0 → 3 ≤ x.st → fieldLE req 3 1 ≤ 5 → ∀ sign is f r b,
        sign = bit (fieldLE req 2 1) 0 → (sign = true → fieldLE req 36 1 % 16 = 0) →
        is = (if fieldLE req 3 1 = 0 then [] else [fieldLE req 3 1]) → r = is.flatMap (measBlock s) → f = freeBytes s 32 →
        b = spdmHdr 0x60 (if fieldLE req 3 1 = 0 then 5 else 0) 0 ++ toLE 1 is.length ++ toLE 3 r.length ++ r ++ f.2
          ++ toLE 2 0 ++ (if sign then slice req 37 8 else slice req 4 8) →
        exec (.getMeasurements path req) s = .next (if sign then
            spdmSend (setSpdm f.1 path { x with msgM := [] }) path (b ++ aliasSign (x.vca ++ (x.msgM ++ req ++ b)))
          else spdmSend (setSpdm f.1 path { x with msgM := x.msgM ++ req ++ b }) path b))

/-- Every PLDM request of R511 is answered, and the flow of type 5 installs an image (R507, R511, R512); the layouts are those of
assumption log 34. -/
def Obligations.PldmAnswers : Prop :=
  ∀ (s : State) (path : Nat) (req : List Byte), aon s = true → s.grm.st = 1 →
    (fieldLE req 1 1 % 64 = 0 →
      (fieldLE req 2 1 = 2 → 3 ≤ req.length → exec (.getTid path req) s = .next (pldmOpen s req 1))
      ∧ (fieldLE req 2 1 = 3 → 9 ≤ req.length → ∀ f, f = freeBytes s 8 →
          (fieldLE (req.drop 3) 5 1 = 0 ∨ fieldLE (req.drop 3) 5 1 = 2 ∨ fieldLE (req.drop 3) 5 1 = 5) →
          exec (.getPldmVersion path req) s = .next (pldmSend f.1 req 0 (toLE 4 0 ++ toLE 1 5 ++ f.2)))
      ∧ (fieldLE req 2 1 = 4 → 3 ≤ req.length → exec (.getPldmTypes path req) s = .next (pldmSend s req 0 (toLE 8 0x25)))
      ∧ (fieldLE req 2 1 = 5 → 8 ≤ req.length →
          (fieldLE (req.drop 3) 0 1 = 0 ∨ fieldLE (req.drop 3) 0 1 = 2 ∨ fieldLE (req.drop 3) 0 1 = 5) →
          exec (.getPldmCommands path req) s =
            .next (pldmSend s req 0 (toLE 32 (pldmCommands (fieldLE (req.drop 3) 0 1))))))
    ∧ (fieldLE req 1 1 % 64 = 2 →
      (fieldLE req 2 1 = 0x50 → 3 ≤ req.length → exec (.getPdrRepositoryInfo path req) s = .next (pldmOpen s req 40))
      ∧ (fieldLE req 2 1 = 0x51 → 16 ≤ req.length → ∀ n f, n = fieldLE (req.drop 3) 9 2 → f = freeBytes s (9 + n) →
          exec (.getPdr path req) s = .next (pldmSend f.1 req 0 (f.2.take 9 ++ toLE 2 n ++ f.2.drop 9)))
      ∧ (fieldLE req 2 1 = 0x11 → 6 ≤ req.length → ∀ o n, sensorField (fieldLE (req.drop 3) 0 2) = some (o, n) →
          exec (.getSensorReading path req) s = .next (pldmSend s req 0 (toLE 1 2 ++ toLE 1 0 ++ toLE 1 0 ++ toLE 1 1 ++ toLE 1 1
            ++ toLE 1 1 ++ toLE 2 (fieldLE (s.grm.telem.headD []) o n))))
      ∧ (fieldLE req 2 1 = 0x12 → 5 ≤ req.length → fieldLE (req.drop 3) 0 2 < 40 →
          exec (.getSensorThresholds path req) s = .next (pldmSend s req 0
            (toLE 1 2 ++ (sensorLimits s (fieldLE (req.drop 3) 0 2)).flatMap fun v => toLE 2 v))))
    ∧ (fieldLE req 1 1 % 64 = 5 → 3 ≤ req.length →
      (fieldLE req 2 1 = 0x10 → holdsRein s Master.bmc = true → exec (.requestUpdate path req) s =
          .next (pldmSend (s.onGrm fun g => { g with pldmSt := 1 }) req 0 (toLE 2 0 ++ toLE 1 0)))
      ∧ (fieldLE req 2 1 = 0x1A → s.grm.pldmSt = 2 → exec (.activateFirmware path req) s =
          .next (groomRestart (pldmSend (s.onGrm fun g => { g with pldmSt := 0 }) req 0 (toLE 2 2)))))
    ∧ (∀ (image : List Byte) img, s.grm.pldmSt = 1 → img = memWriteN [] 0 (image.take flashConfig) →
        imageCheck img s.grm.vendorHash s.grm.svnFloor true = 0 →
        exec (.type5FlowImage image) s =
          .next ((flashImage s img).onGrm fun g => { g with pldmSt := 2, staging := img }))

/-- The steps of start-up run (R505 to R507, R584 to R594): power, the PERST pin, the PCIe link, the rails, the image, the
firmware, the self-test and the ready device. -/
def Obligations.StartupStepsRun : Prop :=
  ∀ (s : State),
    (∀ straps, (s.boot.powered = false → exec (.powerOnRelease straps) s =
          .next (packageReset s true s.boot.perst (strapsOf straps)))
        ∧ (s.boot.perst = true → exec (.perstDeassert straps) s = .next (s.onBoot fun b => { b with
          perst := false
          straps := strapsOf straps
          fuses := b.powered && (strapsOf straps).test == 0
          refUs := s.nowUs })))
    ∧ exec .supplyFail s = .next (packageReset s false s.boot.perst s.boot.straps)
    ∧ exec .perstAssert s = .next (packageReset s s.boot.powered true s.boot.straps)
    ∧ (alive s = true →
      (∀ gen6, s.boot.fuses = true → s.boot.straps.hostEn = true → exec (.pcieLinkUp gen6) s =
          .next ((s.onHost fun h => { h with linkUp := true, linkGen6 := gen6 && !s.boot.straps.pcieMax }).onBoot fun b =>
            { b with configReady := true }))
      ∧ (s.boot.fuses = true → s.boot.imageOk = false → s.grm.st = 0 → ∀ mv : List Nat,
          exec (.railCheckTimeout mv) s = .next (if (List.range 6).all fun r => railInWindow s r (mv.getD r 0) then s
            else s.onBoot fun b => { b with railFault := true }))
      ∧ (s.boot.fuses = true → s.boot.railFault = false → s.boot.imageOk = false → s.grm.st = 0 → ∀ readOk c,
          c = imageCheck s.grm.flash s.grm.vendorHash s.grm.svnFloor readOk →
          (c = 0 → exec (.imageVerified readOk) s =
            .next (trainAll ((loadImage s).onBoot fun b => { b with imageOk := true })))
          ∧ (c ≠ 0 → exec (.imageVerified readOk) s =
            .next (s.onGrm fun g => { g with st := 3, recCause := c, recLive := false })))
      ∧ (s.boot.imageOk = true → s.grm.st = 0 → exec .firmwareStart s =
          .next (reapplyFences (s.onGrm fun g => { g with st := 1, recCause := 0 })))
      ∧ (s.boot.memTrained = true → s.boot.selfTest = false → ∀ (failed : List Nat) dcpOk,
          failed.all (fun u => decide (u < 465)) = true → exec (.selfTestDone failed dcpOk) s =
            .next ((failed.foldl setFence (zeroSram s)).onBoot fun b => { b with
              selfTest := true
              cpFailed := !dcpOk
              fencedAtStart := b.fencedAtStart || !failed.isEmpty }))
      ∧ (s.boot.selfTest = true → s.boot.ready = false → s.boot.startFail = false →
          (s.boot.cpFailed = true ∨ (List.range 4).any (dieHasNoStack s) = true →
            exec .deviceReady s = .next (s.onBoot fun b => { b with startFail := true }))
          ∧ (s.boot.cpFailed = false → (List.range 4).any (dieHasNoStack s) = false → exec .deviceReady s =
            .next ((s.onBoot fun b => { b with ready := true, readyMs := min 65535 ((s.nowUs - b.refUs) / 1000) }).onCp
              fun c => { c with fetching := true }))))

/-- Every boundary-scan instruction answers a next state at any time (R598, R599): it becomes the instruction held; those that
select the boundary register capture the pins and take new cells, IDCODE shows the identification code, the others the bypass
bit. While PERST is deasserted, the instructions that disturb pins act as BYPASS. -/
def Obligations.BoundaryScanRuns : Prop :=
  ∀ (s : State) (pins data : BitVec 1774) (shift one : Nat → State),
    (∀ c, shift c = s.onBoot fun b => { b with ir := c, scanCells := pins, scanOut := data, dr := pins.toNat }) →
    (∀ c, one c = s.onBoot fun b => { b with ir := c, dr := 0 }) →
    exec (.samplePreload pins data) s = .next (shift 2)
    ∧ exec .idcode s = .next (s.onBoot fun b => { b with ir := 1, dr := 0x14B4074B })
    ∧ exec .clamp s = .next (one 3)
    ∧ exec .highz s = .next (one 4)
    ∧ (∀ code, exec (.bypass code) s = .next (one (if code % 256 ≤ 6 then 0xFF else code % 256)))
    ∧ exec (.extest pins data) s = .next (if s.boot.perst then shift 0 else one 0)
    ∧ exec (.extestPulse pins data) s = .next (if s.boot.perst then shift 5 else one 5)
    ∧ exec (.extestTrain pins data) s = .next (if s.boot.perst then shift 6 else one 6)

/-- One step takes the command at the front of the queue and carries it out with the queue's rest; with none waiting, time
passes (assumption log 4). -/
def Obligations.StepRunsFrontCommand : Prop :=
  (∀ (c : Instr) (s : State), step { s with pending := c :: s.pending } = exec c s)
  ∧ (∀ s : State, s.pending = [] → step s = .next (idle s))

/-- A command that names only units the device has is always carried out, whatever the state; one that names another faults.
Nothing is refused. -/
def Obligations.WellFormedCommandsAnswer : Prop :=
  ∀ (c : Instr) (s : State),
    (c.wf = true → ∃ t, exec c s = .next t) ∧ (c.wf = false → exec c s = .fault .noSuchUnit)

/-- No command changes the queue of the commands that wait: it is the sender's. -/
def Obligations.CommandsLeaveQueue : Prop :=
  ∀ (c : Instr) (s t : State), exec c s = .next t → t.pending = s.pending

/-- What the fuses hold, no step takes away: the vendor key hash stays, and the floor of the security version never falls
(R506, R512). -/
def Obligations.FusesHeldByEveryStep : Prop :=
  ∀ (h : BitVec 384) (n : Nat) (s t : State), FusesHeld h n s → step s = .next t → FusesHeld h n t

/-- After reset the fuses hold what they were given, the memories are in canonical form and no command waits. -/
def Obligations.FusesHeldAfterReset : Prop :=
  FusesHeld State.reset.grm.vendorHash State.reset.grm.svnFloor State.reset
    ∧ State.reset.memWf = true ∧ QueueWf State.reset ∧ State.reset.pending = []

/-- The rein changes hands only by a claim, a pass or the end of a lease, and by a package reset (R498, R499, R501, R502). -/
def Obligations.ReinChangesHandsOnlyBy : Prop :=
  ∀ (c : Instr) (s t : State), exec c s = .next t → t.grm.holder ≠ s.grm.holder →
    (∃ n, c = .claimVerified n) ∨ c = .passRein ∨ c = .reinLeaseExpiry
      ∨ (∃ x, c = .powerOnRelease x) ∨ c = .supplyFail ∨ c = .perstAssert

/-- Only a package reset takes back a device ID once it is set (R375), or clears the thermal trip (R567). -/
def Obligations.OnlyPackageResetClears : Prop :=
  ∀ (c : Instr) (s t : State), exec c s = .next t →
    (s.boot.devIdValid = true ∧ ¬(t.boot.devIdValid = true ∧ t.boot.devId = s.boot.devId))
      ∨ (s.pwr.trip = true ∧ t.pwr.trip = false) →
    (∃ x, c = .powerOnRelease x) ∨ c = .supplyFail ∨ c = .perstAssert

/-- Values are laid out little-endian, and read back as they were written (R8). -/
def Obligations.LittleEndianRoundTrip : Prop :=
  (∀ n v : Nat, leNat (toLE n v) = v % 2 ^ (8 * n) ∧ (toLE n v).length = n
      ∧ ∀ i, i < n → (toLE n v)[i]? = some (BitVec.ofNat 8 (v / 2 ^ (8 * i))))
  ∧ (∀ l : List Byte, toLE l.length (leNat l) = l ∧ leNat l < 2 ^ (8 * l.length))

/-- A write through the debug window stores exactly its bytes, at the segment that the window selects: no other byte of device
memory changes, and beside it only what counts, logs and fences for the errors met, nothing where none is met; without WRITE_EN or the rein it changes nothing
(R404). -/
def Obligations.DebugWindowStores : Prop :=
  ∀ (s : State) (off : Nat) (d : List Byte), hostUp s = true → off + d.length ≤ 2 ^ 36 →
    (∀ a, a = s.fld dbgCtl 0 3 * 2 ^ 36 + off → bit (s.reg dbgCtl) 3 = true → holdsRein s Master.pf = true →
        ueWords s a d.length = [] →
        ∃ t, exec (.bar4Write off d) s = .next t
          ∧ t = { s with
              mem := t.mem
              regs := t.regs
              hlt := t.hlt
              boot := { s.boot with population := t.boot.population }
              fab := { s.fab with ports := t.fab.ports } }
          ∧ ((s.mem.sym.all fun w => decide (32 * w + 32 ≤ a) || decide (a + d.length ≤ 32 * w)) = true →
            t = { s with mem := t.mem })
          ∧ ∀ b, memRead t.mem.dpa b = if a ≤ b ∧ b < a + d.length then d.getD (b - a) 0#8 else memRead s.mem.dpa b)
    ∧ (bit (s.reg dbgCtl) 3 = false ∨ holdsRein s Master.pf = false → exec (.bar4Write off d) s = .next s)

/-- A completion entry is written whole at its place in the ring with the phase of its pass, and no other byte of host memory,
and none of the device's memories, changes (R408, R409, R419). -/
def Obligations.CompletionEntryWritten : Prop :=
  ∀ (s : State) (q : Nat) (c : Cpl) (rest : List Cpl), hostUp s = true → dieRuns s 5 = true → q < 256 →
    oldestDone s q = true → Tbl.get [] s.cp.done q = c :: rest → c.lead = none → cqFull s q = false →
    (s.ring q).enabled = true → hostOk s (ringFn s q) (entryAddr s q) 32 true = true →
    ∃ t, exec (.completionWrite q) s = .next t
      ∧ t.mem = s.mem ∧ t.pad = s.pad ∧ t.blk = s.blk ∧ t.grm = s.grm
      ∧ ∀ a, memRead t.host.mem a = if entryAddr s q ≤ a ∧ a < entryAddr s q + 32 then
          (cplBytes c (((s.ring q).cqTail / cqSize (s.ring q) + 1) % 2)).getD (a - entryAddr s q) 0#8
        else memRead s.host.mem a

/-- A write to a read-only register changes nothing, and a write to a register whose bits are cleared by ones leaves the bits that
no field of it holds as they were (R10). -/
def Obligations.ReadOnlyRegistersKeep : Prop :=
  ∀ (s : State) (rein host : Bool) (key v : Nat) (r : RegRow) (start : Nat),
    ¬(groomBlk + 0x10000 ≤ key ∧ key < groomBlk + 0x20000) → regAt key = some (r, start) →
    (r.acc = .ro → writeReg s rein host key v = s)
    ∧ (r.acc = .w1c → ∀ i, (r.fields.any fun f => decide (f.lo ≤ i) && decide (i < f.lo + f.width)) = false →
        i < 64 → bit ((writeReg s rein host key v).reg key) i = bit (s.reg key) i)

/-- A write to a register of the rein holder by a master that does not hold the rein is dropped, and a management command that
attempts it completes with `NOT_OWNER` (R11). -/
def Obligations.NonHolderWritesDropped : Prop :=
  ∀ (s : State),
    (∀ host key v r start, 0x10000 ≤ key % 2 ^ 26 → ¬(groomBlk + 0x10000 ≤ key ∧ key < groomBlk + 0x20000) →
        regAt key = some (r, start) → r.acc = .ow → writeReg s false host key v = s)
    ∧ (∀ host v, writeReg s false host dbgCtl v = s)
    ∧ (∀ m c blk o n, Serving 0x82 m s → regArgs m 64 = some (c, blk, o, n) → n ≤ (slice m.args 8 n).length →
        holdsRein s s.grm.tag = false → (coveredRegs blk o n).any (fun r => ownedReg r.1) = true →
        exec .write s = .next (reply s m stNotOwner []))
    ∧ (∀ fn (v : W64), owWrite s fn = false →
        exec (.check fn v) s = .next (touchReg s fn trcBlk)
        ∧ exec (.trcCommitStride fn v) s = .next (touchReg s fn (trcBlk + 0x8))
        ∧ exec (.relayReset fn v) s = .next (touchReg s fn (trcBlk + 0x14))
        ∧ exec (.timCommitStride fn v) s = .next (touchReg s fn (timBlk + 0x18))
        ∧ exec (.loadNow fn v) s = .next (touchReg s fn (timBlk + 0x20))
        ∧ (∀ a, exec (.accClear fn a v) s = .next (touchReg s fn a))
        ∧ (∀ p, p < 24 → exec (.retrain fn p v) s = .next (touchReg s fn (linkBlk p))
          ∧ exec (.linkEnable fn p v) s = .next (touchReg s fn (linkBlk p)))
        ∧ (∀ u, u < 56 → exec (.redInjArm fn u v) s = .next (touchReg s fn (redBlk u))
          ∧ exec (.injHold fn u v) s = .next (touchReg s fn (redBlk u))))

/-- SET_ID is accepted once after a package reset, with seat 0 only where the PCIe link is trained and with the other seats only
where it is not; refused, it changes nothing and completes with `BAD_PARAMETER`; only the rein holder may send it (R375). -/
def Obligations.SetIdAcceptedOnce : Prop :=
  (∀ (s : State) (m : Msg) (v : Nat), Serving 0x8D m s → v = m.arg 0 4 →
    (4 ≤ m.args.length → v < 4096 → s.boot.devIdValid = false → (v % 64 = 0 ↔ s.host.linkUp = true) →
      exec .setId s = .next (reply (reparent (s.onBoot fun b => { b with devId := v, devIdValid := true })) m stOk []))
    ∧ (m.args.length < 4 ∨ 4096 ≤ v ∨ s.boot.devIdValid = true ∨ ¬(v % 64 = 0 ↔ s.host.linkUp = true) →
      exec .setId s = .next (reply s m stBadParam [])))
  ∧ (∀ (s : State) (m : Msg), aon s = true → s.grm.st = 1 → s.grm.cur = some m → m.op = 0x8D → msgServed s m = true →
      holdsRein s s.grm.tag = false → exec .setId s = .next (reply s m stNotOwner []))
  ∧ (∀ (s : State) (powered perst : Bool) (x : Straps), (packageReset s powered perst x).boot.devIdValid = false)

/-- ENABLE is refused for a ring that breaks a rule, with the first cause in the order 5, 3, 2; else the ring is enabled
(R405). -/
def Obligations.RingEnableChecked : Prop :=
  ∀ (s : State) (fn n q v : Nat) (w : State) (sq cq : Nat) (aligned sized inside : Prop),
    hostUp s = true → ringOf s fn n = some q → (s.ring q).enabled = false → bit v 0 = true →
    w = (touchReg s fn (ringCtlReg fn n)).updRing q (fun r => { r with ctl := ctlFields r fn v }) →
    sq = bits (w.ring q).ctl 8 5 → cq = bits (w.ring q).ctl 16 5 →
    (aligned ↔ (w.ring q).sqBase % 4096 = 0 ∧ (w.ring q).cqBase % 4096 = 0) →
    (sized ↔ 6 ≤ sq ∧ sq ≤ 16 ∧ 6 ≤ cq ∧ cq ≤ 16) →
    (inside ↔ hostOk w fn (w.ring q).sqBase (64 * 2 ^ sq) false = true
      ∧ hostOk w fn (w.ring q).cqBase (32 * 2 ^ cq) true = true) →
    (¬aligned → exec (.ringEnable fn n v) s = .next (w.updRing q fun r => { r with err := true, errCause := 5 }))
    ∧ (aligned → ¬sized → exec (.ringEnable fn n v) s = .next (w.updRing q fun r => { r with err := true, errCause := 3 }))
    ∧ (aligned → sized → ¬inside →
        exec (.ringEnable fn n v) s = .next (w.updRing q fun r => { r with err := true, errCause := 2 }))
    ∧ (aligned → sized → inside → exec (.ringEnable fn n v) s = .next (w.updRing q fun r => { r with
        enabled := true
        draining := false
        err := false
        errCause := 0
        sqTail := 0
        sqHead := 0
        cqTail := 0
        cqHead := 0 }))

/-- A doorbell moves its ring's index, is a ring error where it passes the ring's bounds, and is ignored where the ring does not
take it; a packet is fetched only once the slots up to the tail hold all of it (R407, R408). -/
def Obligations.DoorbellsMoveRings : Prop :=
  ∀ (s : State) (fn n q v : Nat), hostUp s = true → ringOf s fn n = some q → v < 2 ^ 32 →
    (∀ w, w = doorbellWake (touchReg s fn (doorbellKey n 0)) →
        ((w.ring q).enabled = true → (w.ring q).draining = false → (w.ring q).err = false →
          ((v + 2 ^ 32 - (w.ring q).sqHead) % 2 ^ 32 ≤ sqSize (w.ring q) →
            exec (.sqTail fn n v) s = .next (queueRing q (w.updRing q fun r => { r with sqTail := v })))
          ∧ (sqSize (w.ring q) < (v + 2 ^ 32 - (w.ring q).sqHead) % 2 ^ 32 →
            exec (.sqTail fn n v) s = .next (ringError w q 1)))
        ∧ ((w.ring q).enabled = false ∨ (w.ring q).draining = true ∨ (w.ring q).err = true →
          exec (.sqTail fn n v) s = .next w))
    ∧ (∀ w, w = doorbellWake (touchReg s fn (doorbellKey n 4)) →
        ((w.ring q).enabled = true ∨ (w.ring q).draining = true →
          ((v + 2 ^ 32 - (w.ring q).cqHead) % 2 ^ 32 ≤ ((w.ring q).cqTail + 2 ^ 32 - (w.ring q).cqHead) % 2 ^ 32 →
            exec (.cqHead fn n v) s = .next (w.updRing q fun r => { r with cqHead := v }))
          ∧ (((w.ring q).cqTail + 2 ^ 32 - (w.ring q).cqHead) % 2 ^ 32 < (v + 2 ^ 32 - (w.ring q).cqHead) % 2 ^ 32 →
            exec (.cqHead fn n v) s = .next (ringError w q 4)))
        ∧ ((w.ring q).enabled = false → (w.ring q).draining = false → exec (.cqHead fn n v) s = .next w))
    ∧ (∀ plen, q < 128 → mayFetch s q = true → slotsOk s (ringFn s q) (s.ring q) (s.ring q).sqHead 1 = true →
        plen = headPlen s q → ringAvail s q < 1 + plen →
        exec (.packetFetch q) s = .next s)

/-- PASS_REIN gives the rein to the master its target names, with a fresh lease, and the old holder no longer holds it; a target
that is the holder gives `BAD_PARAMETER` (R502). -/
def Obligations.PassReinMovesRein : Prop :=
  ∀ (s : State) (m : Msg) (v : Nat) (new : Master), Serving 0x8B m s → 4 ≤ m.args.length → v = m.arg 0 4 →
    (v = 1 ∧ new = ⟨1, false, 0, 0⟩ ∨ v = 2 ∧ new = ⟨2, false, 0, 0⟩
      ∨ (∃ d, d < 4096 ∧ v = 3 + 8 * d ∧ new = ⟨3, false, d, 0⟩)
      ∨ (∃ p, p < 32 ∧ v = 7 + 8 * p ∧ new = ⟨3, true, 0, p⟩)) →
    (new = s.grm.holder → exec .passRein s = .next (reply s m stBadParam []))
    ∧ (new ≠ s.grm.holder → ∃ t, exec .passRein s = .next (reply t m stOk []) ∧ t = { s with grm := t.grm }
        ∧ t.grm.holder = new ∧ t.grm.expiry = s.nowStride + s.fld (groomBlk + 0x10) 0 16
        ∧ holdsRein t new = true ∧ holdsRein t s.grm.holder = false)

/-- A packet's bytes read back as the packet they lay out, for every packet whose fields are in range (R368). -/
def Obligations.PacketBytesRoundTrip : Prop :=
  ∀ k : FPkt, k.dest < 4096 → k.src < 4096 → k.type < 256 → k.vc < 4 → k.hops < 256 → k.level < 256 → k.job < 65536 →
    k.gen < 256 → k.ctx < 64 → k.len < 512 → k.tag < 2 ^ 32 → k.addr < 2 ^ 64 → k.aux < 2 ^ 32 → k.rsv = false →
    k.pay.length = 16 * k.len → decodePkt (encodePkt k) = k ∧ (encodePkt k).length = k.size

/-- The lane operations, sums and scalar operations of a rule change only their task and the accounts: no other task, no memory,
no register (R348). -/
def Obligations.RuleOperationsFrame : Prop :=
  ∀ (s t : State) (k : Task), runningTask s = some k →
    (exec .vadd s = .next t ∨ exec .vsub s = .next t ∨ exec .vmul s = .next t ∨ exec .vfma s = .next t
      ∨ exec .vmax s = .next t ∨ exec .vmin s = .next t ∨ exec .vabs s = .next t ∨ exec .vneg s = .next t
      ∨ exec .vcmplt s = .next t ∨ exec .vsel s = .next t ∨ exec .vrcp s = .next t ∨ exec .vrsqrt s = .next t
      ∨ exec .vsqrt s = .next t ∨ exec .vexp2 s = .next t ∨ exec .vlog2 s = .next t ∨ exec .vacc s = .next t
      ∨ exec .sop s = .next t) →
    (∃ tasks acc free, t = { s with
      upd := { s.upd with tasks := tasks }
      sch := { s.sch with acc := acc }
      free := free })
    ∧ t.upd.tasks.filter (·.id != k.id) = s.upd.tasks.filter (·.id != k.id)

/-- What a link step does at one port leaves every other port, and all but the links, the health log and the registers, as it
was (R363 to R367). -/
def Obligations.PortStepsFrame : Prop :=
  ∀ (s t : State) (p : Nat) (on : Bool) (h : List Byte),
    (exec (.replayTimeout p) s = .next t ∨ exec (.fecAlignLoss p) s = .next t ∨ exec (.signalDetect p on) s = .next t
      ∨ exec (.trainingComplete p h) s = .next t) →
    t = { s with regs := t.regs, fab := t.fab, hlt := t.hlt } ∧ ∀ r, r ≠ p → portOf t r = portOf s r

/-- The control commands write no memory: every byte of host and device memory, pads, saddlebags, flash and staging reads as
before (R422 to R427). -/
def Obligations.ControlCommandsWriteNoMemory : Prop :=
  ∀ (s t : State) (q : Nat),
    (exec (.nop q) s = .next t ∨ exec (.fence q) s = .next t ∨ exec (.waitStride q) s = .next t
      ∨ exec (.waitValueTimeout q) s = .next t ∨ exec (.handleBind q) s = .next t ∨ exec (.handleRelease q) s = .next t
      ∨ exec (.seedSet q) s = .next t) →
    t.memories = s.memories

end
end

