-- ==== Sys2Proof/Laws/Memory.lean ====
section
/-! SUPPORT. The laws of sparse tables and of the byte memories: reading after writing, and the canonical form that
every memory operation keeps. -/
namespace Sys2Proof.Machine

open Sys2Proof

/-! Reading a table after a change of one entry. -/

theorem Tbl.get_erase_self {α : Type} (d : α) (t : Tbl α) (k : Nat) : Tbl.get d (Tbl.erase t k) k = d := by
  induction t with
  | nil => rfl
  | cons e t ih =>
    by_cases h : e.1 = k
    · simpa [Tbl.erase, h] using ih
    · simpa [Tbl.erase, h, Tbl.get] using ih

theorem Tbl.get_erase_other {α : Type} (d : α) (t : Tbl α) {k j : Nat} (h : j ≠ k) :
    Tbl.get d (Tbl.erase t k) j = Tbl.get d t j := by
  induction t with
  | nil => rfl
  | cons e t ih =>
    by_cases hk : e.1 = k
    · have : e.1 ≠ j := fun e' => h (e' ▸ hk)
      simpa [Tbl.erase, hk, Tbl.get, Ne.symm h] using ih
    · by_cases hj : e.1 = j
      · simp [Tbl.erase, Tbl.get, hj, h]
      · simpa [Tbl.erase, hk, Tbl.get, hj] using ih

theorem Tbl.get_insert_self {α : Type} (d : α) (t : Tbl α) (k : Nat) (v : α) : Tbl.get d (Tbl.insert t k v) k = v := by
  induction t with
  | nil => simp [Tbl.insert, Tbl.get]
  | cons e t ih =>
    simp only [Tbl.insert]
    split_ifs with h1 h2 <;> simp_all [Tbl.get]

theorem Tbl.get_insert_other {α : Type} (d : α) (t : Tbl α) {k j : Nat} (v : α) (h : j ≠ k) :
    Tbl.get d (Tbl.insert t k v) j = Tbl.get d t j := by
  induction t with
  | nil => simp [Tbl.insert, Tbl.get, Ne.symm h]
  | cons e t ih =>
    simp only [Tbl.insert]
    split_ifs with h1 h2
    · simp [Tbl.get, Ne.symm h]
    · simp [Tbl.get, h2, Ne.symm h]
    · simp [Tbl.get, ih]

/-- An entry just written is read back. -/
@[simp] theorem Tbl.get_set_self {α : Type} [DecidableEq α] (d : α) (t : Tbl α) (k : Nat) (v : α) :
    Tbl.get d (Tbl.set d t k v) k = v := by
  unfold Tbl.set
  split_ifs with h
  · rw [Tbl.get_erase_self, h]
  · exact Tbl.get_insert_self d t k v

/-- Writing an entry leaves every other as it was. -/
theorem Tbl.get_set_other {α : Type} [DecidableEq α] (d : α) (t : Tbl α) {k j : Nat} (v : α) (h : j ≠ k) :
    Tbl.get d (Tbl.set d t k v) j = Tbl.get d t j := by
  unfold Tbl.set
  split_ifs
  · exact Tbl.get_erase_other d t h
  · exact Tbl.get_insert_other d t v h

@[simp] theorem Tbl.get_upd_self {α : Type} [DecidableEq α] (d : α) (t : Tbl α) (k : Nat) (f : α → α) :
    Tbl.get d (Tbl.upd d t k f) k = f (Tbl.get d t k) := Tbl.get_set_self d t k _

theorem Tbl.get_upd_other {α : Type} [DecidableEq α] (d : α) (t : Tbl α) {k j : Nat} (f : α → α) (h : j ≠ k) :
    Tbl.get d (Tbl.upd d t k f) j = Tbl.get d t j := Tbl.get_set_other d t _ h

/-! The canonical form. -/

theorem Tbl.sortedFrom_weaken {α : Type} (t : Tbl α) {a b : Nat} (h : a ≤ b) (hs : Tbl.sortedFrom b t = true) :
    Tbl.sortedFrom a t = true := by
  cases t with
  | nil => rfl
  | cons e t => simp only [Tbl.sortedFrom, Bool.and_eq_true, decide_eq_true_eq] at *; exact ⟨le_trans h hs.1, hs.2⟩

theorem Tbl.sortedFrom_filter {α : Type} (t : Tbl α) (a : Nat) (p : Nat × α → Bool) (hs : Tbl.sortedFrom a t = true) :
    Tbl.sortedFrom a (t.filter p) = true := by
  induction t generalizing a with
  | nil => rfl
  | cons e t ih =>
    simp only [Tbl.sortedFrom, Bool.and_eq_true, decide_eq_true_eq] at hs
    by_cases h : p e = true
    · simp only [List.filter_cons, h, if_true, Tbl.sortedFrom, Bool.and_eq_true, decide_eq_true_eq]
      exact ⟨hs.1, ih _ hs.2⟩
    · simp only [List.filter_cons, h, Bool.false_eq_true, if_false]
      exact ih _ (Tbl.sortedFrom_weaken t (by omega) hs.2)

theorem Tbl.sortedFrom_insert {α : Type} (t : Tbl α) (a k : Nat) (v : α) (h : a ≤ k) (hs : Tbl.sortedFrom a t = true) :
    Tbl.sortedFrom a (Tbl.insert t k v) = true := by
  induction t generalizing a with
  | nil => simp [Tbl.insert, Tbl.sortedFrom, h]
  | cons e t ih =>
    simp only [Tbl.sortedFrom, Bool.and_eq_true, decide_eq_true_eq] at hs
    simp only [Tbl.insert]
    split_ifs with h1 h2
    · simp only [Tbl.sortedFrom, Bool.and_eq_true, decide_eq_true_eq]; exact ⟨h, by omega, hs.2⟩
    · simp only [Tbl.sortedFrom, Bool.and_eq_true, decide_eq_true_eq]; exact ⟨h, h2 ▸ hs.2⟩
    · simp only [Tbl.sortedFrom, Bool.and_eq_true, decide_eq_true_eq]; exact ⟨hs.1, ih _ (by omega) hs.2⟩

theorem Tbl.mem_insert {α : Type} (t : Tbl α) (k : Nat) (v : α) (e : Nat × α) (h : e ∈ Tbl.insert t k v) :
    e = (k, v) ∨ e ∈ t := by
  induction t with
  | nil => simpa [Tbl.insert] using h
  | cons x t ih =>
    simp only [Tbl.insert] at h
    split_ifs at h <;> simp only [List.mem_cons] at h ⊢ <;> tauto

theorem Tbl.wf_filter {α : Type} [DecidableEq α] (d : α) (t : Tbl α) (p : Nat × α → Bool) (h : Tbl.wf d t = true) :
    Tbl.wf d (t.filter p) = true := by
  simp only [Tbl.wf, Bool.and_eq_true, List.all_eq_true, decide_eq_true_eq] at *
  exact ⟨Tbl.sortedFrom_filter t 0 p h.1, fun e he => h.2 e (List.mem_of_mem_filter he)⟩

/-- Writing an entry keeps the canonical form. -/
theorem Tbl.wf_set {α : Type} [DecidableEq α] (d : α) (t : Tbl α) (k : Nat) (v : α) (h : Tbl.wf d t = true) :
    Tbl.wf d (Tbl.set d t k v) = true := by
  unfold Tbl.set
  split_ifs with hv
  · exact Tbl.wf_filter d t _ h
  · simp only [Tbl.wf, Bool.and_eq_true, List.all_eq_true, decide_eq_true_eq] at *
    refine ⟨Tbl.sortedFrom_insert t 0 k v (Nat.zero_le _) h.1, fun e he => ?_⟩
    rcases Tbl.mem_insert t k v e he with rfl | he
    · exact hv
    · exact h.2 e he

/-! Bytes. -/

@[simp] theorem memRead_memWrite_self (m : Tbl Byte) (a : Nat) (b : Byte) : memRead (memWrite m a b) a = b :=
  Tbl.get_set_self _ m a b

theorem memRead_memWrite_other (m : Tbl Byte) {a c : Nat} (b : Byte) (h : c ≠ a) :
    memRead (memWrite m a b) c = memRead m c := Tbl.get_set_other _ m b h

theorem memRead_memWriteN_outside (m : Tbl Byte) (d : List Byte) {a c : Nat} (h : c < a ∨ a + d.length ≤ c) :
    memRead (memWriteN m a d) c = memRead m c := by
  induction d generalizing m a with
  | nil => rfl
  | cons b t ih =>
    simp only [List.length_cons] at h
    rw [memWriteN, ih _ (by omega)]
    exact memRead_memWrite_other m b (by omega)

/-- What a write of several bytes leaves: its bytes in their range, and every other byte as it was. -/
theorem memRead_memWriteN (m : Tbl Byte) (a : Nat) (d : List Byte) (c : Nat) :
    memRead (memWriteN m a d) c = if a ≤ c ∧ c < a + d.length then d.getD (c - a) 0#8 else memRead m c := by
  induction d generalizing m a with
  | nil => simp [memWriteN]
  | cons b t ih =>
    rw [memWriteN, ih]
    simp only [List.length_cons]
    by_cases h : c = a
    · subst h; simp
    · by_cases h2 : a ≤ c ∧ c < a + (t.length + 1)
      · have h3 : a + 1 ≤ c ∧ c < a + 1 + t.length := by omega
        rw [if_pos h2, if_pos h3, show c - a = (c - (a + 1)) + 1 by omega]
        simp
      · have h3 : ¬(a + 1 ≤ c ∧ c < a + 1 + t.length) := by omega
        rw [if_neg h2, if_neg h3, memRead_memWrite_other m b h]

/-- A write of one byte keeps the canonical form. -/
theorem wf_memWrite (m : Tbl Byte) (a : Nat) (b : Byte) (h : Memory.wf m = true) : Memory.wf (memWrite m a b) = true :=
  Tbl.wf_set _ m a b h

/-- A write of several bytes keeps the canonical form. -/
theorem wf_memWriteN (m : Tbl Byte) (a : Nat) (d : List Byte) (h : Memory.wf m = true) :
    Memory.wf (memWriteN m a d) = true := by
  induction d generalizing m a with
  | nil => exact h
  | cons b t ih => exact ih _ _ (wf_memWrite m a b h)

/-- Zeroing a range keeps the canonical form. -/
theorem wf_memZero (m : Tbl Byte) (lo hi : Nat) (h : Memory.wf m = true) : Memory.wf (memZero m lo hi) = true :=
  Tbl.wf_filter _ m _ h

/-- Taking bytes away keeps the canonical form. -/
theorem wf_memFilter (m : Tbl Byte) (p : Nat × Byte → Bool) (h : Memory.wf m = true) : Memory.wf (m.filter p) = true :=
  Tbl.wf_filter _ m p h

theorem Tbl.sortedFrom_append {α : Type} (t u : Tbl α) (a n : Nat) (h : a ≤ n) (ht : Tbl.sortedFrom a t = true)
    (hk : ∀ e ∈ t, e.1 < n) (hu : Tbl.sortedFrom n u = true) : Tbl.sortedFrom a (t ++ u) = true := by
  induction t generalizing a with
  | nil => exact Tbl.sortedFrom_weaken u h hu
  | cons e t ih =>
    simp only [Tbl.sortedFrom, Bool.and_eq_true, decide_eq_true_eq, List.cons_append] at *
    have := hk e (List.mem_cons_self ..)
    exact ⟨ht.1, ih _ (by omega) ht.2 fun x hx => hk x (List.mem_cons_of_mem _ hx)⟩

theorem Tbl.sortedFrom_from {α : Type} (t : Tbl α) (a n : Nat) (ht : Tbl.sortedFrom a t = true)
    (hk : ∀ e ∈ t, n ≤ e.1) : Tbl.sortedFrom n t = true := by
  cases t with
  | nil => rfl
  | cons e t =>
    simp only [Tbl.sortedFrom, Bool.and_eq_true, decide_eq_true_eq] at *
    exact ⟨hk e (List.mem_cons_self ..), ht.2⟩

/-- The flash with the bytes below `n` of an image keeps the canonical form. -/
theorem wf_memSplice (m f : Tbl Byte) (n : Nat) (hm : Memory.wf m = true) (hf : Memory.wf f = true) :
    Memory.wf (m.filter (·.1 < n) ++ f.filter fun c => decide (n ≤ c.1)) = true := by
  have h1 := wf_memFilter m (·.1 < n) hm
  have h2 := wf_memFilter f (fun c => decide (n ≤ c.1)) hf
  simp only [Memory.wf, Tbl.wf, Bool.and_eq_true, List.all_eq_true, decide_eq_true_eq] at *
  refine ⟨Tbl.sortedFrom_append _ _ 0 n (Nat.zero_le _) h1.1 (fun e he => ?_)
    (Tbl.sortedFrom_from _ 0 n h2.1 fun e he => ?_), fun e he => ?_⟩
  · simpa using (List.mem_filter.mp he).2
  · simpa using (List.mem_filter.mp he).2
  · rcases List.mem_append.mp he with he | he
    · exact h1.2 e he
    · exact h2.2 e he

/-- Every memory of the reset state is in canonical form. -/
theorem reset_memWf : State.reset.memWf = true := by decide +kernel

theorem memReadN_length (m : Tbl Byte) (a n : Nat) : (memReadN m a n).length = n := by
  induction n generalizing a with
  | zero => rfl
  | succ n ih => simp [memReadN, ih]

end Sys2Proof.Machine
end

