-- ==== Sys2Proof/Laws/State.lean ====
section
/-! SUPPORT. Updates of the state, field by field: what an update writes, and that it leaves every other field as it was. -/
namespace Sys2Proof.Machine

open Sys2Proof

variable (s : State)

/-! `regs`. -/

@[simp] theorem State.onRegs_regs (f : RegFile → RegFile) : (s.onRegs f).regs = f s.regs := rfl
@[simp] theorem State.onRegs_host (f : RegFile → RegFile) : (s.onRegs f).host = s.host := rfl
@[simp] theorem State.onRegs_cp (f : RegFile → RegFile) : (s.onRegs f).cp = s.cp := rfl
@[simp] theorem State.onRegs_tim (f : RegFile → RegFile) : (s.onRegs f).tim = s.tim := rfl
@[simp] theorem State.onRegs_sch (f : RegFile → RegFile) : (s.onRegs f).sch = s.sch := rfl
@[simp] theorem State.onRegs_mem (f : RegFile → RegFile) : (s.onRegs f).mem = s.mem := rfl
@[simp] theorem State.onRegs_mov (f : RegFile → RegFile) : (s.onRegs f).mov = s.mov := rfl
@[simp] theorem State.onRegs_pad (f : RegFile → RegFile) : (s.onRegs f).pad = s.pad := rfl
@[simp] theorem State.onRegs_core (f : RegFile → RegFile) : (s.onRegs f).core = s.core := rfl
@[simp] theorem State.onRegs_blk (f : RegFile → RegFile) : (s.onRegs f).blk = s.blk := rfl
@[simp] theorem State.onRegs_red (f : RegFile → RegFile) : (s.onRegs f).red = s.red := rfl
@[simp] theorem State.onRegs_upd (f : RegFile → RegFile) : (s.onRegs f).upd = s.upd := rfl
@[simp] theorem State.onRegs_fab (f : RegFile → RegFile) : (s.onRegs f).fab = s.fab := rfl
@[simp] theorem State.onRegs_grm (f : RegFile → RegFile) : (s.onRegs f).grm = s.grm := rfl
@[simp] theorem State.onRegs_hlt (f : RegFile → RegFile) : (s.onRegs f).hlt = s.hlt := rfl
@[simp] theorem State.onRegs_pwr (f : RegFile → RegFile) : (s.onRegs f).pwr = s.pwr := rfl
@[simp] theorem State.onRegs_boot (f : RegFile → RegFile) : (s.onRegs f).boot = s.boot := rfl
@[simp] theorem State.onRegs_free (f : RegFile → RegFile) : (s.onRegs f).free = s.free := rfl
@[simp] theorem State.onRegs_pending (f : RegFile → RegFile) : (s.onRegs f).pending = s.pending := rfl

/-! `host`. -/

@[simp] theorem State.onHost_regs (f : HostIf → HostIf) : (s.onHost f).regs = s.regs := rfl
@[simp] theorem State.onHost_host (f : HostIf → HostIf) : (s.onHost f).host = f s.host := rfl
@[simp] theorem State.onHost_cp (f : HostIf → HostIf) : (s.onHost f).cp = s.cp := rfl
@[simp] theorem State.onHost_tim (f : HostIf → HostIf) : (s.onHost f).tim = s.tim := rfl
@[simp] theorem State.onHost_sch (f : HostIf → HostIf) : (s.onHost f).sch = s.sch := rfl
@[simp] theorem State.onHost_mem (f : HostIf → HostIf) : (s.onHost f).mem = s.mem := rfl
@[simp] theorem State.onHost_mov (f : HostIf → HostIf) : (s.onHost f).mov = s.mov := rfl
@[simp] theorem State.onHost_pad (f : HostIf → HostIf) : (s.onHost f).pad = s.pad := rfl
@[simp] theorem State.onHost_core (f : HostIf → HostIf) : (s.onHost f).core = s.core := rfl
@[simp] theorem State.onHost_blk (f : HostIf → HostIf) : (s.onHost f).blk = s.blk := rfl
@[simp] theorem State.onHost_red (f : HostIf → HostIf) : (s.onHost f).red = s.red := rfl
@[simp] theorem State.onHost_upd (f : HostIf → HostIf) : (s.onHost f).upd = s.upd := rfl
@[simp] theorem State.onHost_fab (f : HostIf → HostIf) : (s.onHost f).fab = s.fab := rfl
@[simp] theorem State.onHost_grm (f : HostIf → HostIf) : (s.onHost f).grm = s.grm := rfl
@[simp] theorem State.onHost_hlt (f : HostIf → HostIf) : (s.onHost f).hlt = s.hlt := rfl
@[simp] theorem State.onHost_pwr (f : HostIf → HostIf) : (s.onHost f).pwr = s.pwr := rfl
@[simp] theorem State.onHost_boot (f : HostIf → HostIf) : (s.onHost f).boot = s.boot := rfl
@[simp] theorem State.onHost_free (f : HostIf → HostIf) : (s.onHost f).free = s.free := rfl
@[simp] theorem State.onHost_pending (f : HostIf → HostIf) : (s.onHost f).pending = s.pending := rfl

/-! `cp`. -/

@[simp] theorem State.onCp_regs (f : CmdProc → CmdProc) : (s.onCp f).regs = s.regs := rfl
@[simp] theorem State.onCp_host (f : CmdProc → CmdProc) : (s.onCp f).host = s.host := rfl
@[simp] theorem State.onCp_cp (f : CmdProc → CmdProc) : (s.onCp f).cp = f s.cp := rfl
@[simp] theorem State.onCp_tim (f : CmdProc → CmdProc) : (s.onCp f).tim = s.tim := rfl
@[simp] theorem State.onCp_sch (f : CmdProc → CmdProc) : (s.onCp f).sch = s.sch := rfl
@[simp] theorem State.onCp_mem (f : CmdProc → CmdProc) : (s.onCp f).mem = s.mem := rfl
@[simp] theorem State.onCp_mov (f : CmdProc → CmdProc) : (s.onCp f).mov = s.mov := rfl
@[simp] theorem State.onCp_pad (f : CmdProc → CmdProc) : (s.onCp f).pad = s.pad := rfl
@[simp] theorem State.onCp_core (f : CmdProc → CmdProc) : (s.onCp f).core = s.core := rfl
@[simp] theorem State.onCp_blk (f : CmdProc → CmdProc) : (s.onCp f).blk = s.blk := rfl
@[simp] theorem State.onCp_red (f : CmdProc → CmdProc) : (s.onCp f).red = s.red := rfl
@[simp] theorem State.onCp_upd (f : CmdProc → CmdProc) : (s.onCp f).upd = s.upd := rfl
@[simp] theorem State.onCp_fab (f : CmdProc → CmdProc) : (s.onCp f).fab = s.fab := rfl
@[simp] theorem State.onCp_grm (f : CmdProc → CmdProc) : (s.onCp f).grm = s.grm := rfl
@[simp] theorem State.onCp_hlt (f : CmdProc → CmdProc) : (s.onCp f).hlt = s.hlt := rfl
@[simp] theorem State.onCp_pwr (f : CmdProc → CmdProc) : (s.onCp f).pwr = s.pwr := rfl
@[simp] theorem State.onCp_boot (f : CmdProc → CmdProc) : (s.onCp f).boot = s.boot := rfl
@[simp] theorem State.onCp_free (f : CmdProc → CmdProc) : (s.onCp f).free = s.free := rfl
@[simp] theorem State.onCp_pending (f : CmdProc → CmdProc) : (s.onCp f).pending = s.pending := rfl

/-! `tim`. -/

@[simp] theorem State.onTim_regs (f : TimeBase → TimeBase) : (s.onTim f).regs = s.regs := rfl
@[simp] theorem State.onTim_host (f : TimeBase → TimeBase) : (s.onTim f).host = s.host := rfl
@[simp] theorem State.onTim_cp (f : TimeBase → TimeBase) : (s.onTim f).cp = s.cp := rfl
@[simp] theorem State.onTim_tim (f : TimeBase → TimeBase) : (s.onTim f).tim = f s.tim := rfl
@[simp] theorem State.onTim_sch (f : TimeBase → TimeBase) : (s.onTim f).sch = s.sch := rfl
@[simp] theorem State.onTim_mem (f : TimeBase → TimeBase) : (s.onTim f).mem = s.mem := rfl
@[simp] theorem State.onTim_mov (f : TimeBase → TimeBase) : (s.onTim f).mov = s.mov := rfl
@[simp] theorem State.onTim_pad (f : TimeBase → TimeBase) : (s.onTim f).pad = s.pad := rfl
@[simp] theorem State.onTim_core (f : TimeBase → TimeBase) : (s.onTim f).core = s.core := rfl
@[simp] theorem State.onTim_blk (f : TimeBase → TimeBase) : (s.onTim f).blk = s.blk := rfl
@[simp] theorem State.onTim_red (f : TimeBase → TimeBase) : (s.onTim f).red = s.red := rfl
@[simp] theorem State.onTim_upd (f : TimeBase → TimeBase) : (s.onTim f).upd = s.upd := rfl
@[simp] theorem State.onTim_fab (f : TimeBase → TimeBase) : (s.onTim f).fab = s.fab := rfl
@[simp] theorem State.onTim_grm (f : TimeBase → TimeBase) : (s.onTim f).grm = s.grm := rfl
@[simp] theorem State.onTim_hlt (f : TimeBase → TimeBase) : (s.onTim f).hlt = s.hlt := rfl
@[simp] theorem State.onTim_pwr (f : TimeBase → TimeBase) : (s.onTim f).pwr = s.pwr := rfl
@[simp] theorem State.onTim_boot (f : TimeBase → TimeBase) : (s.onTim f).boot = s.boot := rfl
@[simp] theorem State.onTim_free (f : TimeBase → TimeBase) : (s.onTim f).free = s.free := rfl
@[simp] theorem State.onTim_pending (f : TimeBase → TimeBase) : (s.onTim f).pending = s.pending := rfl

/-! `sch`. -/

@[simp] theorem State.onSch_regs (f : Sched → Sched) : (s.onSch f).regs = s.regs := rfl
@[simp] theorem State.onSch_host (f : Sched → Sched) : (s.onSch f).host = s.host := rfl
@[simp] theorem State.onSch_cp (f : Sched → Sched) : (s.onSch f).cp = s.cp := rfl
@[simp] theorem State.onSch_tim (f : Sched → Sched) : (s.onSch f).tim = s.tim := rfl
@[simp] theorem State.onSch_sch (f : Sched → Sched) : (s.onSch f).sch = f s.sch := rfl
@[simp] theorem State.onSch_mem (f : Sched → Sched) : (s.onSch f).mem = s.mem := rfl
@[simp] theorem State.onSch_mov (f : Sched → Sched) : (s.onSch f).mov = s.mov := rfl
@[simp] theorem State.onSch_pad (f : Sched → Sched) : (s.onSch f).pad = s.pad := rfl
@[simp] theorem State.onSch_core (f : Sched → Sched) : (s.onSch f).core = s.core := rfl
@[simp] theorem State.onSch_blk (f : Sched → Sched) : (s.onSch f).blk = s.blk := rfl
@[simp] theorem State.onSch_red (f : Sched → Sched) : (s.onSch f).red = s.red := rfl
@[simp] theorem State.onSch_upd (f : Sched → Sched) : (s.onSch f).upd = s.upd := rfl
@[simp] theorem State.onSch_fab (f : Sched → Sched) : (s.onSch f).fab = s.fab := rfl
@[simp] theorem State.onSch_grm (f : Sched → Sched) : (s.onSch f).grm = s.grm := rfl
@[simp] theorem State.onSch_hlt (f : Sched → Sched) : (s.onSch f).hlt = s.hlt := rfl
@[simp] theorem State.onSch_pwr (f : Sched → Sched) : (s.onSch f).pwr = s.pwr := rfl
@[simp] theorem State.onSch_boot (f : Sched → Sched) : (s.onSch f).boot = s.boot := rfl
@[simp] theorem State.onSch_free (f : Sched → Sched) : (s.onSch f).free = s.free := rfl
@[simp] theorem State.onSch_pending (f : Sched → Sched) : (s.onSch f).pending = s.pending := rfl

/-! `mem`. -/

@[simp] theorem State.onMem_regs (f : MemSys → MemSys) : (s.onMem f).regs = s.regs := rfl
@[simp] theorem State.onMem_host (f : MemSys → MemSys) : (s.onMem f).host = s.host := rfl
@[simp] theorem State.onMem_cp (f : MemSys → MemSys) : (s.onMem f).cp = s.cp := rfl
@[simp] theorem State.onMem_tim (f : MemSys → MemSys) : (s.onMem f).tim = s.tim := rfl
@[simp] theorem State.onMem_sch (f : MemSys → MemSys) : (s.onMem f).sch = s.sch := rfl
@[simp] theorem State.onMem_mem (f : MemSys → MemSys) : (s.onMem f).mem = f s.mem := rfl
@[simp] theorem State.onMem_mov (f : MemSys → MemSys) : (s.onMem f).mov = s.mov := rfl
@[simp] theorem State.onMem_pad (f : MemSys → MemSys) : (s.onMem f).pad = s.pad := rfl
@[simp] theorem State.onMem_core (f : MemSys → MemSys) : (s.onMem f).core = s.core := rfl
@[simp] theorem State.onMem_blk (f : MemSys → MemSys) : (s.onMem f).blk = s.blk := rfl
@[simp] theorem State.onMem_red (f : MemSys → MemSys) : (s.onMem f).red = s.red := rfl
@[simp] theorem State.onMem_upd (f : MemSys → MemSys) : (s.onMem f).upd = s.upd := rfl
@[simp] theorem State.onMem_fab (f : MemSys → MemSys) : (s.onMem f).fab = s.fab := rfl
@[simp] theorem State.onMem_grm (f : MemSys → MemSys) : (s.onMem f).grm = s.grm := rfl
@[simp] theorem State.onMem_hlt (f : MemSys → MemSys) : (s.onMem f).hlt = s.hlt := rfl
@[simp] theorem State.onMem_pwr (f : MemSys → MemSys) : (s.onMem f).pwr = s.pwr := rfl
@[simp] theorem State.onMem_boot (f : MemSys → MemSys) : (s.onMem f).boot = s.boot := rfl
@[simp] theorem State.onMem_free (f : MemSys → MemSys) : (s.onMem f).free = s.free := rfl
@[simp] theorem State.onMem_pending (f : MemSys → MemSys) : (s.onMem f).pending = s.pending := rfl

/-! `mov`. -/

@[simp] theorem State.onMov_regs (f : Movers → Movers) : (s.onMov f).regs = s.regs := rfl
@[simp] theorem State.onMov_host (f : Movers → Movers) : (s.onMov f).host = s.host := rfl
@[simp] theorem State.onMov_cp (f : Movers → Movers) : (s.onMov f).cp = s.cp := rfl
@[simp] theorem State.onMov_tim (f : Movers → Movers) : (s.onMov f).tim = s.tim := rfl
@[simp] theorem State.onMov_sch (f : Movers → Movers) : (s.onMov f).sch = s.sch := rfl
@[simp] theorem State.onMov_mem (f : Movers → Movers) : (s.onMov f).mem = s.mem := rfl
@[simp] theorem State.onMov_mov (f : Movers → Movers) : (s.onMov f).mov = f s.mov := rfl
@[simp] theorem State.onMov_pad (f : Movers → Movers) : (s.onMov f).pad = s.pad := rfl
@[simp] theorem State.onMov_core (f : Movers → Movers) : (s.onMov f).core = s.core := rfl
@[simp] theorem State.onMov_blk (f : Movers → Movers) : (s.onMov f).blk = s.blk := rfl
@[simp] theorem State.onMov_red (f : Movers → Movers) : (s.onMov f).red = s.red := rfl
@[simp] theorem State.onMov_upd (f : Movers → Movers) : (s.onMov f).upd = s.upd := rfl
@[simp] theorem State.onMov_fab (f : Movers → Movers) : (s.onMov f).fab = s.fab := rfl
@[simp] theorem State.onMov_grm (f : Movers → Movers) : (s.onMov f).grm = s.grm := rfl
@[simp] theorem State.onMov_hlt (f : Movers → Movers) : (s.onMov f).hlt = s.hlt := rfl
@[simp] theorem State.onMov_pwr (f : Movers → Movers) : (s.onMov f).pwr = s.pwr := rfl
@[simp] theorem State.onMov_boot (f : Movers → Movers) : (s.onMov f).boot = s.boot := rfl
@[simp] theorem State.onMov_free (f : Movers → Movers) : (s.onMov f).free = s.free := rfl
@[simp] theorem State.onMov_pending (f : Movers → Movers) : (s.onMov f).pending = s.pending := rfl

/-! `pad`. -/

@[simp] theorem State.onPad_regs (f : Pads → Pads) : (s.onPad f).regs = s.regs := rfl
@[simp] theorem State.onPad_host (f : Pads → Pads) : (s.onPad f).host = s.host := rfl
@[simp] theorem State.onPad_cp (f : Pads → Pads) : (s.onPad f).cp = s.cp := rfl
@[simp] theorem State.onPad_tim (f : Pads → Pads) : (s.onPad f).tim = s.tim := rfl
@[simp] theorem State.onPad_sch (f : Pads → Pads) : (s.onPad f).sch = s.sch := rfl
@[simp] theorem State.onPad_mem (f : Pads → Pads) : (s.onPad f).mem = s.mem := rfl
@[simp] theorem State.onPad_mov (f : Pads → Pads) : (s.onPad f).mov = s.mov := rfl
@[simp] theorem State.onPad_pad (f : Pads → Pads) : (s.onPad f).pad = f s.pad := rfl
@[simp] theorem State.onPad_core (f : Pads → Pads) : (s.onPad f).core = s.core := rfl
@[simp] theorem State.onPad_blk (f : Pads → Pads) : (s.onPad f).blk = s.blk := rfl
@[simp] theorem State.onPad_red (f : Pads → Pads) : (s.onPad f).red = s.red := rfl
@[simp] theorem State.onPad_upd (f : Pads → Pads) : (s.onPad f).upd = s.upd := rfl
@[simp] theorem State.onPad_fab (f : Pads → Pads) : (s.onPad f).fab = s.fab := rfl
@[simp] theorem State.onPad_grm (f : Pads → Pads) : (s.onPad f).grm = s.grm := rfl
@[simp] theorem State.onPad_hlt (f : Pads → Pads) : (s.onPad f).hlt = s.hlt := rfl
@[simp] theorem State.onPad_pwr (f : Pads → Pads) : (s.onPad f).pwr = s.pwr := rfl
@[simp] theorem State.onPad_boot (f : Pads → Pads) : (s.onPad f).boot = s.boot := rfl
@[simp] theorem State.onPad_free (f : Pads → Pads) : (s.onPad f).free = s.free := rfl
@[simp] theorem State.onPad_pending (f : Pads → Pads) : (s.onPad f).pending = s.pending := rfl

/-! `core`. -/

@[simp] theorem State.onCore_regs (f : Cores → Cores) : (s.onCore f).regs = s.regs := rfl
@[simp] theorem State.onCore_host (f : Cores → Cores) : (s.onCore f).host = s.host := rfl
@[simp] theorem State.onCore_cp (f : Cores → Cores) : (s.onCore f).cp = s.cp := rfl
@[simp] theorem State.onCore_tim (f : Cores → Cores) : (s.onCore f).tim = s.tim := rfl
@[simp] theorem State.onCore_sch (f : Cores → Cores) : (s.onCore f).sch = s.sch := rfl
@[simp] theorem State.onCore_mem (f : Cores → Cores) : (s.onCore f).mem = s.mem := rfl
@[simp] theorem State.onCore_mov (f : Cores → Cores) : (s.onCore f).mov = s.mov := rfl
@[simp] theorem State.onCore_pad (f : Cores → Cores) : (s.onCore f).pad = s.pad := rfl
@[simp] theorem State.onCore_core (f : Cores → Cores) : (s.onCore f).core = f s.core := rfl
@[simp] theorem State.onCore_blk (f : Cores → Cores) : (s.onCore f).blk = s.blk := rfl
@[simp] theorem State.onCore_red (f : Cores → Cores) : (s.onCore f).red = s.red := rfl
@[simp] theorem State.onCore_upd (f : Cores → Cores) : (s.onCore f).upd = s.upd := rfl
@[simp] theorem State.onCore_fab (f : Cores → Cores) : (s.onCore f).fab = s.fab := rfl
@[simp] theorem State.onCore_grm (f : Cores → Cores) : (s.onCore f).grm = s.grm := rfl
@[simp] theorem State.onCore_hlt (f : Cores → Cores) : (s.onCore f).hlt = s.hlt := rfl
@[simp] theorem State.onCore_pwr (f : Cores → Cores) : (s.onCore f).pwr = s.pwr := rfl
@[simp] theorem State.onCore_boot (f : Cores → Cores) : (s.onCore f).boot = s.boot := rfl
@[simp] theorem State.onCore_free (f : Cores → Cores) : (s.onCore f).free = s.free := rfl
@[simp] theorem State.onCore_pending (f : Cores → Cores) : (s.onCore f).pending = s.pending := rfl

/-! `blk`. -/

@[simp] theorem State.onBlk_regs (f : Blocks → Blocks) : (s.onBlk f).regs = s.regs := rfl
@[simp] theorem State.onBlk_host (f : Blocks → Blocks) : (s.onBlk f).host = s.host := rfl
@[simp] theorem State.onBlk_cp (f : Blocks → Blocks) : (s.onBlk f).cp = s.cp := rfl
@[simp] theorem State.onBlk_tim (f : Blocks → Blocks) : (s.onBlk f).tim = s.tim := rfl
@[simp] theorem State.onBlk_sch (f : Blocks → Blocks) : (s.onBlk f).sch = s.sch := rfl
@[simp] theorem State.onBlk_mem (f : Blocks → Blocks) : (s.onBlk f).mem = s.mem := rfl
@[simp] theorem State.onBlk_mov (f : Blocks → Blocks) : (s.onBlk f).mov = s.mov := rfl
@[simp] theorem State.onBlk_pad (f : Blocks → Blocks) : (s.onBlk f).pad = s.pad := rfl
@[simp] theorem State.onBlk_core (f : Blocks → Blocks) : (s.onBlk f).core = s.core := rfl
@[simp] theorem State.onBlk_blk (f : Blocks → Blocks) : (s.onBlk f).blk = f s.blk := rfl
@[simp] theorem State.onBlk_red (f : Blocks → Blocks) : (s.onBlk f).red = s.red := rfl
@[simp] theorem State.onBlk_upd (f : Blocks → Blocks) : (s.onBlk f).upd = s.upd := rfl
@[simp] theorem State.onBlk_fab (f : Blocks → Blocks) : (s.onBlk f).fab = s.fab := rfl
@[simp] theorem State.onBlk_grm (f : Blocks → Blocks) : (s.onBlk f).grm = s.grm := rfl
@[simp] theorem State.onBlk_hlt (f : Blocks → Blocks) : (s.onBlk f).hlt = s.hlt := rfl
@[simp] theorem State.onBlk_pwr (f : Blocks → Blocks) : (s.onBlk f).pwr = s.pwr := rfl
@[simp] theorem State.onBlk_boot (f : Blocks → Blocks) : (s.onBlk f).boot = s.boot := rfl
@[simp] theorem State.onBlk_free (f : Blocks → Blocks) : (s.onBlk f).free = s.free := rfl
@[simp] theorem State.onBlk_pending (f : Blocks → Blocks) : (s.onBlk f).pending = s.pending := rfl

/-! `red`. -/

@[simp] theorem State.onRed_regs (f : Reds → Reds) : (s.onRed f).regs = s.regs := rfl
@[simp] theorem State.onRed_host (f : Reds → Reds) : (s.onRed f).host = s.host := rfl
@[simp] theorem State.onRed_cp (f : Reds → Reds) : (s.onRed f).cp = s.cp := rfl
@[simp] theorem State.onRed_tim (f : Reds → Reds) : (s.onRed f).tim = s.tim := rfl
@[simp] theorem State.onRed_sch (f : Reds → Reds) : (s.onRed f).sch = s.sch := rfl
@[simp] theorem State.onRed_mem (f : Reds → Reds) : (s.onRed f).mem = s.mem := rfl
@[simp] theorem State.onRed_mov (f : Reds → Reds) : (s.onRed f).mov = s.mov := rfl
@[simp] theorem State.onRed_pad (f : Reds → Reds) : (s.onRed f).pad = s.pad := rfl
@[simp] theorem State.onRed_core (f : Reds → Reds) : (s.onRed f).core = s.core := rfl
@[simp] theorem State.onRed_blk (f : Reds → Reds) : (s.onRed f).blk = s.blk := rfl
@[simp] theorem State.onRed_red (f : Reds → Reds) : (s.onRed f).red = f s.red := rfl
@[simp] theorem State.onRed_upd (f : Reds → Reds) : (s.onRed f).upd = s.upd := rfl
@[simp] theorem State.onRed_fab (f : Reds → Reds) : (s.onRed f).fab = s.fab := rfl
@[simp] theorem State.onRed_grm (f : Reds → Reds) : (s.onRed f).grm = s.grm := rfl
@[simp] theorem State.onRed_hlt (f : Reds → Reds) : (s.onRed f).hlt = s.hlt := rfl
@[simp] theorem State.onRed_pwr (f : Reds → Reds) : (s.onRed f).pwr = s.pwr := rfl
@[simp] theorem State.onRed_boot (f : Reds → Reds) : (s.onRed f).boot = s.boot := rfl
@[simp] theorem State.onRed_free (f : Reds → Reds) : (s.onRed f).free = s.free := rfl
@[simp] theorem State.onRed_pending (f : Reds → Reds) : (s.onRed f).pending = s.pending := rfl

/-! `upd`. -/

@[simp] theorem State.onUpd_regs (f : Update → Update) : (s.onUpd f).regs = s.regs := rfl
@[simp] theorem State.onUpd_host (f : Update → Update) : (s.onUpd f).host = s.host := rfl
@[simp] theorem State.onUpd_cp (f : Update → Update) : (s.onUpd f).cp = s.cp := rfl
@[simp] theorem State.onUpd_tim (f : Update → Update) : (s.onUpd f).tim = s.tim := rfl
@[simp] theorem State.onUpd_sch (f : Update → Update) : (s.onUpd f).sch = s.sch := rfl
@[simp] theorem State.onUpd_mem (f : Update → Update) : (s.onUpd f).mem = s.mem := rfl
@[simp] theorem State.onUpd_mov (f : Update → Update) : (s.onUpd f).mov = s.mov := rfl
@[simp] theorem State.onUpd_pad (f : Update → Update) : (s.onUpd f).pad = s.pad := rfl
@[simp] theorem State.onUpd_core (f : Update → Update) : (s.onUpd f).core = s.core := rfl
@[simp] theorem State.onUpd_blk (f : Update → Update) : (s.onUpd f).blk = s.blk := rfl
@[simp] theorem State.onUpd_red (f : Update → Update) : (s.onUpd f).red = s.red := rfl
@[simp] theorem State.onUpd_upd (f : Update → Update) : (s.onUpd f).upd = f s.upd := rfl
@[simp] theorem State.onUpd_fab (f : Update → Update) : (s.onUpd f).fab = s.fab := rfl
@[simp] theorem State.onUpd_grm (f : Update → Update) : (s.onUpd f).grm = s.grm := rfl
@[simp] theorem State.onUpd_hlt (f : Update → Update) : (s.onUpd f).hlt = s.hlt := rfl
@[simp] theorem State.onUpd_pwr (f : Update → Update) : (s.onUpd f).pwr = s.pwr := rfl
@[simp] theorem State.onUpd_boot (f : Update → Update) : (s.onUpd f).boot = s.boot := rfl
@[simp] theorem State.onUpd_free (f : Update → Update) : (s.onUpd f).free = s.free := rfl
@[simp] theorem State.onUpd_pending (f : Update → Update) : (s.onUpd f).pending = s.pending := rfl

/-! `fab`. -/

@[simp] theorem State.onFab_regs (f : Fabric → Fabric) : (s.onFab f).regs = s.regs := rfl
@[simp] theorem State.onFab_host (f : Fabric → Fabric) : (s.onFab f).host = s.host := rfl
@[simp] theorem State.onFab_cp (f : Fabric → Fabric) : (s.onFab f).cp = s.cp := rfl
@[simp] theorem State.onFab_tim (f : Fabric → Fabric) : (s.onFab f).tim = s.tim := rfl
@[simp] theorem State.onFab_sch (f : Fabric → Fabric) : (s.onFab f).sch = s.sch := rfl
@[simp] theorem State.onFab_mem (f : Fabric → Fabric) : (s.onFab f).mem = s.mem := rfl
@[simp] theorem State.onFab_mov (f : Fabric → Fabric) : (s.onFab f).mov = s.mov := rfl
@[simp] theorem State.onFab_pad (f : Fabric → Fabric) : (s.onFab f).pad = s.pad := rfl
@[simp] theorem State.onFab_core (f : Fabric → Fabric) : (s.onFab f).core = s.core := rfl
@[simp] theorem State.onFab_blk (f : Fabric → Fabric) : (s.onFab f).blk = s.blk := rfl
@[simp] theorem State.onFab_red (f : Fabric → Fabric) : (s.onFab f).red = s.red := rfl
@[simp] theorem State.onFab_upd (f : Fabric → Fabric) : (s.onFab f).upd = s.upd := rfl
@[simp] theorem State.onFab_fab (f : Fabric → Fabric) : (s.onFab f).fab = f s.fab := rfl
@[simp] theorem State.onFab_grm (f : Fabric → Fabric) : (s.onFab f).grm = s.grm := rfl
@[simp] theorem State.onFab_hlt (f : Fabric → Fabric) : (s.onFab f).hlt = s.hlt := rfl
@[simp] theorem State.onFab_pwr (f : Fabric → Fabric) : (s.onFab f).pwr = s.pwr := rfl
@[simp] theorem State.onFab_boot (f : Fabric → Fabric) : (s.onFab f).boot = s.boot := rfl
@[simp] theorem State.onFab_free (f : Fabric → Fabric) : (s.onFab f).free = s.free := rfl
@[simp] theorem State.onFab_pending (f : Fabric → Fabric) : (s.onFab f).pending = s.pending := rfl

/-! `grm`. -/

@[simp] theorem State.onGrm_regs (f : Groom → Groom) : (s.onGrm f).regs = s.regs := rfl
@[simp] theorem State.onGrm_host (f : Groom → Groom) : (s.onGrm f).host = s.host := rfl
@[simp] theorem State.onGrm_cp (f : Groom → Groom) : (s.onGrm f).cp = s.cp := rfl
@[simp] theorem State.onGrm_tim (f : Groom → Groom) : (s.onGrm f).tim = s.tim := rfl
@[simp] theorem State.onGrm_sch (f : Groom → Groom) : (s.onGrm f).sch = s.sch := rfl
@[simp] theorem State.onGrm_mem (f : Groom → Groom) : (s.onGrm f).mem = s.mem := rfl
@[simp] theorem State.onGrm_mov (f : Groom → Groom) : (s.onGrm f).mov = s.mov := rfl
@[simp] theorem State.onGrm_pad (f : Groom → Groom) : (s.onGrm f).pad = s.pad := rfl
@[simp] theorem State.onGrm_core (f : Groom → Groom) : (s.onGrm f).core = s.core := rfl
@[simp] theorem State.onGrm_blk (f : Groom → Groom) : (s.onGrm f).blk = s.blk := rfl
@[simp] theorem State.onGrm_red (f : Groom → Groom) : (s.onGrm f).red = s.red := rfl
@[simp] theorem State.onGrm_upd (f : Groom → Groom) : (s.onGrm f).upd = s.upd := rfl
@[simp] theorem State.onGrm_fab (f : Groom → Groom) : (s.onGrm f).fab = s.fab := rfl
@[simp] theorem State.onGrm_grm (f : Groom → Groom) : (s.onGrm f).grm = f s.grm := rfl
@[simp] theorem State.onGrm_hlt (f : Groom → Groom) : (s.onGrm f).hlt = s.hlt := rfl
@[simp] theorem State.onGrm_pwr (f : Groom → Groom) : (s.onGrm f).pwr = s.pwr := rfl
@[simp] theorem State.onGrm_boot (f : Groom → Groom) : (s.onGrm f).boot = s.boot := rfl
@[simp] theorem State.onGrm_free (f : Groom → Groom) : (s.onGrm f).free = s.free := rfl
@[simp] theorem State.onGrm_pending (f : Groom → Groom) : (s.onGrm f).pending = s.pending := rfl

/-! `hlt`. -/

@[simp] theorem State.onHlt_regs (f : Health → Health) : (s.onHlt f).regs = s.regs := rfl
@[simp] theorem State.onHlt_host (f : Health → Health) : (s.onHlt f).host = s.host := rfl
@[simp] theorem State.onHlt_cp (f : Health → Health) : (s.onHlt f).cp = s.cp := rfl
@[simp] theorem State.onHlt_tim (f : Health → Health) : (s.onHlt f).tim = s.tim := rfl
@[simp] theorem State.onHlt_sch (f : Health → Health) : (s.onHlt f).sch = s.sch := rfl
@[simp] theorem State.onHlt_mem (f : Health → Health) : (s.onHlt f).mem = s.mem := rfl
@[simp] theorem State.onHlt_mov (f : Health → Health) : (s.onHlt f).mov = s.mov := rfl
@[simp] theorem State.onHlt_pad (f : Health → Health) : (s.onHlt f).pad = s.pad := rfl
@[simp] theorem State.onHlt_core (f : Health → Health) : (s.onHlt f).core = s.core := rfl
@[simp] theorem State.onHlt_blk (f : Health → Health) : (s.onHlt f).blk = s.blk := rfl
@[simp] theorem State.onHlt_red (f : Health → Health) : (s.onHlt f).red = s.red := rfl
@[simp] theorem State.onHlt_upd (f : Health → Health) : (s.onHlt f).upd = s.upd := rfl
@[simp] theorem State.onHlt_fab (f : Health → Health) : (s.onHlt f).fab = s.fab := rfl
@[simp] theorem State.onHlt_grm (f : Health → Health) : (s.onHlt f).grm = s.grm := rfl
@[simp] theorem State.onHlt_hlt (f : Health → Health) : (s.onHlt f).hlt = f s.hlt := rfl
@[simp] theorem State.onHlt_pwr (f : Health → Health) : (s.onHlt f).pwr = s.pwr := rfl
@[simp] theorem State.onHlt_boot (f : Health → Health) : (s.onHlt f).boot = s.boot := rfl
@[simp] theorem State.onHlt_free (f : Health → Health) : (s.onHlt f).free = s.free := rfl
@[simp] theorem State.onHlt_pending (f : Health → Health) : (s.onHlt f).pending = s.pending := rfl

/-! `pwr`. -/

@[simp] theorem State.onPwr_regs (f : Power → Power) : (s.onPwr f).regs = s.regs := rfl
@[simp] theorem State.onPwr_host (f : Power → Power) : (s.onPwr f).host = s.host := rfl
@[simp] theorem State.onPwr_cp (f : Power → Power) : (s.onPwr f).cp = s.cp := rfl
@[simp] theorem State.onPwr_tim (f : Power → Power) : (s.onPwr f).tim = s.tim := rfl
@[simp] theorem State.onPwr_sch (f : Power → Power) : (s.onPwr f).sch = s.sch := rfl
@[simp] theorem State.onPwr_mem (f : Power → Power) : (s.onPwr f).mem = s.mem := rfl
@[simp] theorem State.onPwr_mov (f : Power → Power) : (s.onPwr f).mov = s.mov := rfl
@[simp] theorem State.onPwr_pad (f : Power → Power) : (s.onPwr f).pad = s.pad := rfl
@[simp] theorem State.onPwr_core (f : Power → Power) : (s.onPwr f).core = s.core := rfl
@[simp] theorem State.onPwr_blk (f : Power → Power) : (s.onPwr f).blk = s.blk := rfl
@[simp] theorem State.onPwr_red (f : Power → Power) : (s.onPwr f).red = s.red := rfl
@[simp] theorem State.onPwr_upd (f : Power → Power) : (s.onPwr f).upd = s.upd := rfl
@[simp] theorem State.onPwr_fab (f : Power → Power) : (s.onPwr f).fab = s.fab := rfl
@[simp] theorem State.onPwr_grm (f : Power → Power) : (s.onPwr f).grm = s.grm := rfl
@[simp] theorem State.onPwr_hlt (f : Power → Power) : (s.onPwr f).hlt = s.hlt := rfl
@[simp] theorem State.onPwr_pwr (f : Power → Power) : (s.onPwr f).pwr = f s.pwr := rfl
@[simp] theorem State.onPwr_boot (f : Power → Power) : (s.onPwr f).boot = s.boot := rfl
@[simp] theorem State.onPwr_free (f : Power → Power) : (s.onPwr f).free = s.free := rfl
@[simp] theorem State.onPwr_pending (f : Power → Power) : (s.onPwr f).pending = s.pending := rfl

/-! `boot`. -/

@[simp] theorem State.onBoot_regs (f : Boot → Boot) : (s.onBoot f).regs = s.regs := rfl
@[simp] theorem State.onBoot_host (f : Boot → Boot) : (s.onBoot f).host = s.host := rfl
@[simp] theorem State.onBoot_cp (f : Boot → Boot) : (s.onBoot f).cp = s.cp := rfl
@[simp] theorem State.onBoot_tim (f : Boot → Boot) : (s.onBoot f).tim = s.tim := rfl
@[simp] theorem State.onBoot_sch (f : Boot → Boot) : (s.onBoot f).sch = s.sch := rfl
@[simp] theorem State.onBoot_mem (f : Boot → Boot) : (s.onBoot f).mem = s.mem := rfl
@[simp] theorem State.onBoot_mov (f : Boot → Boot) : (s.onBoot f).mov = s.mov := rfl
@[simp] theorem State.onBoot_pad (f : Boot → Boot) : (s.onBoot f).pad = s.pad := rfl
@[simp] theorem State.onBoot_core (f : Boot → Boot) : (s.onBoot f).core = s.core := rfl
@[simp] theorem State.onBoot_blk (f : Boot → Boot) : (s.onBoot f).blk = s.blk := rfl
@[simp] theorem State.onBoot_red (f : Boot → Boot) : (s.onBoot f).red = s.red := rfl
@[simp] theorem State.onBoot_upd (f : Boot → Boot) : (s.onBoot f).upd = s.upd := rfl
@[simp] theorem State.onBoot_fab (f : Boot → Boot) : (s.onBoot f).fab = s.fab := rfl
@[simp] theorem State.onBoot_grm (f : Boot → Boot) : (s.onBoot f).grm = s.grm := rfl
@[simp] theorem State.onBoot_hlt (f : Boot → Boot) : (s.onBoot f).hlt = s.hlt := rfl
@[simp] theorem State.onBoot_pwr (f : Boot → Boot) : (s.onBoot f).pwr = s.pwr := rfl
@[simp] theorem State.onBoot_boot (f : Boot → Boot) : (s.onBoot f).boot = f s.boot := rfl
@[simp] theorem State.onBoot_free (f : Boot → Boot) : (s.onBoot f).free = s.free := rfl
@[simp] theorem State.onBoot_pending (f : Boot → Boot) : (s.onBoot f).pending = s.pending := rfl

/-! A register write touches the registers alone. -/

@[simp] theorem State.setReg_host (a v : Nat) : (s.setReg a v).host = s.host := rfl
@[simp] theorem State.setReg_cp (a v : Nat) : (s.setReg a v).cp = s.cp := rfl
@[simp] theorem State.setReg_tim (a v : Nat) : (s.setReg a v).tim = s.tim := rfl
@[simp] theorem State.setReg_sch (a v : Nat) : (s.setReg a v).sch = s.sch := rfl
@[simp] theorem State.setReg_mem (a v : Nat) : (s.setReg a v).mem = s.mem := rfl
@[simp] theorem State.setReg_mov (a v : Nat) : (s.setReg a v).mov = s.mov := rfl
@[simp] theorem State.setReg_pad (a v : Nat) : (s.setReg a v).pad = s.pad := rfl
@[simp] theorem State.setReg_core (a v : Nat) : (s.setReg a v).core = s.core := rfl
@[simp] theorem State.setReg_blk (a v : Nat) : (s.setReg a v).blk = s.blk := rfl
@[simp] theorem State.setReg_red (a v : Nat) : (s.setReg a v).red = s.red := rfl
@[simp] theorem State.setReg_upd (a v : Nat) : (s.setReg a v).upd = s.upd := rfl
@[simp] theorem State.setReg_fab (a v : Nat) : (s.setReg a v).fab = s.fab := rfl
@[simp] theorem State.setReg_grm (a v : Nat) : (s.setReg a v).grm = s.grm := rfl
@[simp] theorem State.setReg_hlt (a v : Nat) : (s.setReg a v).hlt = s.hlt := rfl
@[simp] theorem State.setReg_pwr (a v : Nat) : (s.setReg a v).pwr = s.pwr := rfl
@[simp] theorem State.setReg_boot (a v : Nat) : (s.setReg a v).boot = s.boot := rfl
@[simp] theorem State.setReg_free (a v : Nat) : (s.setReg a v).free = s.free := rfl
@[simp] theorem State.setReg_pending (a v : Nat) : (s.setReg a v).pending = s.pending := rfl

/-! Taking an open value counts it, and changes nothing else. -/

@[simp] theorem takeFree_regs : (takeFree s).2.regs = s.regs := rfl
@[simp] theorem takeFree_host : (takeFree s).2.host = s.host := rfl
@[simp] theorem takeFree_cp : (takeFree s).2.cp = s.cp := rfl
@[simp] theorem takeFree_tim : (takeFree s).2.tim = s.tim := rfl
@[simp] theorem takeFree_sch : (takeFree s).2.sch = s.sch := rfl
@[simp] theorem takeFree_mem : (takeFree s).2.mem = s.mem := rfl
@[simp] theorem takeFree_mov : (takeFree s).2.mov = s.mov := rfl
@[simp] theorem takeFree_pad : (takeFree s).2.pad = s.pad := rfl
@[simp] theorem takeFree_core : (takeFree s).2.core = s.core := rfl
@[simp] theorem takeFree_blk : (takeFree s).2.blk = s.blk := rfl
@[simp] theorem takeFree_red : (takeFree s).2.red = s.red := rfl
@[simp] theorem takeFree_upd : (takeFree s).2.upd = s.upd := rfl
@[simp] theorem takeFree_fab : (takeFree s).2.fab = s.fab := rfl
@[simp] theorem takeFree_grm : (takeFree s).2.grm = s.grm := rfl
@[simp] theorem takeFree_hlt : (takeFree s).2.hlt = s.hlt := rfl
@[simp] theorem takeFree_pwr : (takeFree s).2.pwr = s.pwr := rfl
@[simp] theorem takeFree_boot : (takeFree s).2.boot = s.boot := rfl
@[simp] theorem takeFree_free : (takeFree s).2.free = s.free + 1 := rfl
@[simp] theorem takeFree_pending : (takeFree s).2.pending = s.pending := rfl

/-! Conditional updates. -/

@[simp] theorem State.when_true (f : State → State) : s.when true f = f s := rfl
@[simp] theorem State.when_false (f : State → State) : s.when false f = s := rfl

end Sys2Proof.Machine
end

