-- ==== Sys2Proof/Laws/Frames.lean ====
section
/-! SUPPORT. What the operations shared by the meanings can change: each says which parts of the state may
differ after it, and that every other part stands. -/
namespace Sys2Proof.Machine

open Sys2Proof

variable (s : State)

/-! Registers: only the register file. -/

theorem State.setReg_frame (a v : Nat) : s.setReg a v = { s with regs := (s.setReg a v).regs } := rfl
theorem State.latch_frame (a b : Nat) : s.latch a b = { s with regs := (s.latch a b).regs } := rfl
theorem State.count32_frame (a n : Nat) : s.count32 a n = { s with regs := (s.count32 a n).regs } := rfl
theorem State.count64_frame (a n : Nat) : s.count64 a n = { s with regs := (s.count64 a n).regs } := rfl
theorem touchReg_frame (fn a : Nat) : touchReg s fn a = { s with regs := (touchReg s fn a).regs } := rfl

theorem State.beat_frame (c : Nat) : s.beat c = { s with regs := (s.beat c).regs } := by
  unfold State.beat
  split <;> rfl

/-! Accounting: only the schedule's counters. -/

theorem State.accAdd_frame (k n : Nat) : s.accAdd k n = { s with sch := { s.sch with acc := (s.accAdd k n).sch.acc } } := rfl

theorem State.charge_frame (x i n : Nat) :
    s.charge x i n = { s with sch := { s.sch with acc := (s.charge x i n).sch.acc } } := by
  unfold State.charge
  split <;> rfl

/-! The health log and the fences. -/

theorem logEvent_frame (cls code cpath : Nat) (ctx : Option Nat) (data dom : Nat) :
    logEvent s cls code cpath ctx data dom = { s with hlt := (logEvent s cls code cpath ctx data dom).hlt } := rfl

/-- What a health event may change beside the log: the registers, the population and the ports' states. -/
def HealthOnly (s t : State) : Prop :=
  t = { s with
    hlt := t.hlt
    regs := t.regs
    boot := { s.boot with population := t.boot.population }
    fab := { s.fab with ports := t.fab.ports } }

theorem HealthOnly.refl : HealthOnly s s := rfl

theorem HealthOnly.trans {s t u : State} (h : HealthOnly s t) (k : HealthOnly t u) : HealthOnly s u := by
  unfold HealthOnly at *
  rw [k, h]

theorem healthOnly_onHlt (f : Health → Health) : HealthOnly s (s.onHlt f) := rfl
theorem healthOnly_setReg (a v : Nat) : HealthOnly s (s.setReg a v) := rfl
theorem healthOnly_latch (a b : Nat) : HealthOnly s (s.latch a b) := rfl
theorem healthOnly_count32 (a n : Nat) : HealthOnly s (s.count32 a n) := rfl
theorem healthOnly_count64 (a n : Nat) : HealthOnly s (s.count64 a n) := rfl

theorem healthOnly_logEvent (cls code cpath : Nat) (ctx : Option Nat) (data dom : Nat) :
    HealthOnly s (logEvent s cls code cpath ctx data dom) := rfl

theorem healthOnly_fenceOne (on : Bool) (u : Nat) : HealthOnly s (fenceOne on s u) := by
  unfold fenceOne
  dsimp only
  split
  · rfl
  · split
    · rfl
    · split
      · rfl
      · split <;> rfl

theorem healthOnly_foldl {α : Type} (f : State → α → State) (h : ∀ s a, HealthOnly s (f s a)) (l : List α) (s : State) :
    HealthOnly s (l.foldl f s) := by
  induction l generalizing s with
  | nil => exact HealthOnly.refl s
  | cons a l ih => exact (h s a).trans (ih (f s a))

theorem healthOnly_setFence (u : Nat) : HealthOnly s (setFence s u) := by
  unfold setFence
  exact (healthOnly_foldl _ (fun s a => healthOnly_fenceOne s true a) _ _).trans rfl

/-- An event toward a fence changes nothing else. -/
theorem healthOnly_fenceEvent (u : Nat) : HealthOnly s (fenceEvent s u) := by
  unfold fenceEvent
  dsimp only
  repeat' split
  all_goals first
    | rfl
    | exact (healthOnly_onHlt s _).trans (healthOnly_setFence _ _)

/-! Commands: only their table. -/

theorem State.updCmd_frame (id : Nat) (f : Cmd → Cmd) :
    s.updCmd id f = { s with cp := { s.cp with cmds := (s.updCmd id f).cp.cmds } } := rfl

theorem State.raise_frame (id st : Nat) :
    s.raise id st = { s with cp := { s.cp with cmds := (s.raise id st).cp.cmds } } := rfl

theorem State.updRing_frame (q : Nat) (f : Ring → Ring) :
    s.updRing q f = { s with cp := { s.cp with rings := (s.updRing q f).cp.rings } } := rfl

theorem State.updCtx_frame (x : Nat) (f : Ctx → Ctx) :
    s.updCtx x f = { s with sch := { s.sch with ctxs := (s.updCtx x f).sch.ctxs } } := rfl

theorem State.updPdk_frame (p : Nat) (f : Pdk → Pdk) :
    s.updPdk p f = { s with sch := { s.sch with pdks := (s.updPdk p f).sch.pdks } } := rfl

/-! The host: only its side of the interface. -/

theorem sendVector_frame (f v : Nat) : sendVector s f v = { s with host := (sendVector s f v).host } := rfl
theorem hostWrite_frame (a : Nat) (d : List Byte) : hostWrite s a d = { s with host := (hostWrite s a d).host } := rfl

/-! Pads, ports and tasks. -/

theorem updHnd_frame (c h : Nat) (f : Handle → Handle) :
    updHnd s c h f = { s with pad := { s.pad with handles := (updHnd s c h f).pad.handles } } := rfl

theorem setGroup_frame (c g st : Nat) :
    setGroup s c g st = { s with pad := { s.pad with groups := (setGroup s c g st).pad.groups } } := rfl

theorem updPort_frame (p : Nat) (f : Port → Port) :
    updPort s p f = { s with fab := { s.fab with ports := (updPort s p f).fab.ports } } := rfl

theorem State.updTask_frame (id : Nat) (f : Task → Task) :
    s.updTask id f = { s with upd := { s.upd with tasks := (s.updTask id f).upd.tasks } } := rfl

/-- The ring of another queue, the context, paddock or port of another number stand. -/
theorem State.updRing_other {q r : Nat} (f : Ring → Ring) (h : r ≠ q) : (s.updRing q f).ring r = s.ring r :=
  Tbl.get_upd_other _ _ _ h

@[simp] theorem State.updRing_self (q : Nat) (f : Ring → Ring) : (s.updRing q f).ring q = f (s.ring q) :=
  Tbl.get_upd_self _ _ _ _

theorem State.updCtx_other {x y : Nat} (f : Ctx → Ctx) (h : y ≠ x) : (s.updCtx x f).ctx y = s.ctx y :=
  Tbl.get_upd_other _ _ _ h

@[simp] theorem State.updCtx_self (x : Nat) (f : Ctx → Ctx) : (s.updCtx x f).ctx x = f (s.ctx x) :=
  Tbl.get_upd_self _ _ _ _

theorem State.updPdk_other {p q : Nat} (f : Pdk → Pdk) (h : q ≠ p) : (s.updPdk p f).pdk q = s.pdk q :=
  Tbl.get_upd_other _ _ _ h

@[simp] theorem State.updPdk_self (p : Nat) (f : Pdk → Pdk) : (s.updPdk p f).pdk p = f (s.pdk p) :=
  Tbl.get_upd_self _ _ _ _

theorem updPort_other {p q : Nat} (f : Port → Port) (h : q ≠ p) : portOf (updPort s p f) q = portOf s q :=
  Tbl.get_upd_other _ _ _ h

@[simp] theorem updPort_self (p : Nat) (f : Port → Port) : portOf (updPort s p f) p = f (portOf s p) :=
  Tbl.get_upd_self _ _ _ _


end Sys2Proof.Machine
end

