-- ==== Sys2Proof/Laws/Lift.lean ====
section
/-! SUPPORT. What the operations that lift a meaning to its row can answer: once for each, what it does
where its conditions hold, and everything it can do. -/
namespace Sys2Proof.Machine

open Sys2Proof

/-! The unit that a command names. -/

@[simp] theorem withUnit_true (s : State) : withUnit true s = .next s := rfl
@[simp] theorem withUnit_false (s : State) : withUnit false s = .fault .noSuchUnit := rfl

theorem withUnit_next {ok : Bool} {s t : State} (h : withUnit ok s = .next t) : ok = true ∧ t = s := by
  cases ok
  · simp at h
  · exact ⟨rfl, by simpa using h.symm⟩

theorem State.when_of {b : Bool} {s : State} (f : State → State) (h : b = true) : s.when b f = f s := by
  simp [State.when, h]

theorem State.when_not {b : Bool} {s : State} (f : State → State) (h : b = false) : s.when b f = s := by
  simp [State.when, h]

theorem State.when_cases (b : Bool) (s : State) (f : State → State) :
    b = true ∧ s.when b f = f s ∨ s.when b f = s := by
  cases b <;> simp [State.when]

/-- A unit's step on a die that is clocked. -/
theorem unitStep_runs {ok : Bool} {d : Nat} {s : State} (f : State → State) (h1 : ok = true)
    (h2 : dieRuns s d = true) : unitStep ok d s f = .next (f s) := by
  simp [unitStep, h1, h2]

/-- A unit's step carries out its meaning on a clocked die, and else nothing. -/
theorem unitStep_next {ok : Bool} {d : Nat} {s t : State} {f : State → State} (h : unitStep ok d s f = .next t) :
    ok = true ∧ (dieRuns s d = true ∧ t = f s ∨ t = s) := by
  obtain ⟨h1, h2⟩ := withUnit_next h
  refine ⟨h1, ?_⟩
  split at h2
  · exact .inl ⟨‹_›, h2⟩
  · exact .inr h2

/-! Packets at the head of a queue. -/

theorem onHead_ready {op q : Nat} {p : Packet} {s : State} (f : Packet → State → State) (h : HeadReady op q p s) :
    onHead op q s f = .next (f p s) := by
  obtain ⟨h1, h2, h3, h4, h5, h6⟩ := h
  simp [onHead, *]

/-- A packet command carries out its packet where that is ready, and else changes nothing. -/
theorem onHead_next {op q : Nat} {s t : State} {f : Packet → State → State} (h : onHead op q s f = .next t) :
    (∃ p, HeadReady op q p s ∧ t = f p s) ∨ t = s := by
  obtain ⟨h1, h2⟩ := withUnit_next h
  split at h2
  · split at h2
    · rename_i p hp hc
      simp only [Bool.and_eq_true, Bool.not_eq_true', decide_eq_true_eq] at hc h1
      exact .inl ⟨p, ⟨h1, hp, hc.1.1.1, hc.1.1.2, hc.1.2, hc.2⟩, h2⟩
    · exact .inr h2
  · exact .inr h2

/-! Packets that were received. -/

theorem onRx_ready {type vc p : Nat} {k : FPkt} {s : State} {ready : FPkt → Bool} (f : FPkt → State → State)
    (h : RxReady type vc p k s) (hr : ready k = true) : onRx type vc p s ready f = .next (f k (takenRx vc p k s)) := by
  obtain ⟨h1, h2, h3, h4⟩ := h
  simp [onRx, takenRx, *]

/-- A packet's row takes the first packet received where it has the row's type, and else changes nothing. -/
theorem onRx_next {type vc p : Nat} {s t : State} {ready : FPkt → Bool} {f : FPkt → State → State}
    (h : onRx type vc p s ready f = .next t) :
    (∃ k, RxReady type vc p k s ∧ ready k = true ∧ t = f k (takenRx vc p k s)) ∨ t = s := by
  obtain ⟨h1, h2⟩ := withUnit_next h
  split at h2
  · split at h2
    · rename_i k hk hc
      simp only [Bool.and_eq_true, decide_eq_true_eq] at hc h1
      exact .inl ⟨k, ⟨h1, hk, hc.1.1, hc.1.2⟩, hc.2, h2⟩
    · exact .inr h2
  · exact .inr h2

/-- The same for a type that comes on VC0, VC1 and VC2. -/
theorem onRx3_next {type p : Nat} {s t : State} {f : FPkt → State → State} (h : onRx3 type p s f = .next t) :
    (∃ v k, v < 3 ∧ RxReady type v p k s ∧ t = f k (takenRx v p k s)) ∨ t = s := by
  unfold onRx3 at h
  split at h
  · rename_i v hv
    have hm := List.mem_of_find?_eq_some hv
    rcases onRx_next h with ⟨k, a, -, b⟩ | b
    · exact .inl ⟨v, k, List.mem_range.1 hm, a, b⟩
    · exact .inr b
  · exact .inr (withUnit_next h).2

/-- An answer acts only where its generation is the requesting context's; else it is only taken. -/
theorem onAnswer_next {type p : Nat} {s t : State} {f : FPkt → State → State} (h : onAnswer type p s f = .next t) :
    (∃ k, RxReady type 1 p k s ∧ t = (if k.gen = (takenRx 1 p k s).gen k.ctx then f k (takenRx 1 p k s)
      else takenRx 1 p k s)) ∨ t = s := by
  rcases onRx_next h with ⟨k, a, -, b⟩ | b
  · exact .inl ⟨k, a, b⟩
  · exact .inr b

/-! Work that is due at a boundary. -/

theorem popDue_head {d : Due} {rest : List Due} {s : State} (f : State → State) (h : DueHead d rest s) :
    popDue s d f = f (takenDue rest s) := by
  simp [popDue, takenDue, h]

/-- Due work is done where it is the first, and else nothing happens. -/
theorem popDue_cases (d : Due) (s : State) (f : State → State) :
    (∃ rest, DueHead d rest s ∧ popDue s d f = f (takenDue rest s)) ∨ popDue s d f = s := by
  unfold popDue
  split
  · rename_i e rest h
    split
    · rename_i he
      exact .inl ⟨rest, by rw [← he]; exact h, rfl⟩
    · exact .inr rfl
  · exact .inr rfl

/-! Management messages. -/

theorem onMsg_serving {op : Nat} {m : Msg} {s : State} (f : Msg → State → State) (h : Serving op m s) :
    onMsg op s f = .next (f m s) := by
  obtain ⟨h1, h2, h3, h4, h5, h6, h7⟩ := h
  have : ¬ (needsRein op = true ∧ holdsRein s s.grm.tag = false) := by
    rintro ⟨a, b⟩
    simp [h6 a] at b
  simp [onMsg, State.when, *]

/-- A management command is carried out, refused by rein or form, or not served (R483, R491, R494). -/
theorem onMsg_next {op : Nat} {s t : State} {f : Msg → State → State} (h : onMsg op s f = .next t) :
    (∃ m, Serving op m s ∧ t = f m s)
      ∨ (∃ m, s.grm.cur = some m ∧ m.op = op ∧ (t = reply s m stNotOwner [] ∨ t = reply s m stBadParam [])) ∨ t = s := by
  unfold onMsg State.when at h
  simp only [Host.Outcome.next.injEq] at h
  split at h
  · rename_i hc
    simp only [Bool.and_eq_true, beq_iff_eq] at hc
    split at h
    · rename_i m hm
      split at h
      · exact .inr (.inr h.symm)
      · rename_i ho
        simp only [Bool.or_eq_true, bne_iff_ne, ne_eq, Bool.not_eq_true', not_or, Decidable.not_not,
          Bool.not_eq_false] at ho
        split at h
        · exact .inr (.inl ⟨m, hm, ho.1, .inl h.symm⟩)
        · rename_i hr
          simp only [Bool.and_eq_true, Bool.not_eq_true', not_and, Bool.not_eq_false] at hr
          split at h
          · exact .inr (.inl ⟨m, hm, ho.1, .inr h.symm⟩)
          · rename_i hk
            simp only [Bool.not_eq_true', Bool.not_eq_false] at hk
            exact .inl ⟨m, ⟨hc.1, hc.2, hm, ho.2, ho.1, hr, hk⟩, h.symm⟩
    · exact .inr (.inr h.symm)
  · exact .inr (.inr h.symm)

theorem onSpdm_ready {code need len path : Nat} {req : List Byte} {s : State} (f : Spdm → State → State)
    (h1 : aon s = true) (h2 : path % 2 = 1 ∨ hostUp s = true) (h3 : s.grm.st = 1) (h4 : len ≤ req.length)
    (h5 : fieldLE req 1 1 = code) (h6 : need ≤ (spdmOf s path).st) :
    onSpdm code need len path req s f = .next (f (spdmOf s path) s) := by
  have a : ¬ req.length < len := by omega
  have b : ¬ (spdmOf s path).st < need := by omega
  rcases h2 with h2 | h2 <;> simp [onSpdm, State.when, *]

theorem onPldm_ready {type cmd len : Nat} {req : List Byte} {s : State} (f : List Byte → State → State)
    (h1 : aon s = true) (h3 : s.grm.st = 1) (h4 : 3 + len ≤ req.length)
    (h5 : fieldLE req 1 1 % 64 = type) (h6 : fieldLE req 2 1 = cmd) :
    onPldm type cmd len req s f = .next (f (req.drop 3) s) := by
  have a : ¬ req.length < 3 + len := by omega
  simp [onPldm, State.when, *]

/-! Instructions of the update engine. -/

theorem updInstr_ready {opc : Nat} {t : Task} {e : UpdEntry} {s : State} (f : Task → UpdEntry → Nat → State → State)
    (h : NextWord opc t e s) : updInstr opc s f = .next (f t e (ruleWord (s.ctx t.ctx).rule t.pc) s) := by
  obtain ⟨h1, h2, h3, h4⟩ := h
  simp [updInstr, *]

/-- An instruction acts where it is the next word of the running task, and else nothing happens. -/
theorem updInstr_next {opc : Nat} {s u : State} {f : Task → UpdEntry → Nat → State → State}
    (h : updInstr opc s f = .next u) :
    (∃ t e, NextWord opc t e s ∧ u = f t e (ruleWord (s.ctx t.ctx).rule t.pc) s) ∨ u = s := by
  unfold updInstr at h
  simp only [Host.Outcome.next.injEq] at h
  split at h
  · rename_i t ht
    split at h
    · rename_i e he
      split at h
      · rename_i hc
        simp only [Bool.and_eq_true, beq_iff_eq] at hc
        exact .inl ⟨t, e, ⟨ht, he, hc.1, hc.2⟩, h.symm⟩
      · exact .inr h.symm
    · exact .inr h.symm
  · exact .inr h.symm

end Sys2Proof.Machine
end

