-- ==== Sys2Proof/Tests/Slice0.lean ====
section
/-! SUPPORT. Tests: each check of a well-formed command, the worked examples of the spec, and for every statement states
and operands that meet its hypotheses, each clause at a boundary of its range. -/
namespace Sys2Proof.Tests
open Sys2Proof Sys2Proof.Machine
set_option Elab.async false

/-! Each check of a well-formed command refuses an ill-formed one, which faults, and takes the last well-formed one. -/
theorem test_queue : (Instr.nop 256).wf = false ∧ (Instr.nop 255).wf = true := by decide
theorem test_ringQueue : (Instr.packetFetch 128).wf = false ∧ (Instr.packetFetch 127).wf = true := by decide
theorem test_port : (Instr.remoteWrite 25).wf = false ∧ (Instr.remoteWrite 24).wf = true := by decide
theorem test_landingPort : (Instr.readData 25).wf = false ∧ (Instr.readData (24 + 32 * 3)).wf = true
  ∧ (Instr.hostResp (25 + 32)).wf = false ∧ (Instr.hostResp 24).wf = true := by decide
theorem test_linkPort : (Instr.retrain 0 24 0).wf = false ∧ (Instr.retrain 0 23 0).wf = true := by decide
theorem test_die : (Instr.saddlebagScrubDone 4).wf = false ∧ (Instr.saddlebagScrubDone 3).wf = true := by decide
theorem test_way : (Instr.wayGate 3 16).wf = false ∧ (Instr.wayGate 4 15).wf = false ∧ (Instr.wayGate 3 15).wf = true := by decide
theorem test_core : (Instr.handleClaim 256 0).wf = false ∧ (Instr.handleClaim 255 64).wf = false
  ∧ (Instr.handleClaim 255 63).wf = true := by decide
theorem test_site : (Instr.passIssue 0 3).wf = false ∧ (Instr.passIssue 256 0).wf = false ∧ (Instr.passIssue 255 2).wf = true := by
  decide
theorem test_faultSite : (Instr.coreFault 0 10 0 0).wf = false ∧ (Instr.coreFault 0 9 0 0).wf = true := by decide
theorem test_group : (Instr.bankGroupGateRequest 0 8).wf = false ∧ (Instr.bankGroupGateRequest 255 7).wf = true := by decide
theorem test_paddock : (Instr.gaitTableEffect 16).wf = false ∧ (Instr.gaitTableEffect 15).wf = true := by decide
theorem test_memory : (Instr.recalibration 20 true).wf = false ∧ (Instr.recalibration 19 true).wf = true := by decide
theorem test_sensor : (Instr.thermalSensorRead 16 0).wf = false ∧ (Instr.thermalSensorRead (4 * 64 + 4) 0).wf = false
  ∧ (Instr.thermalSensorRead 1032 0).wf = false ∧ (Instr.thermalSensorRead 2060 0).wf = false
  ∧ (Instr.thermalSensorRead 2059 0).wf = true ∧ (Instr.thermalSensorRead 15 0).wf = true := by decide
theorem test_patrolWord : (Instr.sthPatrolRead 0 1572864 0).wf = false ∧ (Instr.sthPatrolRead 3 1572863 0).wf = true := by decide
theorem test_padWord : (Instr.padPatrolRead 0 2048 0 0).wf = false ∧ (Instr.padPatrolRead 256 0 0 0).wf = false
  ∧ (Instr.padPatrolRead 255 2047 63 0).wf = true := by decide
theorem test_function : (Instr.vfEnable 0 true).wf = false ∧ (Instr.vfEnable 17 true).wf = false
  ∧ (Instr.vfEnable 16 true).wf = true := by decide
theorem test_cluster : (Instr.clusterGate 32).wf = false ∧ (Instr.clusterGate 31).wf = true := by decide
theorem test_stream : (Instr.updStreamUe 4 0).wf = false ∧ (Instr.updStreamUe 3 0).wf = true := by decide
theorem test_wakePin : (Instr.wakePinEvent 4 true).wf = false ∧ (Instr.wakePinEvent 3 true).wf = true := by decide
theorem test_channel : (Instr.hbmRefresh 512 0).wf = false ∧ (Instr.hbmRefresh 511 0).wf = true := by decide
theorem test_domain : (Instr.domainWakeDone 32).wf = false ∧ (Instr.domainWakeDone 351).wf = false
  ∧ (Instr.domainWakeDone 416).wf = false ∧ (Instr.domainWakeDone 415).wf = true := by decide
theorem test_context : (Instr.teardownDrainTimeout 64).wf = false ∧ (Instr.teardownDrainTimeout 63).wf = true := by decide
theorem test_reductionUnit : (Instr.redInjArm 0 56 0).wf = false ∧ (Instr.redInjArm 0 55 0).wf = true := by decide
theorem test_fenceable : (Instr.selfTestDone [465] true).wf = false ∧ (Instr.selfTestDone [0, 464] true).wf = true := by decide
theorem test_gate : (Instr.gateAbandon 0 2048).wf = false ∧ (Instr.gateAbandon 1 32).wf = false ∧ (Instr.gateAbandon 3 0).wf = false
  ∧ (Instr.gateAbandon 2 63).wf = true := by decide

/-! A state in which the device runs, with context 0 in paddock 0. -/

def up : State :=
  { State.reset with
    host := { HostIf.reset with linkUp := true, windows := [(0, BitVec.ofNat 128 (3 * 2 ^ 104 + (2 ^ 40 - 1) * 2 ^ 64))] }
    cp := { CmdProc.reset with fetching := true }
    sch := { Sched.reset with
      ctxs := [(0, { Ctx.empty with
        live := true
        resident := true
        job := 7
        regions := [0x100000, 0x100000, 0x100000, 0x100000] })]
      pdks := [(0, { Pdk.empty with res := ⟨2 ^ 32 - 1, 2 ^ 64 - 1, [65535, 65535, 65535, 65535], 4095, 65535⟩ })] }
    mem := { MemSys.reset with tlb := (List.range 5).map fun m => ⟨m, 0, 0, 0, 3⟩ }
    grm := { Groom.reset with st := 1, holder := Master.pf, tag := Master.pf }
    boot := { Boot.reset with
      perst := false
      fuses := true
      configReady := true
      imageOk := true
      memTrained := true
      selfTest := true
      ready := true
      population := 0xFFFFF } }

/-- A packet of `n` bytes with the given fields (offset, bytes, value). -/
def packet (op n : Nat) (l : List (Nat × Nat × Nat)) : Packet :=
  ⟨((0, 1, op) :: l).foldl (fun b e => patch b e.1 (toLE e.2.1 e.2.2)) (List.replicate n 0#8), 0, 0, none, 0, 0⟩

/-- `s` with packet `p` at the head of the ring of context 0. -/
def at0 (p : Packet) (s : State) : State := s.onCp fun c => { c with waiting := [(0, [p])] }

/-- A handle of 16 rows of 64 columns of context 0 in state `st`. -/
def hd (st : Nat) : Handle := { Handle.unbound with rows := 16, width := 1, state := st, cols := 64 }

/-- `s` with handle `h` of core `c`. -/
def bind (c h : Nat) (e : Handle) (s : State) : State := updHnd s c h fun _ => e
theorem witness_nop : HeadReady 0x00 0 (packet 0 64 []) (at0 (packet 0 64 []) up) := by decide +kernel
theorem witness_fence : HeadReady 0x01 0 (packet 1 64 []) (at0 (packet 1 64 []) up)
  ∧ ringClear (at0 (packet 1 64 []) up) 0 = true := by decide +kernel
theorem witness_waitStride : HeadReady 0x02 0 (packet 2 64 []) (at0 (packet 2 64 []) up)
  ∧ waitTarget (packet 2 64 []) ≤ (at0 (packet 2 64 []) up).nowStride := by decide +kernel
def wSig (v : Nat) : Packet := packet 3 64 [(32, 2, v)]
theorem witness_signal_local : HeadReady 0x03 0 (wSig 0x8000) (at0 (wSig 0x8000) up)
  ∧ ringClear (at0 (wSig 0x8000) up) 0 = true ∧ bit ((wSig 0x8000).hdr 32 2) 15 = true
  ∧ bit ((wSig 0x8000).hdr 32 2) 14 = false := by decide +kernel
theorem witness_signal_host : HeadReady 0x03 0 (wSig 0x4000) (at0 (wSig 0x4000) up)
  ∧ ringClear (at0 (wSig 0x4000) up) 0 = true ∧ bit ((wSig 0x4000).hdr 32 2) 15 = false
  ∧ bit ((wSig 0x4000).hdr 32 2) 14 = true := by decide +kernel
theorem witness_signal_remote : HeadReady 0x03 0 (wSig 0) (at0 (wSig 0) up)
  ∧ ringClear (at0 (wSig 0) up) 0 = true ∧ bit ((wSig 0).hdr 32 2) 15 = false
  ∧ bit ((wSig 0).hdr 32 2) 14 = false := by decide +kernel
/-- Core 255, handle 63: the last of each; 2,048 rows of one word. -/
def wBind : Packet := packet 5 64 [(16, 1, 255), (17, 1, 63), (20, 2, 2048), (22, 2, 1), (32, 4, 64)]
theorem witness_handleBind : HeadReady 0x05 0 wBind (at0 wBind up) ∧ diesIssue (at0 wBind up) [coreDie 255] = true
  ∧ ctxOwnsCore (at0 wBind up) 0 255 = true ∧ wBind.hdr 16 1 = 255 ∧ wBind.hdr 17 1 = 63
  ∧ fmtReserved (wBind.hdr 24 1) = false ∧ wBind.hdr 26 1 < 64 ∧ (hnd (at0 wBind up) 255 63).bound = false
  ∧ bindOk (at0 wBind up) 255 63 (bindEntry (at0 wBind up) 0 wBind) = true := by decide +kernel
def wRel : Packet := packet 6 64 [(24, 8, 2 ^ 63)]
def sRel : State := at0 wRel (bind 0 63 (hd 2) up)
theorem witness_handleRelease : HeadReady 0x06 0 wRel sRel
  ∧ diesIssue sRel [coreDie (wRel.hdr 16 1)] = true ∧ ctxOwnsCore sRel 0 (wRel.hdr 16 1) = true
  ∧ (bitsOf (wRel.hdr 24 8) 64).filter (fun h => (hnd sRel (wRel.hdr 16 1) h).bound) = [63]
  ∧ ownedBy (hnd sRel 0 63) 0 (sRel.gen 0) = true ∧ canRelease (hnd sRel 0 63) = true := by decide +kernel
def wSet : Packet := packet 0x60 128 [(64, 2, 4095), (66, 2, 1)]
theorem witness_scaleSet : HeadReady 0x60 0 wSet (at0 wSet up) ∧ scaleSetOk wSet = true := by decide +kernel
def wSeed : Packet := packet 0x62 128 [(64, 8, 2 ^ 64 - 1)]
theorem witness_seedSet : HeadReady 0x62 0 wSeed (at0 wSeed up) ∧ allZero (slice wSeed.params 8 56) = true := by decide +kernel
def wRead (d : Nat) : Packet := packet 0x61 128 [(64, 2, 4095), (66, 2, 1), (68, 4, d)]
def sRead (d : Nat) : State := at0 (wRead d) up
theorem witness_scaleRead_device : HeadReady 0x61 0 (wRead 0) (sRead 0) ∧ scaleReadOk (wRead 0) = true
  ∧ bit ((wRead 0).par 4 4) 0 = false
  ∧ (vaWrite (slotImages (sRead 0) 0 4095 1).1 0 0 ((wRead 0).par 8 8) (slotImages (sRead 0) 0 4095 1).2).2 = 0 := by
  decide +kernel
theorem witness_scaleRead_host : HeadReady 0x61 0 (wRead 1) (sRead 1) ∧ scaleReadOk (wRead 1) = true
  ∧ bit ((wRead 1).par 4 4) 0 = true ∧ (wRead 1).lead = none
  ∧ hostOk (sRead 1) (wRead 1).fn ((wRead 1).par 8 8) 128 true = true := by decide +kernel
/-- Wait for 8 bytes to be at least `v`, for at most 1 µs. -/
def wWait (v : Nat) : Packet := packet 4 64 [(24, 8, v), (32, 4, 1)]
def sWait (v : Nat) : State := at0 (wWait v) up
theorem witness_waitValue : HeadReady 0x04 0 (wWait 0) (sWait 0) ∧ (vaRead (sWait 0) (homeDie (sWait 0) 0) 0 0 8).2.1 = 0
  ∧ waitMet (wWait 0) (leNat (vaRead (sWait 0) (homeDie (sWait 0) 0) 0 0 8).2.2) = true := by decide +kernel
/-- The limit with the condition unmet (1), and met (0). -/
theorem witness_waitValueTimeout : (sWait 1).headPkt 0 = some (wWait 1) ∧ (wWait 1).op = 0x04
  ∧ forSeat (sWait 1) (wWait 1) = false ∧ dieRuns (sWait 1) 5 = true ∧ (wWait 1).hdr 32 4 ≠ 0
  ∧ (peek (sWait 1) 0 0 0 false).1 = 0 ∧ waitMet (wWait 1) (leNat (dpaRead (sWait 1) 0 8)) = false
  ∧ (peek (sWait 0) 0 0 0 false).1 = 0 ∧ (ueWords (sWait 0) 0 8).isEmpty = true
  ∧ waitMet (wWait 0) (leNat (dpaRead (sWait 0) 0 8)) = true ∧ mayIssue (sWait 0) 0 (wWait 0) = true := by
  decide +kernel
/-- 32 rows of 16 bytes, or `n`, at core 0, handle 0. -/
def wMove (op n : Nat) : Packet :=
  packet op 128 [(1, 1, 1), (64, 1, 1), (104, 4, 16), (108, 4, n), (112, 4, 16)]
def sMove (op n : Nat) : State := at0 (wMove op n) (bind 0 0 (hd 2) up)
theorem witness_load : HeadReady 0x10 0 (wMove 0x10 16) (sMove 0x10 16) ∧ dmaCheck (sMove 0x10 16) 0 .load (wMove 0x10 16) = 0
  ∧ diesIssue (sMove 0x10 16) (jobDies (dmaJobs .load (wMove 0x10 16))) = true := by decide +kernel
theorem witness_store : HeadReady 0x11 0 (wMove 0x11 16) (sMove 0x11 16)
  ∧ dmaCheck (sMove 0x11 16) 0 .store (wMove 0x11 16) = 0
  ∧ diesIssue (sMove 0x11 16) (jobDies (dmaJobs .store (wMove 0x11 16))) = true := by decide +kernel
theorem witness_offload : HeadReady 0x14 0 (wMove 0x14 1048576) (sMove 0x14 1048576)
  ∧ dmaCheck (sMove 0x14 1048576) 0 .offload (wMove 0x14 1048576) = 0 := by decide +kernel
theorem witness_prefetch : HeadReady 0x15 0 (wMove 0x15 1048576) (sMove 0x15 1048576)
  ∧ dmaCheck (sMove 0x15 1048576) 0 .prefetch (wMove 0x15 1048576) = 0 := by decide +kernel
def wGather (op mode : Nat) : Packet :=
  packet op 192 [(1, 1, 2), (64, 1, 1), (104, 4, 1), (108, 4, 16), (120, 4, 16), (124, 1, 7), (125, 1, mode),
    (152, 4, 65535), (156, 2, 4096), (158, 2, 4095)]
def sGather (op mode : Nat) : State := at0 (wGather op mode) (bind 0 0 (hd 2) up)
theorem witness_gather : HeadReady 0x12 0 (wGather 0x12 0) (sGather 0x12 0)
  ∧ gatherCheck (sGather 0x12 0) 0 0x12 (wGather 0x12 0) = 0
  ∧ diesIssue (sGather 0x12 0) (jobDies (gatherJobs (wGather 0x12 0))) = true := by decide +kernel
theorem witness_scatter : HeadReady 0x13 0 (wGather 0x13 1) (sGather 0x13 1)
  ∧ gatherCheck (sGather 0x13 1) 0 0x13 (wGather 0x13 1) = 0
  ∧ diesIssue (sGather 0x13 1) (jobDies (gatherJobs (wGather 0x13 1))) = true := by decide +kernel
theorem witness_routeTokens : HeadReady 0x34 0 (wGather 0x34 3) (sGather 0x34 3)
  ∧ gatherCheck (sGather 0x34 3) 0 0x34 (wGather 0x34 3) = 0
  ∧ diesIssue (sGather 0x34 3) (jobDies (gatherJobs (wGather 0x34 3))) = true := by decide +kernel
theorem witness_gatherDescriptorAssign : dieRuns up 3 = true := by decide +kernel
def sClaim : State := (bind 255 63 (hd 0) up).onPad fun p => { p with claims := [⟨255, 63, 0, 0, 16, noJob⟩] }
theorem witness_handleClaim : dieRuns sClaim (coreDie 255) = true
  ∧ sClaim.pad.claims.find? (fun c => c.core == 255 && c.h == 63) = some ⟨255, 63, 0, 0, 16, noJob⟩
  ∧ canClaim (hnd sClaim 255 63) 0 = true ∧ groupsReady sClaim 255 (hnd sClaim 255 63) true = true := by decide +kernel
/-- A read of 32 bytes by issuer `i`. -/
def rq (host : Bool) (i : Nat) : Req :=
  ⟨0, 0, 0, 0, i, 0, false, false, host, 0, 0, 32, [], .none, 0, 0, false, false, false⟩
def sWaits (host : Bool) : State := up.onMov fun m => { m with waiting := [rq host 0] }
theorem witness_requestAdmit : (sWaits false).mov.waiting.find? (·.id == 0) = some (rq false 0)
  ∧ dieRuns (sWaits false) (issuerDie 0) = true ∧ tagFree (sWaits false) 0 = true
  ∧ reqPlace (sWaits false) (rq false 0) = (0, 0, 0) ∧ 0 ≠ noTarget ∧ (srUnit (sWaits false) (targetUnit 0)).st = 0
  ∧ countAt (sWaits false) 0 < capOf (sWaits false) 0 ∧ oldestFor (sWaits false) (rq false 0) 0 = true := by
  decide +kernel
theorem witness_requestAdmit_host : (sWaits true).mov.waiting.find? (·.id == 0) = some (rq true 0)
  ∧ dieRuns (sWaits true) (issuerDie 0) = true ∧ tagFree (sWaits true) 0 = true
  ∧ (rq true 0).host = true ∧ (sWaits true).host.linkUp = true := by decide +kernel
def sFlight : State := up.onMov fun m => { m with flight := [rq false 0] }
theorem witness_requestLand : sFlight.mov.flight.find? (·.id == 0) = some (rq false 0)
  ∧ dieRuns sFlight (issuerDie 0) = true ∧ sFlight.mem.refreshing.contains 0 = false
  ∧ findingOk (rq false 0) (2 % 8) (2 / 8) = true := by decide +kernel
/-- A route job of one row for slot 3 of device 5 that has sent its row. -/
def wRoute : Job := { Job.empty with kind := .route, rows := 1, row := 1, idxFmt := 7, idx := [(0, some 5), (1, some 0x30), (2, some 0), (3, some 0)] }
def sRoute : State := up.onMov fun m => { m with jobs := [(64, [wRoute])] }
theorem witness_routeCountWrite :
    sRoute.mov.jobs.findSome? (fun e => (e.2.find? (·.id == 0)).map (e.1, ·)) = some (64, wRoute)
  ∧ wRoute.kind = .route ∧ wRoute.rows ≤ wRoute.row ∧ (routePairs wRoute).contains (5 + 4096 * 3) = true
  ∧ wRoute.counted.contains (5, 3) = false
  ∧ pairDone sRoute wRoute.cmd 5 3 = true ∧ tagFree sRoute 64 = true
  ∧ dieRuns sRoute (issuerDie 64) = true := by decide +kernel
theorem witness_hbmRefresh : alive up = true ∧ (srUnit up (511 / 64)).st ≠ 2 := by decide +kernel
theorem witness_recalibration : alive up = true ∧ (memUnits up).contains 19 = true ∧ (srUnit up 19).st = 0 := by
  decide +kernel
def sIdle : State := up.onPwr fun p => { p with phase := 2, target := 4 }
theorem witness_selfRefreshRequest : alive sIdle = true ∧ (memUnits sIdle).contains 19 = true
  ∧ (gaitWantsSr sIdle 19 || idleLongEnough sIdle 19) = true := by decide +kernel
def sSr (st : Nat) : State := setSr up 19 fun x => { x with st := st }
theorem witness_selfRefreshEntered : alive (sSr 1) = true ∧ (srUnit (sSr 1) 19).st = 1 ∧ unitBusy (sSr 1) 19 = false := by
  decide +kernel
def sSrBusy : State := (sSr 1).onMov fun m => { m with flight := [{ rq false 0 with target := 2 ^ 16 + 4096 * 11 }] }
theorem witness_selfRefreshAbandon : alive sSrBusy = true ∧ (srUnit sSrBusy 19).st = 1 ∧ unitBusy sSrBusy 19 = true := by
  decide +kernel
theorem witness_selfRefreshExitReady : alive (sSr 3) = true ∧ (srUnit (sSr 3) 19).st = 3
  ∧ resetting (sSr 3) (fuDomain (unitFence 19)).1 (fuDomain (unitFence 19)).2 = false := by decide +kernel
theorem witness_memPatrolRead : alive up = true ∧ framePopulated up (unitWordAddr 7 0) = true ∧ (srUnit up 7).st = 0
  ∧ bit (up.reg (unitBlk 7)) 0 = true ∧ addrUnit (unitWordAddr 7 0) = 7
  ∧ up.mov.waiting.any (fun r => (reqPlace up r).2.2 == targetOf up (unitWordAddr 7 0)) = false
  ∧ wordUe up (unitWordAddr 7 0) = false ∧ up.mem.sym.contains (unitWordAddr 7 0 / 32) = false := by decide +kernel
def sUntrained : State := up.onBoot fun b => { b with memTrained := false }
theorem witness_memTrainingDone : alive up = true ∧ up.boot.imageOk = true ∧ up.boot.memTrained = true
  ∧ alive sUntrained = true ∧ sUntrained.boot.imageOk = true
  ∧ sUntrained.boot.memTrained = false := by decide +kernel
/-- An operation of core 255 on one row of handle 0 into handle 63. -/
def vu (op : Nat) (alt : Bool) : VuOp := ⟨0, true, 0, 255, op, alt, 0, [0], [0], 63, 1, 64, false, [], [], 0, .op⟩
def sVu (op : Nat) (alt : Bool) : State :=
  (bind 255 63 { hd 1 with claimed := true, base := 2032 } (bind 255 0 (hd 2) up)).onCore fun k => { k with vuq := [vu op alt] }
/-- The state once the operation's input is read and checked. -/
def tVu (op : Nat) (alt : Bool) : State := (vuCheck (vuAcquire (sVu op alt) (vu op alt)) (vu op alt)).1
/-- One input serves every row: what tells the rows apart is the opcode and the variant. -/
theorem witness_vectorOperations :
    (∀ k ∈ [(0x02, none), (0x03, none), (0x05, none), (0x08, none), (0x09, none), (0x0A, none), (0x0B, none), (0x10, none),
        (0x11, none), (0x12, none), (0x13, none), (0x28, none), (0x29, none), (0x30, none), (0x01, some false),
        (0x04, some false), (0x20, some false)], VuReady k.1 k.2 255 (vu k.1 false) (sVu k.1 false) (tVu k.1 false))
  ∧ ∀ k ∈ [0x01, 0x04, 0x20], VuReady k (some true) 255 (vu k true) (sVu k true) (tVu k true) := by decide +kernel

/-- The memories of a MATMUL and of a block of one layer of 64 × 64 at 0x1000, whose version record is at 0x2000 and
gradient record at 0x3000. -/
def wMem (l : List (Nat × Nat × Nat)) : Tbl Byte := l.foldl (fun m e => memWriteN m e.1 (toLE e.2.1 e.2.2)) []
def withMem (l : List (Nat × Nat × Nat)) (s : State) : State := s.onMem fun m => { m with dpa := wMem l }
def wMm : Packet := packet 0x20 192 [(0, 1, 0x20), (1, 1, 2), (80, 8, 0x2000), (92, 4, 65536), (96, 4, 64), (100, 4, 64),
  (104, 4, 1), (108, 4, 1), (112, 4, 1), (116, 4, 2 ^ 32 - 1)]
def sMm : State := at0 wMm (withMem [(0x2008, 8, 0x80000)] up)
theorem witness_matmul_memory : HeadReady 0x20 0 wMm sMm ∧ bit (wMm.par 27 1) 0 = false ∧ mmMemStatus sMm 0 wMm = 0
  ∧ diesIssue sMm (diesOf (wMm.par 52 4)) = true ∧ (acquireAt sMm 0 (wMm.par 16 8) (wMm.par 24 2)).2.1 = 0 := by
  decide +kernel
def wMh : Packet := packet 0x20 192 [(1, 1, 2), (91, 1, 1), (92, 4, 128), (96, 4, 64), (100, 4, 64),
  (104, 4, 1), (108, 4, 1), (112, 4, 1), (120, 1, 255), (121, 1, 0), (122, 1, 1), (123, 1, 63)]
def hm (base rows : Nat) : Handle := { hd 2 with base := base, rows := rows, cols := 8, fmt := 1 }
def sMh : State := at0 wMh (bind 255 63 (hm 1024 128) (bind 255 1 (hm 512 64) (bind 255 0 (hm 0 128) up)))
theorem witness_matmul_handles : HeadReady 0x20 0 wMh sMh ∧ bit (wMh.par 27 1) 0 = true ∧ mmHandleStatus sMh 0 wMh = 0
  ∧ diesIssue sMh [coreDie (wMh.par 56 1)] = true := by decide +kernel
def wAttn : Packet := packet 0x24 128 [(1, 1, 1), (80, 4, 1024), (84, 4, 1), (88, 4, 1), (92, 4, 1), (100, 2, 1), (102, 2, 64),
  (104, 1, 1)]
theorem witness_attn : HeadReady 0x24 0 wAttn (at0 wAttn up) ∧ attnStatus (at0 wAttn up) 0 wAttn = 0
  ∧ diesIssue (at0 wAttn up) (diesOf (wAttn.par 20 4)) = true := by decide +kernel
def wVec : Packet := packet 0x25 128 [(1, 1, 1), (65, 1, 0x10), (66, 1, 0), (67, 1, 0xFF), (68, 1, 0xFF), (69, 1, 63)]
def sVec : State := at0 wVec (bind 0 63 { hd 0 with base := 2032 } (bind 0 0 (hd 2) up))
theorem witness_vec : HeadReady 0x25 0 wVec sVec ∧ vecStatus sVec 0 wVec = 0 ∧ diesIssue sVec [coreDie (wVec.par 0 1)] = true := by
  decide +kernel
def wVer (all : Nat) : Packet := packet 0x42 128 [(1, 1, 1), (64, 4, 9), (68, 4, all)]
def wStash (ps : List Byte) : Stash := ⟨0, 9, ps, [0], [(0x2000, 0)]⟩
def sVer (all : Nat) : State := at0 (wVer all) (up.onBlk fun b => { b with stashes := [wStash []] })
theorem witness_versionRelease_all : HeadReady 0x42 0 (wVer 1) (sVer 1) ∧ (wVer 1).par 4 4 = 1
  ∧ allZero ((wVer 1).params.drop 8) = true := by decide +kernel
theorem witness_versionRelease_one : HeadReady 0x42 0 (wVer 0) (sVer 0) ∧ (wVer 0).par 4 4 = 0
  ∧ allZero ((wVer 0).params.drop 8) = true ∧ findStash (sVer 0) 0 ((wVer 0).par 0 4) = some (wStash []) := by decide +kernel
/-- A block command of 128 tokens on cluster 0 over one layer. -/
def wBlk (op : Nat) : Packet := packet op 192 [(1, 1, 2), (64, 8, 0x1000), (72, 1, 1), (74, 1, 1), (76, 4, 128), (80, 4, 1),
  (84, 2, 1), (88, 8, 0x10000), (96, 4, 1), (100, 4, 9), (104, 8, 0x20000), (120, 8, 0x30000), (128, 4, 1), (132, 4, 1),
  (136, 8, 0x40000)]
def wLayer : List (Nat × Nat × Nat) := [(0x1008, 4, 64), (0x100C, 4, 64), (0x1018, 8, 0x2000), (0x1020, 4, 1),
  (0x1038, 8, 0x3000), (0x1040, 4, 0x80), (0x1044, 4, 1), (0x2008, 8, 0x80000), (0x3000, 8, 0x100000)]
def sBlk (op : Nat) : State := at0 (wBlk op) (withMem wLayer up)
/-- The premises of the statements of BLOCK_FWD and BLOCK_TRAIN at `sBlk`. -/
def blkWitness (op kind : Nat) : Prop :=
  let s := sBlk op
  let p := wBlk op
  let d := readDescs s 0 (bpLayers p) (bpTable p) (op != 0x21)
  let v := reachAll d.1 0 d.2.2.layers
  let refs := List.zipWith (fun pa l => (pa, l.version)) v.2.2 d.2.2.layers
  let bufs := refs.map fun r => bufOf v.1 r.1 r.2
  HeadReady op 0 p s ∧ blockShape s 0 kind p = 0 ∧ diesIssue s (diesOf (bpClusters p)) = true ∧ d.2.1 = 0
    ∧ layersStatus kind p d.2.2 = 0 ∧ blockRegions d.1 0 p = 0 ∧ stashStatus d.1 0 kind p d.2.2.layers = 0
    ∧ coresFenced d.1 (partsOf (bpClusters p) (bpG p) (bpTokens p / 128)) = 0 ∧ v.2.1 = 0
    ∧ (acquireAll v.1 refs).2 = 0 ∧ anyMeet (blockOuts kind p d.2.2.layers) (blockIns p d.2.2 bufs) = false
    ∧ refs = [(0x2000, 0)] ∧ bufs = [0x80000]
theorem witness_blockFwd : blkWitness 0x21 0 := by unfold blkWitness; dsimp only; decide +kernel
theorem witness_blockTrain : blkWitness 0x22 1 := by unfold blkWitness; dsimp only; decide +kernel
def sBwd : State := (sBlk 0x23).onBlk fun b => { b with stashes := [wStash (wBlk 0x23).params] }
def dBwd : State × Nat × Descs := readDescs sBwd 0 1 0x1000 true
def vBwd : State := (reachAll dBwd.1 0 dBwd.2.2.layers).1
theorem witness_blockBwd : HeadReady 0x23 0 (wBlk 0x23) sBwd ∧ blockShape sBwd 0 2 (wBlk 0x23) = 0
  ∧ diesIssue sBwd (diesOf (bpClusters (wBlk 0x23))) = true ∧ dBwd.2.1 = 0 ∧ layersStatus 2 (wBlk 0x23) dBwd.2.2 = 0
  ∧ stashStatus dBwd.1 0 2 (wBlk 0x23) dBwd.2.2.layers = 0
  ∧ coresFenced dBwd.1 (partsOf (bpClusters (wBlk 0x23)) (bpG (wBlk 0x23)) (bpTokens (wBlk 0x23) / 128)) = 0
  ∧ (reachAll dBwd.1 0 dBwd.2.2.layers).2.1 = 0 ∧ ((findStash vBwd 0 (bpTag (wBlk 0x23))).elim [] (·.refs)).map (·.1) = [0x2000]
  ∧ anyMeet (blockOuts 2 (wBlk 0x23) dBwd.2.2.layers) (blockIns (wBlk 0x23) dBwd.2.2 [bufOf vBwd 0x2000 0]) = false := by
  decide +kernel
/-- The state after command `c`. -/
def after (c : Instr) (s : State) : State := match exec c s with | .next t => t | _ => s

def wBatch : Batch := ⟨0, [], [], 0, 0, 0⟩
def sBatch : State := (up.onCp fun c => { c with batches := [wBatch] }).onTim fun t => { t with localUs := 255 }
theorem witness_batchWindowExpiry : sBatch.cp.batches[0]? = some wBatch ∧ dieRuns sBatch 5 = true
  ∧ inSlot sBatch 0 = true ∧ wBatch.openUs + batchWindow sBatch 0 ≤ sBatch.nowUs := by decide +kernel
def wRun : Run := ⟨0, 0, 0, 0, 0, true, 0, true⟩
def sLast : State := sBatch.updPdk 0 fun p => { p with loaded := true, run := some wRun }
theorem witness_batchBudgetDeadline : sLast.cp.batches[0]? = some wBatch ∧ dieRuns sLast 5 = true
  ∧ (sLast.pdk (sLast.ctx 0).pdk).loaded = true ∧ (sLast.pdk (sLast.ctx 0).pdk).run = some wRun ∧ wRun.ctx = 0
  ∧ usUntil sLast (boundaryNs sLast wRun.endStride) ≤ wBatch.budget := by decide +kernel
def tile (h : Nat) : Tile := ⟨.pad h, 0, 0, false⟩
def wProd (site : Option Nat) : Product :=
  { id := 0, op := 0, queued := true, cmd := 0, core := 255, cls := 0, fmtA := 1, fmtB := 1, outW := 64
    passes := [⟨[⟨0, 0, tile 1, tile 0, 0, 64, true⟩], []⟩]
    site := site, pair := 0, half := 0, packed := false, reads := [0, 1], writes := [63] }
def sCore (site : Option Nat) : State :=
  (bind 255 63 { hm 1024 128 with state := 1, claimed := true } (bind 255 1 (hm 512 64) (bind 255 0 (hm 0 128) up))).onCore
    fun k => { k with products := [wProd site] }
theorem witness_productTake : dieRuns (sCore none) (coreDie 255) = true ∧ firstWanting (kickAll (sCore none)) 255 0 (wProd none).id = true
  ∧ gateReady (kickAll (sCore none)) (coreCluster 255) = true
  ∧ nextProduct (kickAll (sCore none)) 255 0 = some (wProd none) := by decide +kernel
theorem witness_passIssue : dieRuns (sCore (some 0)) (coreDie 255) = true
  ∧ idleOn (sCore (some 0)) 255 0 = [wProd (some 0)]
  ∧ passesOn (sCore (some 0)) 255 0 < 3
  ∧ (idleOn (sCore (some 0)) 255 0).all (fun p => passReady (sCore (some 0)) p 0) = true
  ∧ gateReady (sCore (some 0)) (coreCluster 255) = true := by decide +kernel
def sPass : State := after (.passIssue 255 0) (sCore (some 0))
theorem witness_passRetire : dieRuns sPass (coreDie 255) = true
  ∧ (oldestPass sPass 255 0).length = 1 ∧ injected sPass 255 0 (oldestPass sPass 255 0) = none := by decide +kernel
def wDrain : PendDrain := ⟨0, 0, 255, 2, 0, ⟨0, 0, 0, 64, 64, .out 63 0 0, 1, false, 0, (0, 0), []⟩⟩
def sDrain : State := (sCore none).onCore fun k => { k with drains := [wDrain] }
theorem witness_drainDone : dieRuns sDrain (coreDie 255) = true ∧ (drainsOf sDrain 255)[0]? = some wDrain
  ∧ drainMayRun sDrain wDrain = true ∧ scrubHolds sDrain 255 = false := by decide +kernel
theorem witness_padSteps : dieRuns up (coreDie 255) = true ∧ bit (up.reg (coreBlk 255 + 0x400)) 0 = true
  ∧ Tbl.get 0 up.pad.patrol 255 = 0 ∧ (groupOf up 255 0).st < 2 ∧ xWaits up 255 = false := by decide +kernel
def sScrub : State := up.onPad fun p => { p with scrubs := [⟨255, 0, true⟩] }
theorem witness_padScrubDone : dieRuns sScrub (coreDie 255) = true
  ∧ sScrub.pad.scrubs.find? (·.core == 255) = some ⟨255, 0, true⟩ := by decide +kernel
def sGate (st : Nat) : State := setGroup ((up.setReg (coreBlk 255 + 0x400) 0x10101).onTim fun t => { t with localUs := 9 }) 255 7 st
theorem witness_bankGroupGateRequest : dieRuns (sGate 0) (coreDie 255) = true
  ∧ bit ((sGate 0).reg (coreBlk 255 + 0x400)) 8 = true ∧ (groupOf (sGate 0) 255 7).st = 0 ∧ groupUncovered (sGate 0) 255 7 = true
  ∧ (groupOf (sGate 0) 255 7).lastUse + bits ((sGate 0).reg (coreBlk 255 + 0x400)) 16 8 ≤ (sGate 0).nowUs := by decide +kernel
theorem witness_bankGroupGated : dieRuns (sGate 1) (coreDie 255) = true ∧ (groupOf (sGate 1) 255 7).st = 1
  ∧ groupUncovered (sGate 1) 255 7 = true ∧ staleWrites (sGate 1) 255 7 = false := by decide +kernel
theorem witness_bankGroupWakeDone : dieRuns (sGate 3) (coreDie 255) = true ∧ (groupOf (sGate 3) 255 7).st = 3 := by decide +kernel
def sStale : State := (sGate 1).onMov fun m => { m with flight := [{ rq false 192 with dst := .pad 255 5 0 0 2047, write := false }] }
theorem witness_gateAbandon : dieRuns sStale (coreDie 255) = true ∧ (groupOf sStale 255 7).st = 1
  ∧ staleWrites sStale 255 7 = true := by decide +kernel

/-- A run of BLOCK_TRAIN over one layer, as the command begins it, before any of its steps. -/
def iTrain : State × Nat := issue (sBlk 0x22) 0 (wBlk 0x22) [0]
def rTrain : BRun := { blockRun iTrain.2 0 1 (wBlk 0x22) ((readDescs (sBlk 0x22) 0 1 0x1000 true).2.2.layers.map fun l =>
  { l with buf := 0x80000 }) with pol := [0] }
def sTrain : State := iTrain.1.onBlk fun b => { b with runs := [rTrain] }
/-- The run with its parts at step `n`. -/
def rAt (n : Nat) : BRun := { rTrain with pos := rTrain.pos.map fun _ => n }
def sAt (n : Nat) : State := sTrain.onBlk fun b => { b with runs := [rAt n] }
theorem witness_stashReserve : runOf (sAt 1) rTrain.cmd = some (rAt 1) ∧ dieRuns (sAt 1) 0 = true
  ∧ ended (sAt 1) rTrain.cmd = false ∧ (rAt 1).polOf 0 = 0 ∧ 0 < (rAt 1).layers.length ∧ (rAt 1).decided.contains 0 = false
  ∧ (rAt 1).again = false
  ∧ ((List.range (rAt 1).parts.length).any fun j => (rAt 1).steps[(rAt 1).pos.getD j 0]? = some (.fwd 0 0)) = true
  ∧ waysReady (sAt 1) (rAt 1) = true ∧ (pickBlocks (sAt 1) (rAt 1) 0).isSome = true := by decide +kernel
def wX : Ten := ⟨tkey rTrain.cmd 0 0 rX, rTrain.cmd, 0, 1, 128, 64, 0, none⟩
def wStored (use : Nat) (landed : Bool) : Stored := ⟨rTrain.cmd, 0, none, 0, use, [[0], [], [], []], landed, false, false⟩
def sX (l : List Stored) (o : List Offload) : State :=
  (bind 0 0 (hm 0 128) (sAt 1)).onBlk fun b => { b with tens := [wX], stored := l, offloads := o }
theorem witness_stashCopyLanded : runOf (sX [wStored 0 false] []) rTrain.cmd = some (rAt 1)
  ∧ ended (sX [wStored 0 false] []) rTrain.cmd = false
  ∧ (sX [wStored 0 false] []).blk.stored.find? (fun t => t.cmd == rTrain.cmd && t.layer == 0 && t.use ≤ 1 && !t.landed)
      = some (wStored 0 false)
  ∧ allHold (sX [wStored 0 false] []) (rAt 1) 0 = true := by decide +kernel
def wOff (st : Nat) (direct : Bool) : Offload := ⟨rTrain.cmd, 0, none, 0, false, 0, 0x10000, st, direct, 0, false⟩
theorem witness_offloadDrainDone : runOf (sX [] [wOff 0 true]) rTrain.cmd = some (rAt 1)
  ∧ (sX [] [wOff 0 true]).blk.offloads.find? (fun o => o.cmd == rTrain.cmd && o.layer == 0 && o.st == 0) = some (wOff 0 true)
  ∧ (wOff 0 true).direct = true ∧ allHold (sX [] [wOff 0 true]) (rAt 1) 0 = true := by decide +kernel
def nX : Nat := (rTrain.steps.findIdx? (· = .needX 0)).getD 0
def sFetch (l : List Stored) : State := (sAt nX).onBlk fun b => { b with tens := [], stored := l, offloads := [wOff 1 false] }
theorem witness_offloadFetchStart : runOf (sFetch []) rTrain.cmd = some (rAt nX) ∧ (rAt nX).kind ≠ 0
  ∧ bwdBegun (rAt nX) (min (0 + bpLead (rAt nX).pkt) ((rAt nX).layers.length - 1)) = true
  ∧ offloadOf (sFetch []) (rAt nX) 0 = some (wOff 1 false) ∧ (wOff 1 false).tried ≠ bwdLayer (rAt nX) + 1 ∧ storedOf (sFetch []) (rAt nX) 0 = none
  ∧ (sFetch []).blk.stored.any (fun t => t.cmd == rTrain.cmd && t.layer == 0) = false
  ∧ allHold (sFetch []) (rAt nX) 0 = false ∧ waysReady (sFetch []) (rAt nX) = true := by decide +kernel
theorem witness_offloadFetchDone : (sFetch [wStored 3 false]).blk.stored.find?
      (fun t => t.cmd == rTrain.cmd && t.layer == 0 && t.use == 3 && !t.landed) = some (wStored 3 false)
  ∧ offloadOf (sFetch [wStored 3 false]) (rAt nX) 0 = some (wOff 1 false)
  ∧ viaLead (rAt nX) (wOff 1 false) = false
  ∧ (offloadBytes (sFetch [wStored 3 false]) (rAt nX) (wOff 1 false) 0 0 ((rAt nX).xBytes 0)).2.isSome = true := by decide +kernel
/-- An offloaded input whose staging blocks are drained. -/
theorem witness_offloadDrainDone_staged :
    runOf (sX [wStored 1 true] [wOff 0 false]) rTrain.cmd = some (rAt 1) ∧ (wOff 0 false).direct = false
  ∧ (sX [wStored 1 true] [wOff 0 false]).blk.stored.find? (fun t => t.cmd == rTrain.cmd && t.layer == 0 && t.use == 1 && t.landed)
      = some (wStored 1 true)
  ∧ (sX [wStored 1 true] [wOff 0 false]).blk.offloads.find? (fun o => o.cmd == rTrain.cmd && o.layer == 0 && o.st == 0)
      = some (wOff 0 false) := by decide +kernel
/-- The same with two layers, at the need of the input of the second. -/
def rTwo : BRun := { rTrain with layers := rTrain.layers ++ rTrain.layers, steps := [.needX 1], pos := rTrain.pos.map fun _ => 0 }
def sTwo : State := sTrain.onBlk fun b => { b with runs := [rTwo] }
theorem witness_rebuildRun : runOf sTwo rTrain.cmd = some rTwo ∧ ended sTwo rTrain.cmd = false
  ∧ rebuildDue sTwo rTwo 1 = true ∧ waysReady sTwo rTwo = true := by decide +kernel
theorem witness_sthPatrolRead : dieRuns up 3 = true ∧ 768 * 2048 - 1 < 768 * 2048 ∧ bit (up.reg (saddleBlk 3)) 0 = true
  ∧ (gateOf up (fuWay 3 ((768 * 2048 - 1) / 2048 / 48))).st = 0 ∧ sthBusy up 3 = false := by decide +kernel
def sSthScrub : State := up.onBlk fun b => { b with scrubs := [(3, 0, [767])] }
theorem witness_saddlebagScrubDone : dieRuns sSthScrub 3 = true
  ∧ sSthScrub.blk.scrubs.find? (·.1 == 3) = some (3, 0, [767]) := by decide +kernel
/-- The other forms: policy OFFLOAD; no free blocks; a fetch through a lead; a fetch whose words read uncorrectable. -/
def rOff : BRun := { rAt 1 with pol := [2] }
def sNoWay : State := (sAt 1).onHlt fun h => { h with fenced := (List.range 16).map (fuWay 0) }
theorem witness_stashReserve_forms : rOff.polOf 0 = 2 ∧ runOf (sTrain.onBlk fun b => { b with runs := [rOff] }) rTrain.cmd = some rOff
  ∧ runOf sNoWay rTrain.cmd = some (rAt 1) ∧ dieRuns sNoWay 0 = true ∧ ended sNoWay rTrain.cmd = false
  ∧ waysReady sNoWay (rAt 1) = true ∧ pickBlocks sNoWay (rAt 1) 0 = none := by decide +kernel
def rVia : BRun := { rAt nX with pkt := { (rAt nX).pkt with lead := some (3, 1) } }
def wHost : Offload := { wOff 1 false with host := true }
def sVia : State := sTrain.onBlk fun b => { b with runs := [rVia], tens := [], stored := [wStored 3 false], offloads := [wHost] }
theorem witness_offloadFetchDone_via : runOf sVia rTrain.cmd = some rVia ∧ offloadOf sVia rVia 0 = some wHost
  ∧ viaLead rVia wHost = true ∧ sVia.mov.remote = [] := by decide +kernel
def sFetchUe : State := (sFetch [wStored 3 false]).onMem fun m => { m with ue := [0x800] }
theorem witness_offloadFetchDone_ue :
    (offloadBytes sFetchUe (rAt nX) (wOff 1 false) 0 0 ((rAt nX).xBytes 0)).2.isNone = true := by decide +kernel
/-- A parked input that the next step, a backward stage, reads. -/
def sPark : State := (sAt 1).onBlk fun b => { b with
  runs := [{ rAt 8 with begun := [0] }]
  tens := [{ wX with key := tkey rTrain.cmd 0 0 (rXs 0), park := some 0 }] }
theorem witness_parkTransfer : dieRuns sPark (coreDie 0) = true ∧ scrubHolds sPark 0 = false
  ∧ rTrain.steps[8]? = some (.bwd 0 0 0) ∧ (parkStep sPark 0).isSome = true := by decide +kernel
/-! Collectives: the tree record at 0x4000 is that of a root without children. -/
def wRoot : List (Nat × Nat × Nat) := [(0x4000, 2, 0x8000)]
def wReduce : Packet := packet 0x30 192 [(1, 1, 2), (64, 8, 0x10000), (72, 8, 0x20000), (80, 4, 64), (88, 4, 6), (96, 8, 0x4000),
  (104, 4, 1), (112, 2, 1), (120, 4, 1)]
def sReduce : State := at0 wReduce (withMem wRoot up)
def tReduce : State × Nat × Tree := readTree sReduce 0 0x4000
theorem witness_reduce : (askPlace sReduce 0).2 = true ∧ HeadReady 0x30 0 wReduce sReduce
  ∧ diesIssue sReduce (diesOf (wReduce.par 56 4)) = true ∧ wReduce.par 32 8 = 0x4000 ∧ tReduce.2.1 = 0
  ∧ collStatus sReduce 0 (reduceStatus wReduce) (wReduce.par 56 4) tReduce.2.2
    ((if tReduce.2.2.root || bit (wReduce.par 52 4) 0 then
        [(wReduce.par 8 8, wReduce.par 16 4 * fmtBytes (numFmt (wReduce.par 28 4)))] else [])
      ++ (if wReduce.par 64 8 = 0 then [] else [(wReduce.par 64 8, 64)]))
    ([(wReduce.par 0 8, wReduce.par 16 4 * fmtBytes (numFmt (wReduce.par 20 4)))] ++ [(wReduce.par 32 8, 64)]) = 0
  ∧ bit (wReduce.par 52 4) 1 = false ∧ (stepIssue tReduce.1 0 (wReduce.par 44 4)).isSome = true := by decide +kernel
/-- The same, sealing the step. -/
def wSeal : Packet := { wReduce with bytes := patch wReduce.bytes 116 (toLE 4 2) }
theorem witness_reduce_seals : bit (wSeal.par 52 4) 1 = true ∧ maySeal (at0 wSeal (withMem wRoot up)) 0 (wSeal.par 44 4) = true := by
  decide +kernel
def wLr : Packet := packet 0x31 192 [(1, 1, 2), (64, 8, 0x10000), (72, 8, 0x11000), (80, 8, 0x12000), (88, 8, 0x13000),
  (96, 8, 0x14000), (104, 8, 0x15000), (120, 8, 0x4000), (128, 4, 1), (132, 4, 1), (136, 1, 1), (138, 2, 1), (152, 4, 6),
  (156, 4, 6), (160, 4, 1), (168, 4, 1)]
def sLr : State := at0 wLr (withMem wRoot up)
def tLr : State × Nat × Tree := readTree sLr 0 0x4000
theorem witness_reduceLr : (askPlace sLr 0).2 = true ∧ HeadReady 0x31 0 wLr sLr ∧ diesIssue sLr (diesOf (wLr.par 104 4)) = true
  ∧ wLr.par 56 8 = 0x4000 ∧ tLr.2.1 = 0
  ∧ collStatus sLr 0 (lrStatus wLr) (wLr.par 104 4) tLr.2.2 (lrOuts wLr tLr.2.2) (lrIns wLr ++ [(wLr.par 56 8, 64)]) = 0
  ∧ bit (wLr.par 100 4) 0 = false ∧ (stepIssue tLr.1 0 (wLr.par 84 4)).isSome = true := by decide +kernel
def wCopy (op : Nat) : Packet := packet op 128 [(1, 1, 1), (64, 8, 0x10000), (72, 8, 0x20000), (80, 4, 4), (88, 8, 0x4000),
  (96, 2, 1), (104, 4, 1)]
def sCopy (op : Nat) : State := at0 (wCopy op) (withMem wRoot up)
def tCopy (op : Nat) : State × Nat × Tree := readTree (sCopy op) 0 0x4000
theorem witness_broadcast : (askPlace (sCopy 0x32) 0).2 = true ∧ HeadReady 0x32 0 (wCopy 0x32) (sCopy 0x32)
  ∧ diesIssue (sCopy 0x32) (diesOf ((wCopy 0x32).par 40 4)) = true ∧ (wCopy 0x32).par 24 8 = 0x4000 ∧ (tCopy 0x32).2.1 = 0
  ∧ collStatus (sCopy 0x32) 0 (copyStatus false (wCopy 0x32)) ((wCopy 0x32).par 40 4) (tCopy 0x32).2.2
    [((wCopy 0x32).par 8 8, (wCopy 0x32).par 16 4)]
    ((if (tCopy 0x32).2.2.root then [((wCopy 0x32).par 0 8, (wCopy 0x32).par 16 4)] else []) ++ [((wCopy 0x32).par 24 8, 64)])
    = 0 := by decide +kernel
theorem witness_allgather : (askPlace (sCopy 0x33) 0).2 = true ∧ HeadReady 0x33 0 (wCopy 0x33) (sCopy 0x33)
  ∧ diesIssue (sCopy 0x33) (diesOf ((wCopy 0x33).par 40 4)) = true ∧ (tCopy 0x33).2.1 = 0
  ∧ collStatus (sCopy 0x33) 0 (copyStatus true (wCopy 0x33)) ((wCopy 0x33).par 40 4) (tCopy 0x33).2.2
    [((wCopy 0x33).par 8 8, (wCopy 0x33).par 32 2 * (wCopy 0x33).par 16 4)]
    ([((wCopy 0x33).par 0 8, (wCopy 0x33).par 16 4)] ++ [((wCopy 0x33).par 24 8, 64)]) = 0 := by decide +kernel

/-! The update die: rule 0 is of mode 1 and rule 1 of mode 3; the entry at 0x5000 is the owner's. -/
def wImage (n w : Nat) : List Byte := toLE 8 (2 ^ 12 + 3 * 2 ^ 16) ++ toLE 8 (3 * 2 ^ 12 + 3 * 2 ^ 16) ++ toLE 48 0 ++ toLE n w
def wUpd : Packet := packet 0x40 128 [(1, 1, 1), (64, 8, 0x5000), (72, 2, 1), (88, 8, 0x7000), (96, 8, 0x8000), (105, 1, 1)]
def sUpd : State := at0 wUpd ((withMem (wRoot ++ [(0x2008, 8, 0x80000), (0x5000, 8, 0x6000), (0x5008, 8, 0x2000),
  (0x5010, 8, 0x10000), (0x5020, 8, 0x4000), (0x5034, 4, 1), (0x180004, 1, 1)]) up).updCtx 0 fun c =>
    { c with rule := wImage 24 0 })
def lUpd : State × Nat × List Byte := vaRead sUpd 4 0 (upList wUpd.params) (64 * upEntries wUpd.params)
def eUpd : State × Nat × Nat := entriesStatus lUpd.1 0 lUpd.2.2 (upEntries wUpd.params)
theorem witness_update : HeadReady 0x40 0 wUpd sUpd ∧ updateStatus sUpd 0 wUpd.params = 0 ∧ fenced sUpd fuUpdate = false
  ∧ lUpd.2.1 = 0 ∧ eUpd.2.1 = 0 ∧ eUpd.2.2 = 0
  ∧ updateOverlap eUpd.1 0 wUpd.params lUpd.2.2 (upEntries wUpd.params) = false := by decide +kernel
def wPre : Packet := packet 0x41 128 [(1, 1, 1), (64, 8, 0x5000), (72, 2, 1024), (74, 1, 1)]
def sPre : State := at0 wPre (up.updCtx 0 fun c => { c with rule := wImage 24 0 })
theorem witness_precond : HeadReady 0x41 0 wPre sPre ∧ fieldLE wPre.params 8 2 = 1024 ∧ allZero (slice wPre.params 11 5) = true
  ∧ allZero (wPre.params.drop 24) = true ∧ modeOf sPre 0 (pcRule wPre.params) = 3 ∧ fenced sPre fuUpdate = false
  ∧ (vaRead sPre 4 0 (fieldLE wPre.params 0 8) (8 * fieldLE wPre.params 8 2)).2.1 = 0 := by decide +kernel
def wRule : Packet := packet 0x43 128 [(1, 1, 1), (64, 8, 0x9000), (72, 4, 3)]
def sRule : State := at0 wRule (withMem [(0x9000, 8, 2 ^ 12 + 3 * 2 ^ 16), (0x9040, 8, 0x3C), (0x9048, 8, 0x3E),
  (0x9050, 8, 0x3F)] up)
def lRule : State × Nat × List Byte := vaRead sRule 4 0 (wRule.par 0 8) (64 + 8 * wRule.par 8 4)
theorem witness_ruleLoad : HeadReady 0x43 0 wRule sRule ∧ wRule.par 8 4 = 3 ∧ allZero (wRule.params.drop 12) = true
  ∧ (runningInCtx sRule 0).any (fun c => c.op == 0x40 || c.op == 0x41) = false ∧ lRule.2.1 = 0
  ∧ ruleImageOk lRule.2.2 (wRule.par 8 4) = true := by decide +kernel

/-! Packets: `k` is the first received on its channel of port `p`. -/
def rx (p : Nat) (k : FPkt) (s : State) : State := s.onFab fun f => { f with rxq := [(rxKey p k.vc, [k])] }
/-- A reduction of job 7 of this device with parent device 5 and child device 6. -/
def wColl (root : Bool) : Coll := { baseColl up 0 0 0 7 9 (treeOf []) 2 1 with root := root, parent := 5, children := [6] }
def wChunk (kind : Nat) : Chunk := ⟨7, 0, kind, 9, 0, 65536, 0, []⟩
def kChunk (kind src : Nat) : FPkt := { mkPkt 0x21 2 0 (chunkBytes (wChunk kind)) with src := src, job := 7 }
def kHdr (type src : Nat) : FPkt := { mkPkt type 2 0 (hdrBytes { emptyHdr with job := 7, serial := 9 }) with src := src, job := 7 }
def sColl (root : Bool) (k : FPkt) : State := rx 23 k (up.onRed fun r => { r with colls := [wColl root] })
theorem witness_chunk_up : awake (sColl true (kChunk 0 6)) = true ∧ RxReady 0x21 2 23 (kChunk 0 6) (sColl true (kChunk 0 6))
  ∧ (ctxOfJob (takenRx 2 23 (kChunk 0 6) (sColl true (kChunk 0 6))) (chunkOfBytes (kChunk 0 6).pay).job).isNone = false
  ∧ collFor (takenRx 2 23 (kChunk 0 6) (sColl true (kChunk 0 6))) (chunkOfBytes (kChunk 0 6).pay).job
      (chunkOfBytes (kChunk 0 6).pay).serial = some (wColl true)
  ∧ (chunkOfBytes (kChunk 0 6).pay).kind = 0 ∧ childOf (wColl true) (kChunk 0 6).src = some 0 := by decide +kernel
theorem witness_chunk_down : awake (sColl false (kChunk 1 5)) = true
  ∧ RxReady 0x21 2 23 (kChunk 1 5) (sColl false (kChunk 1 5))
  ∧ (ctxOfJob (takenRx 2 23 (kChunk 1 5) (sColl false (kChunk 1 5))) (chunkOfBytes (kChunk 1 5).pay).job).isNone = false
  ∧ collFor (takenRx 2 23 (kChunk 1 5) (sColl false (kChunk 1 5))) (chunkOfBytes (kChunk 1 5).pay).job
      (chunkOfBytes (kChunk 1 5).pay).serial = some (wColl false)
  ∧ (chunkOfBytes (kChunk 1 5).pay).kind ≠ 0 ∧ (wColl false).root = false ∧ (kChunk 1 5).src = (wColl false).parent := by
  decide +kernel
theorem witness_tail : RxReady 0x22 2 23 (kHdr 0x22 6) (sColl true (kHdr 0x22 6))
  ∧ (ctxOfJob (takenRx 2 23 (kHdr 0x22 6) (sColl true (kHdr 0x22 6))) (hdrOfBytes (kHdr 0x22 6).pay).job).isNone = false
  ∧ collFor (takenRx 2 23 (kHdr 0x22 6) (sColl true (kHdr 0x22 6))) (hdrOfBytes (kHdr 0x22 6).pay).job
      (hdrOfBytes (kHdr 0x22 6).pay).serial = some (wColl true)
  ∧ childOf (wColl true) (kHdr 0x22 6).src = some 0 := by decide +kernel
theorem witness_result : RxReady 0x23 2 23 (kHdr 0x23 5) (sColl false (kHdr 0x23 5))
  ∧ (ctxOfJob (takenRx 2 23 (kHdr 0x23 5) (sColl false (kHdr 0x23 5))) (hdrOfBytes (kHdr 0x23 5).pay).job).isNone = false
  ∧ collFor (takenRx 2 23 (kHdr 0x23 5) (sColl false (kHdr 0x23 5))) (hdrOfBytes (kHdr 0x23 5).pay).job
      (hdrOfBytes (kHdr 0x23 5).pay).serial = some (wColl false)
  ∧ (wColl false).root = false ∧ (kHdr 0x23 5).src = (wColl false).parent := by decide +kernel
def wReplica (phase : Nat) : UpdEntry :=
  { blankEntry up 0 0 0 0 with replica := true, serial := 9, phase := phase, children := [6], parent := 5 }
def kEnt (type vc : Nat) : FPkt := { mkPkt type vc 0 [] with src := 5, job := 7, tag := 9 }
def sEnt (phase : Nat) (k : FPkt) : State := rx 23 k (up.onUpd fun u => { u with entries := [wReplica phase] })
theorem witness_reserve : RxReady 0x03 0 23 (kEnt 0x03 0) (sEnt 10 (kEnt 0x03 0))
  ∧ (ctxOfJob (takenRx 0 23 (kEnt 0x03 0) (sEnt 10 (kEnt 0x03 0))) (kEnt 0x03 0).job).isNone = false
  ∧ replicaFor (takenRx 0 23 (kEnt 0x03 0) (sEnt 10 (kEnt 0x03 0))) (kEnt 0x03 0) = some (wReplica 10) := by decide +kernel
theorem witness_notice : RxReady 0x24 2 23 (kEnt 0x24 2) (sEnt 10 (kEnt 0x24 2))
  ∧ (ctxOfJob (takenRx 2 23 (kEnt 0x24 2) (sEnt 10 (kEnt 0x24 2))) (kEnt 0x24 2).job).isNone = false
  ∧ replicaFor (takenRx 2 23 (kEnt 0x24 2) (sEnt 10 (kEnt 0x24 2))) (kEnt 0x24 2) = some (wReplica 10) := by decide +kernel
/-- An answer of type `type` for collective or entry 9 of job 7, from device 6. -/
def kAns (type : Nat) : FPkt := { mkPkt type 1 0 (toLE 16 0) with src := 6, job := 7, tag := 9 }
def wRet : Retained := ⟨32, 6, 0, 0, wChunk 0, false⟩
def sAns (type : Nat) : State :=
  rx 23 (kAns type) ((up.onRed fun r => { r with retain := [wRet] }).onUpd fun u => { u with entries := [wReplica 11] })
theorem witness_collectiveAnswers : ∀ type ∈ [0x17, 0x18, 0x19, 0x1A, 0x14, 0x1C],
    RxReady type 1 23 (kAns type) (sAns type) ∧ (kAns type).gen = (takenRx 1 23 (kAns type) (sAns type)).gen (kAns type).ctx
  ∧ askedEntry (takenRx 1 23 (kAns type) (sAns type)) (kAns type) = some (wReplica 11) ∧ (wReplica 11).phase = 11 := by
  decide +kernel
theorem witness_chunkAgain : (takenRx 1 23 (kAns 0x18) (sAns 0x18)).red.retain.find? (·.named (kAns 0x18)) = some wRet := by
  decide +kernel
def sResv : State := up.onUpd fun u => { u with
  entries := [wReplica 1]
  resvs := [⟨0x2000, 0, 0⟩]
  cmds := [⟨0, 0, false, [], false, 1, [], 0, 0, 0⟩] }
theorem witness_reservationGrant : sResv.upd.resvs.find? (·.vrec == 0x2000) = some ⟨0x2000, 0, 0⟩
  ∧ sResv.updEnt? 0 = some (wReplica 1) ∧ alive sResv = true := by decide +kernel
def wMcast : Coll := { wColl false with kind := 5, result := some emptyHdr }
def sMcast : State := (up.onRed fun r => { r with colls := [wMcast] }).onUpd fun u => { u with entries := [wReplica 12] }
theorem witness_multicastLanded : sMcast.updEnt? 0 = some (wReplica 12) ∧ (wReplica 12).phase = 12 ∧ alive sMcast = true
  ∧ collOf sMcast 0 9 = some wMcast ∧ wMcast.kind = 5
  ∧ (wMcast.downFail || wMcast.result.any fun h => decide (h.chunks ≤ wMcast.got.length)) = true := by decide +kernel
def sSeal : State := (withMem [(0x180004, 1, 5)] up).onUpd fun u => { u with
  cmds := [⟨0, 0, false, [], false, 1, [], 0, 0, 0⟩] }
theorem witness_updateSealReady : (sSeal.updCmd? 0).isSome = true ∧ (sSeal.updCmd? 0).all (!·.sealed) = true ∧ alive sSeal = true
  ∧ stepSealed sSeal 0 (upStep []) = true := by decide +kernel

/-! Rule words: task 0 of entry 0, whose next word is `w`; a parameter of 64 × 64 whose current buffer is at 0x80000. -/
def wEnt : UpdEntry := { blankEntry up 0 0 0 0 with
  phase := 2
  desc := toLE 16 0 ++ toLE 4 64 ++ toLE 4 64 ++ toLE 104 0
  curBuf := 0x80000
  newBuf := 0x90000
  grad := 0x10000 }
def wTask (mode part : Nat) (loops : List (Nat × Nat × Nat)) : Task :=
  ⟨0, 0, 0, 0, false, 0, mode, 0, 0, 0, part, 0, 0, [], 0, List.replicate 16 0, [0, 0, 0], loops, 0, false, []⟩
def sTask (t : Task) (w : Nat) : State := (up.updCtx 0 fun c => { c with rule := wImage 8 w }).onUpd fun u => { u with
  running := some 0
  tasks := [t]
  entries := [wEnt]
  cmds := [⟨0, 0, false, [], true, 1, [], 0, 0, 0⟩] }
theorem witness_ruleWords : ∀ w ∈ [0x01, 0x02, 0x03, 0x04, 0x05, 0x06, 0x07, 0x08, 0x09, 0x0A, 0x10, 0x11, 0x12, 0x13, 0x14,
    0x18, 0x20, 0x21, 0x22, 0x23, 0x24, 0x25, 0x26, 0x27, 0x30, 0x38, 0x39, 0x3C, 0x3D, 0x3E, 0x3F],
    NextWord w (wTask 1 1 []) wEnt (sTask (wTask 1 1 []) w) := by decide +kernel
theorem witness_vld : (loadLanes (sTask (wTask 1 1 []) 0x20) (wTask 1 1 []) wEnt 0x20).2.1 = 0
  ∧ ruleWord ((sTask (wTask 1 1 []) 0x20).ctx 0).rule 0 = 0x20 := by decide +kernel
/-- The same with a parameter of one element, and with register 0 written. -/
def wOne : UpdEntry := { wEnt with desc := toLE 16 0 ++ toLE 4 1 ++ toLE 4 1 ++ toLE 104 0 }
def tV : Task := { wTask 1 1 [] with v := [(0, [0])] }
def wVst : Nat := 0x21 + 2 * 2 ^ 32
def one (s : State) : State := s.onUpd fun u => { u with entries := [wOne] }
theorem witness_vst : NextWord 0x21 tV wOne (one (sTask tV wVst))
  ∧ (writeLanes (one (sTask tV wVst)) tV wOne wVst).2 = 0 := by decide +kernel
theorem witness_endl : NextWord 0x39 (wTask 2 1 [(1, 1, 1)]) wEnt (sTask (wTask 2 1 [(1, 1, 1)]) 0x39)
  ∧ (wTask 2 1 [(1, 1, 1)]).lcAt 1 < 1 ∧ NextWord 0x39 (wTask 2 1 [(1, 1, 0)]) wEnt (sTask (wTask 2 1 [(1, 1, 0)]) 0x39)
  ∧ 0 ≤ (wTask 2 1 [(1, 1, 0)]).lcAt 1 := by decide +kernel
def tBody : Task := wTask 1 0 []
def sBody : State := sTask tBody 0x3C
theorem witness_body : NextWord 0x3C tBody wEnt sBody ∧ (loadUnit (pastInstr (sBody.updTask 0 fun t => { t with
    part := 1
    unit := 0
    pass := 0
    start := tBody.pc + 1 }) tBody) { tBody with unit := 0 } wEnt).2 = 0 := by decide +kernel
/-- 64 × 64 elements are one unit of 4,096; 128 × 64 are two. -/
def wTwo : UpdEntry := { wEnt with desc := toLE 16 0 ++ toLE 4 128 ++ toLE 4 64 ++ toLE 104 0 }
theorem witness_units : (wTask 1 1 []).unit + 1 < segUnits (wTask 1 1 []) wTwo.desc
  ∧ segUnits (wTask 1 1 []) wEnt.desc ≤ (wTask 1 1 []).unit + 1 ∧ (wTask 1 1 []).mode ≠ 3 ∧ (wTask 1 1 []).root = false
  ∧ pdSegs wEnt.desc ≤ (wTask 1 1 []).seg + 1
  ∧ (wTask 1 1 []).seg + 1 < pdSegs (toLE 16 0 ++ toLE 4 128 ++ toLE 4 64 ++ toLE 4 64 ++ toLE 100 0) := by decide +kernel
def sSwitch : State := (sTask (wTask 1 0 []) 0x3C).onUpd fun u => { u with running := none }
theorem witness_updTaskSwitch : dieRuns sSwitch 4 = true ∧ sSwitch.upd.running = none ∧ fenced sSwitch fuUpdate = false
  ∧ oldestTask sSwitch = some (wTask 1 0 []) ∧ sSwitch.updEnt? 0 = some wEnt
  ∧ (resumeTask (wTask 1 0 []) wEnt (sSwitch.onUpd fun u => { u with running := some 0 })).2 = 0 := by decide +kernel
theorem witness_updStreamUe : runningTask (sTask (wTask 1 1 []) 0) = some (wTask 1 1 [])
  ∧ dieRuns (sTask (wTask 1 1 []) 0) 4 = true := by decide +kernel
/-- A root computation without blocks: its TAIL; and its END, at the last block and before it. -/
def tRoot (n : Nat) : Task := { wTask 3 1 [] with root := true, blocks := (List.replicate n 0).map fun k => (k, 64) }
theorem witness_roots : NextWord 0x3E (tRoot 0) wEnt (sTask (tRoot 0) 0x3E) ∧ (tRoot 0).mode = 3 ∧ (tRoot 0).blocks = []
  ∧ NextWord 0x3F (tRoot 1) wEnt (sTask (tRoot 1) 0x3F) ∧ (tRoot 1).root = true ∧ (tRoot 1).blocks.drop 1 = []
  ∧ NextWord 0x3F (tRoot 2) wEnt (sTask (tRoot 2) 0x3F) ∧ (tRoot 2).blocks.drop 1 = [(0, 64)] := by decide +kernel
/-- `s` with packet `p` at the head of the admin ring of the physical function. -/
def at64 (p : Packet) (s : State) : State := s.onCp fun c => { c with waiting := [(64, [p])] }
/-- All resources of paddock 0 for paddock 15, which must be free of them first. -/
def wPdk : Packet := packet 0x52 128 [(1, 1, 1), (64, 1, 15), (68, 4, 1), (72, 8, 1), (80, 2, 1)]
def sPdk : State := at64 wPdk (up.updPdk 0 fun _ => Pdk.empty)
theorem witness_paddockSet : HeadReady 0x52 64 wPdk sPdk ∧ (sPdk.pdk (wPdk.par 0 1)).change = none ∧ wPdk.par 0 1 = 15
  ∧ (ctxsOf sPdk 15).all (fun x => (runningInCtx sPdk x).isEmpty) = true ∧ paddockSetOk sPdk wPdk = true
  ∧ holdsRein sPdk Master.pf = true := by decide +kernel
def wCreate : Packet := packet 0x50 128 [(1, 1, 1), (6, 1, 63), (74, 2, 65535), (80, 8, 0x200000)]
/-- Page tables for the region's 27 pages, which lie in group 0. -/
def sCreate : State := at64 wCreate (withMem ((0, 8, 0x10001) :: (List.range 28).map fun i => (0x10000 + 8 * i, 8, 3 + 2 ^ 21 * i))
  (up.updPdk 0 fun p => { p with res := ⟨1, 1, [1, 0, 0, 0], 0, 0⟩ }))
theorem witness_ctxCreate : HeadReady 0x50 64 wCreate sCreate ∧ (sCreate.ctx (wCreate.ctx % 64)).down = none
  ∧ (sCreate.pdk (wCreate.par 8 1)).change = none ∧ createOk sCreate wCreate = true
  ∧ createOk (checkRegions wCreate sCreate) wCreate = true
  ∧ (List.range 4).all (regionOk (putCtx (checkRegions wCreate sCreate) (wCreate.ctx % 64)
      (newCtx (checkRegions wCreate sCreate) wCreate)) (wCreate.ctx % 64)) = true := by decide +kernel
def wDown : Packet := packet 0x51 128 [(1, 1, 1), (64, 1, 1)]
theorem witness_ctxTeardown : HeadReady 0x51 64 wDown (at64 wDown up) ∧ ((at64 wDown up).ctx (wDown.ctx % 64)).live = true
  ∧ wDown.gen = (at64 wDown up).gen 0 ∧ wDown.par 0 1 = 1 ∧ allZero (wDown.params.drop 1) = true
  ∧ ((at64 wDown up).ctx 0).down = none ∧ wDown.fn = 0 := by decide +kernel
def wGait (n : Nat) : Packet := packet 0x53 128 [(1, 1, 1), (64, 1, 15), (66, 2, n), (80, 8, 0x1000)]
theorem witness_gaitLoad : ∀ n ∈ [0, 256], HeadReady 0x53 64 (wGait n) (at64 (wGait n) up) ∧ (wGait n).par 0 1 = 15
  ∧ (wGait n).par 2 2 = n ∧ (wGait n).par 1 1 = 0 ∧ (wGait n).par 4 4 = 0 ∧ allZero (slice (wGait n).params 24 40) = true
  ∧ holdsRein (at64 (wGait n) up) Master.pf = true
  ∧ hostOk (at64 (wGait n) up) 0 ((wGait n).par 16 8) (4 * (wGait n).par 2 2) false = true
  ∧ ((List.range ((wGait n).par 2 2)).map fun i => leNat (hostRead (at64 (wGait n) up) ((wGait n).par 16 8 + 4 * i) 4)).all
      slotEntryOk = true := by decide +kernel

/-! The scheduler, for paddock 15 or 0. -/
def due (d : Due) (s : State) : State := s.onTim fun t => { t with due := [d] }
def sChange (applied : Bool) : State := due (.paddockSet 15) (up.updPdk 15 fun p => { p with change := some (0, PdkSet.empty, applied) })
theorem witness_paddockSetApply : DueHead (.paddockSet 15) [] (sChange false)
  ∧ ((takenDue [] (sChange false)).pdk 15).change = some (0, PdkSet.empty, false) := by decide +kernel
theorem witness_paddockZeroingDone : alive (sChange true) = true
  ∧ (ctxsOf (sChange true) 15).any (scrubbing (sChange true)) = false
  ∧ ((sChange true).pdk 15).change = some (0, PdkSet.empty, true) := by decide +kernel
def sTable : State := due (.gaitTable 15) (up.updPdk 15 fun p => { p with pend := some ([⟨0, false, 1⟩], 0) })
theorem witness_gaitTableEffect : DueHead (.gaitTable 15) [] sTable
  ∧ ((takenDue [] sTable).pdk 15).pend = some ([⟨0, false, 1⟩], 0) := by decide +kernel
theorem witness_runEnd : DueHead (.runEnd 15) [] (due (.runEnd 15) up) := by decide +kernel
def sSlot : State := due (.slotBegin 0) (up.updPdk 0 fun p => { p with table := [⟨0, false, 1⟩], loaded := true })
theorem witness_slotBegin : DueHead (.slotBegin 0) [] sSlot
  ∧ (((takenDue [] sSlot).pdk 0).table[(slotOf ((takenDue [] sSlot).pdk 0) (takenDue [] sSlot).nowStride).1]?).bind
    (resolveSlot ((takenDue [] sSlot).updPdk 0 fun d => { d with
      curSlot := (slotOf ((takenDue [] sSlot).pdk 0) (takenDue [] sSlot).nowStride).1 }) 0) = some 0 := by decide +kernel
def wRun2 : Run := { wRun with switched := false, endStride := 1 }
def sRunning : State := up.updPdk 0 fun p => { p with loaded := true, run := some wRun2 }
theorem witness_switchStart : dieRuns sRunning 0 = true ∧ (sRunning.pdk 0).run = some wRun2 ∧ wRun2.switched = false
  ∧ (sRunning.pdk 0).loaded = true ∧ wRun2.debitUs < runLenUs sRunning wRun2 ∧ (sRunning.pdk 0).switch.any (fun w => w.2.1 == wRun2.ctx) = false := by
  decide +kernel
def sSwitching : State := sRunning.updPdk 0 fun p => { p with switch := some ([2], 1, 0) }
theorem witness_switchDone : dieRuns sSwitching 0 = true ∧ (sSwitching.pdk 0).switch = some ([2], 1, 0)
  ∧ switchWaits sSwitching [2] 1 = false
  ∧ [2].any (scrubbing (saveOuts sSwitching (switchLeft sSwitching [2]) 1)) = false := by decide +kernel
def wTear (phase : Nat) : Teardown := ⟨0, false, 0, 0, [4 * 6 + 2], 0, false, phase⟩
def sTear (phase : Nat) : State := up.updCtx 0 fun c => { c with down := some (wTear phase) }
theorem witness_teardown : alive (sTear 1) = true ∧ ((sTear 1).ctx 0).down = some (wTear 1) ∧ (wTear 1).phase = 1
  ∧ alive (sTear 2) = true ∧ ((sTear 2).ctx 0).down = some (wTear 2) ∧ (wTear 2).phase = 2
  ∧ scrubbing (sTear 2) 0 = false := by decide +kernel
def sDone : State := (issue (at0 (packet 0 64 []) up) 0 (packet 0 64 []) []).1
theorem witness_commandComplete : alive sDone = true ∧ workLeft sDone 0 = false ∧ (sDone.cmd? 0).isSome = true := by
  decide +kernel

/-! Time and power. -/
theorem witness_strideBoundary : aon up = true ∧ up.tim.due = [] := by decide +kernel
theorem witness_dueHeads : ∀ d ∈ [Due.strideValues, .snapshot, .capStep, .fenceWindow 460, .nonce 0, .gait, .walkGate, .haltExit,
    .hoofbeat, .overrunLimit 63, .telemetry, .reinLease, .routeTable], DueHead d [] (due d up) := by decide +kernel
def wNonce : Nonce := ⟨1, List.replicate 32 0#8, 0⟩
def sNonce : State := due (.nonce 0) ((up.onGrm fun g => { g with nonces := [wNonce] }).onTim fun t => { t with count := 1000 })
theorem witness_nonceExpiry : DueHead (.nonce 0) [] sNonce
  ∧ sNonce.grm.nonces.find? (fun n => n.stride + 1000 ≤ (takenDue [] sNonce).nowStride) = some wNonce := by decide +kernel
theorem witness_ownerWrites : owWrite up 0 = true ∧ bit (1#64).toNat 0 = true := by decide +kernel
def sWalk : State := due .walkGate (up.onPwr fun p => { p with phase := 2, target := 3 })
theorem witness_walkGate : alive sWalk = true ∧ DueHead .walkGate [] sWalk ∧ sWalk.pwr.phase = 2 ∧ sWalk.pwr.target = 3
  ∧ sWalk.cp.cmds.all (fun c => !isContextQueue c.pkt.q) = true
  ∧ sWalk.sch.pdks.all (fun p => p.2.switch.isNone) = true := by decide +kernel
def sHaltIn : State := (up.onPwr fun p => { p with phase := 2, target := 4 }).onMem fun m => { m with
  units := (List.range 20).map fun u => (u, { SrUnit.empty with st := 2 }) }
theorem witness_haltEntryDone : alive sHaltIn = true ∧ sHaltIn.pwr.phase = 2 ∧ sHaltIn.pwr.target = 4
  ∧ railsWaiting sHaltIn = false ∧ (memUnits sHaltIn).all (fun u => (srUnit sHaltIn u).st == 2) = true := by decide +kernel
def sHalt (phase : Nat) : State := due .haltExit (up.onPwr fun p => { p with gait := 4, phase := phase })
theorem witness_haltExitBegin : alive (sHalt 0) = true ∧ DueHead .haltExit [] (sHalt 0) ∧ (sHalt 0).pwr.gait = 4
  ∧ (sHalt 0).pwr.phase = 0 := by decide +kernel
theorem witness_haltExitDone : (sHalt 3).pwr.gait = 4 ∧ (sHalt 3).pwr.phase = 3 ∧ railsWaiting (sHalt 3) = false
  ∧ (sHalt 3).pwr.rails.any (·.again) = false := by decide +kernel
def sRail : State := setRail up 5 ⟨800, 0, 0, 0, true, false⟩
def tRail : State := logEvent ((sRail.latch (powerBlk + 0x2C) 0).count32 (powerBlk + 0x48) 1) clsFault 0 groomCpath none 5
theorem witness_avs : alive sRail = true ∧ (rail sRail 5).waiting = true ∧ sRail.pwr.phase ≠ 1 ∧ tRail.pwr.phase ≠ 1 := by
  decide +kernel
theorem witness_powerSteps : alive up = true ∧ up.boot.fuses = true ∧ sensorExists 2059 = true := by decide +kernel
def sPin : State := up.setReg (powerBlk + 0x40) 0x88
theorem witness_wakePinEvent : alive sPin = true ∧ bit sPin.pwr.wakeLevel 3 ≠ true
  ∧ bit (sPin.reg (powerBlk + 0x40)) (4 + 3) = true ∧ bit (sPin.reg (powerBlk + 0x40)) 3 = true := by decide +kernel
def sGating : State := (up.setReg (diePowerBlk 3) 3)
theorem witness_clusterGate : dieRuns sGating (clusterDie 31) = true ∧ bit (sGating.reg (diePowerBlk (clusterDie 31))) 0 = true
  ∧ clusterQuiet sGating 31 = true ∧ (gateOf sGating 31).st ≤ 1 := by decide +kernel
theorem witness_wayGate : dieRuns sGating 3 = true ∧ bit (sGating.reg (diePowerBlk 3)) 1 = true ∧ wayEmpty sGating 3 15 = true
  ∧ (gateOf sGating (fuWay 3 15)).st = 0 := by decide +kernel
theorem witness_domainWakeDone : dieRuns (setGate up 31 3) (clusterDie 31) = true ∧ (gateOf (setGate up 31 3) 31).st = 3
  ∧ dieRuns (setGate up 415 3) ((415 - 352) / 16) = true ∧ (gateOf (setGate up 415 3) 415).st = 3 := by
  decide +kernel
/-! Rings of 64 entries at 0x1000 and 0x2000. -/
def wRing : Ring := { Ring.empty with sqBase := 0x1000, cqBase := 0x2000, ctl := 6 * 2 ^ 8 + 6 * 2 ^ 16, enabled := true }
def sRing (q : Nat) (f : Ring → Ring) : State := up.updRing q fun _ => f wRing
theorem witness_sqTail : hostUp (sRing 80 id) = true ∧ ringOf (sRing 80 id) 0 64 = some 64 ∧ ringOf (sRing 0 id) 0 0 = some 0
  ∧ ringFetching ((doorbellWake (touchReg (sRing 0 id) 0 (doorbellKey 0 0))).ring 0) = true
  ∧ (64 % 2 ^ 32 + 2 ^ 32 - ((doorbellWake (touchReg (sRing 0 id) 0 (doorbellKey 0 0))).ring 0).sqHead) % 2 ^ 32
    = sqSize ((doorbellWake (touchReg (sRing 0 id) 0 (doorbellKey 0 0))).ring 0) := by decide +kernel
def sCq : State := sRing 0 fun r => { r with cqTail := 64 }
theorem witness_cqHead : hostUp sCq = true ∧ ringOf sCq 0 0 = some 0
  ∧ ((doorbellWake (touchReg sCq 0 (doorbellKey 0 4))).ring 0).enabled = true
  ∧ (64 % 2 ^ 32 + 2 ^ 32 - ((doorbellWake (touchReg sCq 0 (doorbellKey 0 4))).ring 0).cqHead) % 2 ^ 32
    ≤ (((doorbellWake (touchReg sCq 0 (doorbellKey 0 4))).ring 0).cqTail + 2 ^ 32
      - ((doorbellWake (touchReg sCq 0 (doorbellKey 0 4))).ring 0).cqHead) % 2 ^ 32 := by decide +kernel
def sOff (r : Ring) : State := up.updRing 0 fun _ => { r with enabled := false }
def wEnable (v : Nat) (s : State) : State := (touchReg s 0 (ringCtlReg 0 0)).updRing 0 fun r => { r with ctl := ctlFields r 0 v }
theorem witness_ringEnable : hostUp (sOff wRing) = true ∧ ringOf (sOff wRing) 0 0 = some 0 ∧ ((sOff wRing).ring 0).enabled = false
  ∧ bit 0x60601 0 = true ∧ enableCause (wEnable 0x60601 (sOff wRing)) 0 ((wEnable 0x60601 (sOff wRing)).ring 0) = 0 := by
  decide +kernel
theorem witness_ringEnable_causes :
    enableCause (wEnable 0x60601 (sOff { wRing with cqBase := 0x2001 })) 0
      ((wEnable 0x60601 (sOff { wRing with cqBase := 0x2001 })).ring 0) = 5
  ∧ enableCause (wEnable 0x110601 (sOff wRing)) 0 ((wEnable 0x110601 (sOff wRing)).ring 0) = 3
  ∧ enableCause (wEnable 0x60601 (sOff { wRing with sqBase := 2 ^ 52 })) 0
      ((wEnable 0x60601 (sOff { wRing with sqBase := 2 ^ 52 })).ring 0) = 2 := by decide +kernel
theorem witness_ringDisable : hostUp (sRing 0 id) = true ∧ ((sRing 0 id).ring 0).enabled = true ∧ bit 0 0 = false := by
  decide +kernel
def sSq : State := sRing 0 fun r => { r with sqTail := 1 }
theorem witness_packetFetch_one : mayFetch sSq 0 = true ∧ oldestRing sSq 0 = true ∧ slotsOk sSq (ringFn sSq 0) (sSq.ring 0) (sSq.ring 0).sqHead 1 = true
  ∧ headPlen sSq 0 = 0 ∧ 1 + 0 ≤ ringAvail sSq 0
  ∧ slotsOk sSq (ringFn sSq 0) (sSq.ring 0) (sSq.ring 0).sqHead (1 + 0) = true := by decide +kernel
/-- A header that announces a second slot, which the tail does not cover. -/
def sPart : State := sSq.onHost fun h => { h with mem := memWriteN [] 0x1001 [1#8] }
theorem witness_packetFetch_waits : mayFetch sPart 0 = true ∧ oldestRing sPart 0 = true
  ∧ slotsOk sPart (ringFn sPart 0) (sPart.ring 0) (sPart.ring 0).sqHead 1 = true
  ∧ headPlen sPart 0 = 1 ∧ ringAvail sPart 0 < 1 + 1 := by decide +kernel
def wCpl (lead : Option (Nat × Nat)) : Cpl := ⟨7, 0, 0, 0, 0, 0, 0, 1, 0, 0, false, lead, 0⟩
def sCpl (lead : Option (Nat × Nat)) : State := (sRing 0 id).onCp fun c => { c with done := [(0, [wCpl lead])] }
theorem witness_completionWrite : hostUp (sCpl none) = true ∧ dieRuns (sCpl none) 5 = true ∧ oldestDone (sCpl none) 0 = true
  ∧ Tbl.get [] (sCpl none).cp.done 0 = [wCpl none] ∧ cqFull (sCpl none) 0 = false ∧ ((sCpl none).ring 0).enabled = true
  ∧ hostOk (sCpl none) (ringFn (sCpl none) 0) (entryAddr (sCpl none) 0) 32 true = true := by decide +kernel
theorem witness_completionWrite_seat : dieRuns (sCpl (some (5, 1))) 5 = true ∧ oldestDone (sCpl (some (5, 1))) 0 = true
  ∧ Tbl.get [] (sCpl (some (5, 1))).cp.done 0 = [wCpl (some (5, 1))] := by decide +kernel
/-- Device 63 is a seat of this lead, behind port 23 (peers of the one feature level). -/
def wSeat : Packet := packet 0 64 [(4, 2, 63)]
def sSeat : State := at0 wSeat (((up.onFab fun f => { f with activeValid := true }).setReg (trcBlk + 0x8000 + 4 * 63) 23).onBoot
  fun b => { b with devIdValid := true })
theorem witness_relaySend : hostUp sSeat = true ∧ sSeat.headPkt 0 = some wSeat ∧ forSeat sSeat wSeat = true
  ∧ dieRuns sSeat 5 = true ∧ cqFull sSeat 0 = false ∧ relayWaits sSeat 0 (wSeat.hdr 4 2) wSeat = false
  ∧ levelShared sSeat (wSeat.hdr 4 2) = true
  ∧ relayUsed sSeat (wSeat.hdr 4 2) 0 < 8 ∧ sSeat.fab.purging.contains (wSeat.hdr 4 2) = false
  ∧ (originate sSeat (relayPkt sSeat 0 wSeat)).1 = true := by decide +kernel

theorem witness_tlbInvalidate : hostUp up = true ∧ up.vfEnabled 0 = true ∧ up.vfEnabled 16 = false := by decide +kernel
def sInv : State := up.onHost fun h => { h with
  tlbInv := [(16, some ⟨0, true, 0, 0, [3]⟩)]
  winBusy := [(16, some [3])]
  vfEn := 2 ^ 16 }
theorem witness_tlbInvDone : hostUp sInv = true ∧ Tbl.get none sInv.host.tlbInv 16 = some ⟨0, true, 0, 0, [3]⟩
  ∧ sInv.mov.flight.any (fun r => [3].contains r.id) = false ∧ Tbl.get none sInv.host.winBusy 16 = some [3]
  ∧ sInv.vfEnabled 16 = true := by decide +kernel
theorem witness_debugRead : (0 : Nat) + 2 ^ 36 ≤ 2 ^ 36
  ∧ (checkWords up (up.fld dbgCtl 0 3 * 2 ^ 36) 64 none).2 = false := by decide +kernel
def sUe : State := up.onMem fun m => { m with ue := [1] }
theorem witness_debugRead_poisoned : hostUp sUe = true ∧ (checkWords sUe (sUe.fld dbgCtl 0 3 * 2 ^ 36 + 32) 1 none).2 = true := by
  decide +kernel
def sDbg : State := up.setReg dbgCtl 8
theorem witness_debugWrite : hostUp sDbg = true ∧ 2 ^ 36 - 4 + ([1, 2, 3, 4] : List Byte).length ≤ 2 ^ 36
  ∧ bit (sDbg.reg dbgCtl) 3 = true ∧ holdsRein sDbg Master.pf = true
  ∧ ueWords sDbg (sDbg.fld dbgCtl 0 3 * 2 ^ 36 + (2 ^ 36 - 4)) 4 = [] := by decide +kernel
theorem witness_debugWrite_disabled : hostUp up = true ∧ bit (up.reg dbgCtl) 3 = false := by decide +kernel

theorem witness_busAccesses : busOk up 0 (healthBlk + 0x10) 8 = true ∧ busOk up 0 (coreBlk 255) 4 = true
  ∧ busOk up 0 (coreBlk 255 + 0x408) 4 = true ∧ (latchNames (coreBlk 255 + 0x408)).isNone = false
  ∧ busOk up 0 dmaUdBlk 4 = true ∧ busOk up 0 (dmaBlk 3) 4 = true ∧ bit (0x1000#64).toNat 12 = true
  ∧ busOk up 0 (groomBlk + 0x1000) 4 = true ∧ bit (0x100#64).toNat 8 = true ∧ bit (0x200#64).toNat 9 = true := by decide +kernel
theorem witness_fenceBitWrite : busOk up 0 (healthBlk + 0x88) 4 = true ∧ fenceBits 0x88 ≠ 0 ∧ (healthBlk + 0x88) % 4 = 0 := by
  decide +kernel
def sChunk : State := up.onGrm fun g => { g with st := 3, recBusy := some 191 }
theorem witness_recoveryChunkDone : alive sChunk = true ∧ sChunk.grm.recBusy = some 191 := by decide +kernel
theorem witness_blockWrites : owWrite up 0 = true ∧ linkRuns up 0 = true ∧ linkRuns up 23 = true ∧ bit (3#64).toNat 0 = true
  ∧ bit (3#64).toNat 1 = true := by decide +kernel
/-! Ports: port 23 UP or TRAINING; a flit with a good check. -/
def sPort (st : Nat) (f : Port → Port) : State := updPort up 23 fun q => f { q with st := st, signal := true }
def wFlit (type seq crc : Nat) : List Byte :=
  List.replicate 244 0#8 ++ (toLE 2 (seq + 4096 * type) ++ toLE 6 0 ++ toLE 4 crc)
/-- CRC-32C of 244 zeros, in steps of 61. -/
theorem crc_zeros : (List.replicate 244 0#8).foldl crcByte 0xFFFFFFFF#32 = 3965898290#32 := by
  have e1 : (List.replicate 61 0#8).foldl crcByte 0xFFFFFFFF#32 = 1867541785#32 := by decide +kernel
  have e2 : (List.replicate 61 0#8).foldl crcByte 1867541785#32 = 1076094375#32 := by decide +kernel
  have e3 : (List.replicate 61 0#8).foldl crcByte 1076094375#32 = 2250577890#32 := by decide +kernel
  have e4 : (List.replicate 61 0#8).foldl crcByte 2250577890#32 = 3965898290#32 := by decide +kernel
  have e : List.replicate 244 0#8 = (List.replicate 61 0#8 ++ List.replicate 61 0#8)
      ++ (List.replicate 61 0#8 ++ List.replicate 61 0#8) := by simp only [List.replicate_append_replicate, Nat.reduceAdd]
  rw [e, List.foldl_append, List.foldl_append, List.foldl_append, e1, e2, e3, e4]
theorem take_wFlit (type seq crc : Nat) :
    (wFlit type seq crc).take 252 = List.replicate 244 0#8 ++ (toLE 2 (seq + 4096 * type) ++ toLE 6 0) := by
  rw [wFlit, List.take_append, List.take_of_length_le (by rw [List.length_replicate]; omega), List.length_replicate]; rfl
theorem flitCrcOk_wFlit (type seq crc : Nat)
    (h : (~~~((toLE 2 (seq + 4096 * type) ++ toLE 6 0).foldl crcByte 3965898290#32)).toNat = fieldLE (wFlit type seq crc) 252 4) :
    flitCrcOk (wFlit type seq crc) = true := by
  rw [flitCrcOk, take_wFlit, crc32c, List.foldl_append, crc_zeros, h, beq_self_eq_true]
theorem witness_flitReceive : linkRuns (sPort 2 id) 23 = true ∧ linkUpish (portOf (sPort 2 id) 23) = true
  ∧ (wFlit 0 0 1743147809).length = 256 ∧ flitType (wFlit 0 0 1743147809) = 0 ∧ flitCrcOk (wFlit 0 0 1743147809) = true :=
  ⟨by decide +kernel, by decide +kernel, by decide +kernel, by decide +kernel, flitCrcOk_wFlit _ _ _ (by decide +kernel)⟩
theorem witness_flitReceive_crc : flitCrcOk (wFlit 0 0 0) = false := by
  rw [flitCrcOk, take_wFlit, crc32c, List.foldl_append, crc_zeros]; decide +kernel
theorem witness_flitReceive_sequence : flitCrcOk (wFlit 1 0 4223510919) = true ∧ flitType (wFlit 1 0 4223510919) = 1
  ∧ flitSeq (wFlit 1 0 4223510919) = (portOf ((sPort 2 id).count64 (linkBlk 23 + 0x20) 65535) 23).rxSeq
  ∧ flitCrcOk (wFlit 2 4095 375434723) = true ∧ flitType (wFlit 2 4095 375434723) = 2
  ∧ flitSeq (wFlit 2 4095 375434723) ≠ (portOf ((sPort 2 id).count64 (linkBlk 23 + 0x20) 65535) 23).rxSeq :=
  ⟨flitCrcOk_wFlit _ _ _ (by decide +kernel), by decide +kernel, by decide +kernel, flitCrcOk_wFlit _ _ _ (by decide +kernel),
    by decide +kernel, by decide +kernel⟩
theorem witness_training : linkRuns (sPort 1 id) 23 = true ∧ (portOf (sPort 1 id) 23).st = 1
  ∧ (portOf (sPort 1 id) 23).signal = true ∧ bit ((sPort 1 id).reg (linkBlk 23)) 0 = true
  ∧ (portOf (sPort 1 id) 23).failed + 1 < 3 ∧ 3 ≤ (portOf (sPort 1 fun q => { q with failed := 2 }) 23).failed + 1 := by
  decide +kernel
def kOut : FPkt := mkPkt 0x21 2 5 []
def sOut (f : Port → Port) : State := sPort 2 f
def tOut (f : Port → Port) : State := fillTokens (dropUncarried (sOut f) 23) 23
theorem witness_packetEgress : (portOf (sOut id) 23).st ≠ 1 ∧ inRecovery (sOut id) 4 23 = false
  ∧ linkUpish (portOf (tOut fun q => { q with txStream := List.replicate 242 0#8 }) 23) = true
  ∧ 242 ≤ (portOf (tOut fun q => { q with txStream := List.replicate 242 0#8 }) 23).txStream.length
  ∧ (portOf (tOut fun q => { q with egress := [(24, kOut)] }) 23).txStream.length < 242
  ∧ pickEgress (tOut fun q => { q with egress := [(24, kOut)] }) 23 = some 0
  ∧ pickEgress (tOut fun q => { q with txStream := [1] }) 23 = none
  ∧ (portOf (tOut fun q => { q with txStream := [1] }) 23).txStream ≠ []
  ∧ (portOf (tOut fun q => { q with txStream := [1] }) 23).replay.length < 512 := by decide +kernel

/-! Requests of device 6, at port 24 (the device's own packets) and 23. -/
def kReq (type vc : Nat) (pay : List Byte) : FPkt := { mkPkt type vc 0 pay with src := 6, job := 7 }
theorem witness_remote : ∀ p ∈ [23, 24],
    RxReady 0x01 0 p (kReq 0x01 0 (toLE 16 1)) (rx p (kReq 0x01 0 (toLE 16 1)) up)
  ∧ (remotePlace (takenRx 0 p (kReq 0x01 0 (toLE 16 1)) (rx p (kReq 0x01 0 (toLE 16 1)) up)) (kReq 0x01 0 (toLE 16 1)) true).2
    = some (0, 0)
  ∧ RxReady 0x02 0 p (kReq 0x02 0 []) (rx p (kReq 0x02 0 []) up)
  ∧ (remotePlace (takenRx 0 p (kReq 0x02 0 []) (rx p (kReq 0x02 0 []) up)) (kReq 0x02 0 []) false).2 = some (0, 0) := by
  decide +kernel
def kRelay : FPkt := kReq 0x04 0 (toLE 80 0)
theorem witness_relayCmd : awake (rx 23 kRelay up) = true ∧ RxReady 0x04 0 23 kRelay (rx 23 kRelay up)
  ∧ contextCheck (takenRx 0 23 kRelay (rx 23 kRelay up)) (relayedPacket (takenRx 0 23 kRelay (rx 23 kRelay up)) kRelay).q
      (relayedPacket (takenRx 0 23 kRelay (rx 23 kRelay up)) kRelay) = 0 := by decide +kernel
theorem witness_hostReq : RxReady 0x05 0 23 (kReq 0x05 0 []) (rx 23 (kReq 0x05 0 []) up)
  ∧ (rx 23 (kReq 0x05 0 []) up).host.linkUp = true ∧ RxReady 0x06 0 23 (kReq 0x06 0 []) (rx 23 (kReq 0x06 0 []) up) := by
  decide +kernel
theorem witness_orderMark : ∀ v ∈ [0, 1, 2], RxReady 0x0E v 23 (kReq 0x0E v []) (rx 23 (kReq 0x0E v []) up)
  ∧ RxReady 0x0F v 23 (kReq 0x0F v []) (rx 23 (kReq 0x0F v []) up)
  ∧ ∀ u ∈ List.range v, (rxOf (rx 23 (kReq 0x0E v []) up) 23 u).head?.any (·.type == 0x0E) = false
    ∧ (rxOf (rx 23 (kReq 0x0F v []) up) 23 u).head?.any (·.type == 0x0F) = false := by decide +kernel
def wRem : Remote := ⟨9, 0, 0, 0, 6, 0, 0, 0, 3, .none, 16, 0⟩
def sRem (k : FPkt) : State := rx 23 k (up.onMov fun m => { m with remote := [wRem] })
theorem witness_answers : ∀ type ∈ [0x11, 0x12, 0x13, 0x16], RxReady type 1 23 (kAns type) (sRem (kAns type))
  ∧ (kAns type).gen = (takenRx 1 23 (kAns type) (sRem (kAns type))).gen 0
  ∧ (takenRx 1 23 (kAns type) (sRem (kAns type))).mov.remote.find? (·.tag == (kAns type).tag) = some wRem := by decide +kernel
def kStat : FPkt := { kAns 0x16 with aux := 0x1A }
theorem witness_hostResp : RxReady 0x16 1 23 kStat (sRem kStat) ∧ bits kStat.aux 0 8 ≠ 0 ∧ bits (kAns 0x16).aux 0 8 = 0
  ∧ wRem.kind = 3 := by decide +kernel
/-- The answers of a SCALE_READ's slot and of a write to the host. -/
def sRemOf (kind : Nat) (k : FPkt) : State := rx 23 k ((issue (at0 (packet 0x19 64 []) up) 0 (packet 0x19 64 []) []).1.onMov fun m =>
  { m with remote := [{ wRem with kind := kind }] })
theorem witness_hostResp_scale : RxReady 0x16 1 23 (kAns 0x16) (sRemOf 6 (kAns 0x16))
  ∧ ((dropRemote (takenRx 1 23 (kAns 0x16) (sRemOf 6 (kAns 0x16))) 9).cmd? wRem.cmd).any (fun c => !c.ended) = true := by
  decide +kernel
theorem witness_hostResp_write : RxReady 0x16 1 23 (kAns 0x16) (sRemOf 5 (kAns 0x16))
  ∧ (takenRx 1 23 (kAns 0x16) (sRemOf 5 (kAns 0x16))).mov.remote.find? (·.tag == (kAns 0x16).tag)
    = some { wRem with kind := 5 } := by decide +kernel
def wRelayed : Relayed := ⟨6, 0, 0, 0, 0, 0, 0, 0, false⟩
def sRelayed : State := rx 23 (kAns 0x15) (up.onFab fun f => { f with relayed := [wRelayed], purging := [6] })
theorem witness_relayCpl : RxReady 0x15 1 23 (kAns 0x15) sRelayed
  ∧ bits (kAns 0x15).aux 0 4 = Tbl.get 0 (takenRx 1 23 (kAns 0x15) sRelayed).fab.epoch (kAns 0x15).src
  ∧ (takenRx 1 23 (kAns 0x15) sRelayed).fab.relayed.find? (fun r => r.seat == (kAns 0x15).src
      && r.q == bits (kAns 0x15).aux 16 16 && r.serial == fieldLE (kAns 0x15).pay 0 4) = some wRelayed := by decide +kernel
theorem witness_purgeAck : RxReady 0x1D 1 23 (kAns 0x1D) (rx 23 (kAns 0x1D) up) := by decide +kernel
def kDrain : FPkt := { kAns 0x1B with tag := 2 }
theorem witness_drainReturn : RxReady 0x1B 1 23 kDrain (rx 23 kDrain (sTear 1))
  ∧ kDrain.gen = (takenRx 1 23 kDrain (rx 23 kDrain (sTear 1))).gen 0
  ∧ ((takenRx 1 23 kDrain (rx 23 kDrain (sTear 1))).ctx 0).down = some (wTear 1)
  ∧ (wTear 1).waitFor.contains (4 * kDrain.src + kDrain.tag) = true := by decide +kernel

/-! Management packets; `flags` is the second byte of the message, of which bit 1 says a reply. -/
def kMsg (flags : Nat) : FPkt := { mkPkt 0x31 3 0 (toLE 1 0x80 ++ toLE 1 flags ++ toLE 14 0) with src := 6 }
theorem witness_mgmt : RxReady 0x31 3 23 (kMsg 2) (rx 23 (kMsg 2) up) ∧ isReply (kMsg 2).pay = true
  ∧ RxReady 0x31 3 23 (kMsg 0) (rx 23 (kMsg 0) up) ∧ isReply (kMsg 0).pay = false := by decide +kernel
def kDir (i c flags : Nat) : FPkt := mkPkt 0x32 3 0
  (toLE 16 0 ++ toLE 1 i ++ toLE 1 c ++ toLE 14 0 ++ toLE 1 0x80 ++ toLE 1 flags ++ toLE 14 0)
theorem witness_directed : (∀ e ∈ [(0, 16, 2), (16, 16, 2), (16, 16, 0), (0, 16, 0)],
      RxReady 0x32 3 23 (kDir e.1 e.2.1 e.2.2) (rx 23 (kDir e.1 e.2.1 e.2.2) up)
    ∧ fieldLE (kDir e.1 e.2.1 e.2.2).pay 16 1 = e.1 ∧ fieldLE (kDir e.1 e.2.1 e.2.2).pay 17 1 = 16)
  ∧ isReply ((kDir 0 16 2).pay.drop 32) = true ∧ isReply ((kDir 0 16 0).pay.drop 32) = false := by decide +kernel
def kSync (aux : Nat) : FPkt := { mkPkt 0x33 3 0 [] with src := 6, aux := aux }
def sSync : State := rx 23 (kSync 1) (up.onFab fun f => { f with syncT1 := some 0, parentPort := 23, tState := 2 })
theorem witness_sync : RxReady 0x33 3 23 (kSync 0) (rx 23 (kSync 0) up) ∧ RxReady 0x33 3 23 (kSync 1) sSync
  ∧ (takenRx 3 23 (kSync 1) sSync).fab.syncT1 = some 0 ∧ (takenRx 3 23 (kSync 1) sSync).fab.parentPort = 23
  ∧ (takenRx 3 23 (kSync 1) sSync).fab.tState ≠ 0 := by decide +kernel
/-- A packet of type `type` for job `job`, from device 63. -/
def kMg (type job : Nat) : FPkt := { mkPkt type 3 0 (toLE 16 0) with src := 63, job := job }
theorem witness_managementPackets : (∀ type ∈ [0x34, 0x35, 0x36, 0x37, 0x38, 0x39],
    RxReady type 3 23 (kMg type 7) (rx 23 (kMg type 7) up)) ∧ (rx 23 (kMg 0x34 7) up).boot.devIdValid = false := by decide +kernel
theorem witness_abort : ctxOfJob (takenRx 3 23 (kMg 0x35 0) (rx 23 (kMg 0x35 0) up)) (kMg 0x35 0).job = none
  ∧ ctxOfJob (takenRx 3 23 (kMg 0x35 7) (rx 23 (kMg 0x35 7) up)) (kMg 0x35 7).job = some 0 := by decide +kernel
def wMark : Mark := ⟨63, 0, 1, 2, 0⟩
def sMark : State := rx 23 (kMg 0x39 7) (up.onFab fun f => { f with marks := [wMark] })
theorem witness_orderAck : RxReady 0x39 3 23 (kMg 0x39 7) sMark
  ∧ markOf (takenRx 3 23 (kMg 0x39 7) sMark) ((kMg 0x39 7).aux % 4) (kMg 0x39 7).src = some wMark := by decide +kernel
theorem witness_respTimeout : alive (up.onMov fun m => { m with remote := [wRem] }) = true ∧ (up.onMov fun m => { m with remote := [wRem] }).mov.remote.find? (·.tag == 9) = some wRem
  ∧ arrived (up.onMov fun m => { m with remote := [wRem] })
    (fun k => [0x11, 0x12, 0x13, 0x16].contains k.type && k.tag == 9) = false := by decide +kernel
def sCheck : State := up.onFab fun f => { f with check := some (0, [23, 32 + 22]) }
theorem witness_routeCheckTimeout : linkRuns sCheck 23 = true ∧ awaits sCheck 23 = true ∧ linkRuns sCheck 22 = true
  ∧ awaits sCheck (32 + 22) = true ∧ tableHere sCheck 23 = false ∧ tableHere sCheck 22 = false := by decide +kernel
def sMarked : State := up.onFab fun f => { f with marks := [wMark] }
def sTime (n : Nat) : State := up.onFab fun f => { f with tState := n, cands := [⟨1, 0, 0, 23, 0⟩] }
theorem witness_fabricTimers : linkRuns sMarked 0 = true ∧ markOf sMarked 0 63 = some wMark
  ∧ arrived sMarked (fun k => k.type == 0x39 && k.src == 63 && k.aux % 4 == 0) = false ∧ (sTime 1).fab.tState ≠ 0
  ∧ (bestCand (sTime 1)).isSome = true ∧ (sTime 2).fab.tState = 2 ∧ (sTime 3).fab.tState = 3 := by decide +kernel
def sPend : State := due .routeTable (up.onFab fun f => { f with pendSt := 2 })
theorem witness_routeTableCommit : DueHead .routeTable [] sPend
  ∧ ((takenDue [] sPend).setReg (trcBlk + 0x8) 0).fab.pendSt = 2 := by decide +kernel

/-! Statements about the Groom, the health engine and start-up. -/
theorem witness_periodic : DueHead .hoofbeat [] (due .hoofbeat up) ∧ DueHead .telemetry [] (due .telemetry up)
  ∧ DueHead .reinLease [] (due .reinLease up) ∧ (due .reinLease up).grm.holder.cls ≠ 0
  ∧ (due .reinLease up).grm.expiry ≤ (takenDue [] (due .reinLease up)).nowStride := by decide +kernel
def wLate : Cmd := { newCmd up 0 (packet 0x00 64 []) with overrun := true, runEnd := some (0, 0) }
def sLate : State := due (.overrunLimit 0) ((up.onCp fun c => { c with cmds := [wLate] }).setReg (timBlk + 0x50) 0)
theorem witness_late : DueHead (.overrunLimit 0) [] sLate ∧ lateCmds (takenDue [] sLate) 0 ≠ [] := by decide +kernel
def wRecov (dom phase : Nat) : Recov := ⟨0, dom, dieCpath 0 0, [], phase, 0, 0, 0, 3, []⟩
def sRecov (dom phase : Nat) : State := up.onHlt fun h => { h with recovs := [wRecov dom phase] }
theorem witness_recoveries : alive (sRecov 2 3) = true ∧ recov? (sRecov 2 3) 0 3 = some (wRecov 2 3)
  ∧ recov? (sRecov 2 5) 0 5 = some (wRecov 2 5)
  ∧ (domMems (wRecov 2 5).dom (wRecov 2 5).inst).any (fun u => (srUnit (sRecov 2 5) u).st == 1) = false
  ∧ recov? (sRecov 2 6) 0 6 = some (wRecov 2 6) ∧ (wRecov 2 6).dom ≠ 6 := by decide +kernel
def wDump : DumpRun := ⟨3, 2, dieCpath 0 0, 0, 0, 0, none, 0, 0, 0, [], [], []⟩
def sDump (len : Nat) : State := (up.onHlt fun h => { h with dumpQ := [wDump] }).setReg (healthBlk + 0x18) len
def nextDump (s : State) : State := s.onHlt fun h => { h with dumpQ := [], dumpSerial := h.dumpSerial + 1 }
theorem witness_dumps : (sDump 0).hlt.dumping = none ∧ (sDump 0).hlt.dumpQ = [wDump]
  ∧ dumpDest (nextDump (sDump 0)) = none ∧ dumpDest (nextDump (sDump 16)) = some (0, 0, 65536)
  ∧ ((nextDump (sDump 0)).onHlt fun h => { h with dumping := some wDump }).hlt.dumping = some wDump := by decide +kernel
def msg (op flags cp : Nat) (pay : List Byte) : Msg :=
  ⟨Master.pf, toLE 1 op ++ toLE 1 flags ++ toLE 2 5 ++ toLE 2 cp ++ toLE 2 pay.length ++ toLE 8 0 ++ pay, none, 0, []⟩
/-- The Groom serves message `m`. -/
def serves (m : Msg) (s : State) : State := s.onGrm fun g => { g with cur := some m }
def queued (n : Nat) (m : Msg) : State := up.onGrm fun g => { g with mctpq := List.replicate n m, vc3q := [m] }
def mId : Msg := msg 0x80 0 0xFFFF []
theorem witness_mctp : (queued 0 mId).grm.mctpq.length < 16 ∧ 16 ≤ (queued 16 mId).grm.mctpq.length := by decide +kernel
theorem witness_dequeue : (queued 1 mId).grm.st = 1 ∧ (queued 1 mId).grm.cur = none ∧ (queued 1 mId).grm.mctpq = mId :: []
  ∧ (queued 1 mId).grm.vc3q = mId :: [] := by decide +kernel
def wMg : Packet := { packet 0x80 128 [(80, 1, 0x80)] with fn := 0 }
def sMg (q : Nat) : State := up.onCp fun c => { c with waiting := [(q, [wMg])] }
theorem witness_pfMessage : ∀ q ∈ [64, 192], (sMg q).headPkt q = some wMg ∧ 0x80 ≤ wMg.op ∧ forSeat (sMg q) wMg = false
  ∧ mayIssue (sMg q) q wMg = true ∧ (sMg q).grm.st = 1 ∧ (sMg q).grm.cur = none
  ∧ allZero (slice wMg.params 8 8) = true ∧ fieldLE (wMg.params.drop 16) 0 1 = wMg.op
  ∧ isReply (wMg.params.drop 16) = false := by decide +kernel
def mRead (op : Nat) : Msg := msg op 0 0xFFFF (toLE 4 0 ++ toLE 4 8 ++ toLE 8 0)
theorem witness_readTimeout : ∀ op ∈ [0x81, 0x82, 0x83], (serves (mRead op) up).grm.st = 1
  ∧ (serves (mRead op) up).grm.cur = some (mRead op) ∧ (mRead op).op = op ∧ (mRead op).ok = true
  ∧ (mRead op).target.isNone = false ∧ aon (serves (mRead op) up) = true
  ∧ msgServed (serves (mRead op) up) (mRead op) = true := by decide +kernel
/-- A claim of class 1 with owner key 0, for the product of serial number 0. -/
def wRein : ReinClaim := ⟨msg 0x89 0 0xFFFF (toLE 1 1 ++ toLE 239 0), 0, true, none⟩
def sRein : State := up.onGrm fun g => { g with claims := [wRein] }
theorem witness_claim : sRein.grm.claims[0]? = some wRein ∧ wRein.verdict = none
  ∧ claimOk sRein { wRein with nonceOk := false } = false := by decide +kernel
theorem witness_claimOk (h : Config.p384Verify (List.replicate 96 0#8) (Config.sha384 (toLE 1 1 ++ toLE 143 0)) (List.replicate 96 0#8) = true) :
    claimOk sRein wRein = true := by
  have e : slice wRein.msg.args 48 96 = List.replicate 96 0#8 := by decide +kernel
  have f : wRein.msg.args.take 144 = toLE 1 1 ++ toLE 143 0 := by decide +kernel
  have g : slice wRein.msg.args 144 96 = List.replicate 96 0#8 := by decide +kernel
  unfold claimOk
  simp only [e, f, g, h]
  decide +kernel

/-! Firmware images. -/
def wHdr : List Byte := toLE 4 imageMagic ++ toLE 5 0 ++ toLE 1 1 ++ toLE 502 0
def wImg : Tbl Byte := memWriteN [] 0 wHdr
/-- An image whose signature verifies and whose body is as its header says passes every check. -/
theorem witness_image (floor : Nat) (hf : floor = 0) (hb : Config.sha384 [] = 0#384)
    (hv : Config.p384Verify (List.replicate 96 0#8) (Config.sha384 (wHdr.take 168)) (List.replicate 96 0#8) = true) :
    imageCheck wImg (Config.sha384 (List.replicate 96 0#8)) floor true = 0 := by
  have a : imageHdr wImg = wHdr := by decide +kernel
  have b : imageBodyLen wImg = 0 := by decide +kernel
  have c : imageBody wImg = [] := by decide +kernel
  have d : slice wHdr 72 96 = List.replicate 96 0#8 := by decide +kernel
  have e : slice wHdr 168 96 = List.replicate 96 0#8 := by decide +kernel
  have f : be384 (slice wHdr 24 48) = 0#384 := by decide +kernel
  have g : fieldLE wHdr 0 4 = imageMagic ∧ fieldLE wHdr 10 1 + 1 = fieldLE wHdr 9 1 := by decide +kernel
  unfold imageCheck
  simpa [a, b, c, d, e, f, hb, hf, g.1, g.2] using hv
theorem witness_imageFails : imageCheck [] 0#384 0 true ≠ 0 := by decide +kernel
def sAct : State := up.onGrm fun g => { g with activating := [(mId, 0, [])] }
def sGrm (n : Nat) : State := up.onGrm fun g => { g with st := n }
theorem witness_groom : sAct.grm.st = 1 ∧ sAct.grm.activating = (mId, 0, []) :: [] ∧ (sGrm 2).grm.st = 2
  ∧ alive (sGrm 2) = true := by decide +kernel

/-! Management commands. -/
/-- The commands with no operands that matter. -/
theorem witness_servingPlain : ∀ op ∈ [0x80, 0x8C, 0xA1, 0xB1, 0xB2, 0x8A, 0x92, 0xA6],
  Serving op (msg op 0 0xFFFF []) (serves (msg op 0 0xFFFF []) up) := by decide +kernel
theorem witness_servingIdentify : Serving 0x80 (msg 0x80 1 0xFFFF (toLE 1 0 ++ toLE 4 0xFFFFFFFF ++ toLE 7 0))
    (serves (msg 0x80 1 0xFFFF (toLE 1 0 ++ toLE 4 0xFFFFFFFF ++ toLE 7 0)) up)
  ∧ (msg 0x80 1 0xFFFF (toLE 1 0 ++ toLE 4 0xFFFFFFFF ++ toLE 7 0)).dazal = true := by decide +kernel
theorem witness_servingRead : Serving 0x81 (mRead 0x81) (serves (mRead 0x81) up)
  ∧ regArgs (mRead 0x81) 256 = some (0xFFFF, cpathBlock 0xFFFF, 0, 8) ∧ cpathOff (serves (mRead 0x81) up) 0xFFFF = false := by
  decide +kernel
/-- Eight bytes from offset `o`. -/
def mWrite (o : Nat) : Msg := msg 0x82 0 0xFFFF (toLE 4 o ++ toLE 4 8 ++ toLE 8 0)
def asBmc (s : State) : State := s.onGrm fun g => { g with tag := Master.bmc }
theorem witness_servingWrite : ∀ o ∈ [0, 8], Serving 0x82 (mWrite o) (serves (mWrite o) up) := by decide +kernel
theorem witness_writeArgs : ∀ o ∈ [0, 8], regArgs (mWrite o) 64 = some (0xFFFF, cpathBlock 0xFFFF, o, 8) := by decide +kernel
theorem witness_servingWriteData : cpathOff (serves (mWrite 0) up) 0xFFFF = false ∧ 8 ≤ (slice (mWrite 0).args 8 8).length
  ∧ holdsRein (serves (mWrite 0) up) (serves (mWrite 0) up).grm.tag = true := by decide +kernel
/-- Of the update die: the rows of the update engine's store. -/
def mDiag : Msg := msg 0x83 1 0xFFFF (toLE 1 0 ++ toLE 1 4 ++ toLE 2 0xFFFF ++ toLE 20 0)
theorem witness_servingDiag : Serving 0x83 mDiag (serves mDiag up) ∧ mDiag.dazal = true ∧ mDiag.target = some (dieCpath 4 0)
  ∧ cpathOff (serves mDiag up) (dieCpath 4 0) = false
  ∧ (diagRead (serves mDiag up) (dieCpath 4 0) 0 0 0).2.isSome = true := by decide +kernel
def mOne (op v : Nat) : Msg := msg op 0 0xFFFF (toLE 1 v)
theorem witness_servingRecords : (∀ e ∈ [(0x84, 0), (0x84, 63), (0x85, 0), (0x85, 63), (0x85, 64), (0x85, 79)],
    Serving e.1 (mOne e.1 e.2) (serves (mOne e.1 e.2) up)) ∧ (mOne 0x84 63).args ≠ [] ∧ (mOne 0x85 63).arg 0 1 < 64
  ∧ 64 ≤ (mOne 0x85 64).arg 0 1 ∧ (mOne 0x85 79).arg 0 1 < 80 := by decide +kernel
/-- One entry of the flash log (1) or of the RAM's (0). -/
def mLog (f n : Nat) : Msg := msg 0xA0 0 0xFFFF (toLE 4 0 ++ toLE 2 n ++ toLE 1 f)
theorem witness_servingLog : ∀ f ∈ [0, 1], ∀ n ∈ [1, 13], Serving 0xA0 (mLog f n) (serves (mLog f n) up)
  ∧ 7 ≤ (mLog f n).args.length ∧ (mLog f n).arg 4 2 ≠ 0 ∧ (mLog f n).arg 4 2 ≤ (mLog f n).limit / 32
  ∧ (mLog f n).arg 6 1 ≤ 1 := by decide +kernel
def mClaim : Msg := msg 0x89 0 0xFFFF (toLE 240 1)
theorem witness_servingClaims : Serving 0x88 (msg 0x88 0 0xFFFF []) (serves (msg 0x88 0 0xFFFF []) up)
  ∧ Serving 0x89 mClaim (serves mClaim up) := by decide +kernel
def mWord (op v : Nat) (l : List Byte) : Msg := msg op 0 0xFFFF (toLE 4 v ++ l)
theorem witness_servingPass : ∀ v ∈ [1, 2, 3, 3 + 8 * 4095, 7, 7 + 8 * 31], Serving 0x8B (mWord 0x8B v []) (serves (mWord 0x8B v []) up)
  ∧ 4 ≤ (mWord 0x8B v []).args.length ∧ (passTarget ((mWord 0x8B v []).arg 0 4)).isSome = true
  ∧ (decide (v = 1) == decide (passTarget ((mWord 0x8B v []).arg 0 4) = some (serves (mWord 0x8B v []) up).grm.holder)) = true := by
  decide +kernel
def unlinked (s : State) : State := s.onHost fun h => { h with linkUp := false }
theorem witness_servingSetId : Serving 0x8D (mWord 0x8D 0 []) (serves (mWord 0x8D 0 []) up)
  ∧ Serving 0x8D (mWord 0x8D 4095 []) (unlinked (serves (mWord 0x8D 4095 []) up))
  ∧ Serving 0x8D (mWord 0x8D 64 []) (unlinked (serves (mWord 0x8D 64 []) up))
  ∧ Serving 0x8D (mWord 0x8D 4096 []) (serves (mWord 0x8D 4096 []) up)
  ∧ 4 ≤ (mWord 0x8D 4095 []).args.length ∧ (mWord 0x8D 4095 []).arg 0 4 = 4095 ∧ (serves (mWord 0x8D 0 []) up).boot.devIdValid = false
  ∧ ((0 % 64 == 0) = (serves (mWord 0x8D 0 []) up).host.linkUp)
  ∧ ((4095 % 64 == 0) = (unlinked (serves (mWord 0x8D 4095 []) up)).host.linkUp) := by decide +kernel
theorem witness_setIdRefused : aon (asBmc (serves (mWord 0x8D 0 []) up)) = true ∧ (asBmc (serves (mWord 0x8D 0 []) up)).grm.st = 1
  ∧ (asBmc (serves (mWord 0x8D 0 []) up)).grm.cur = some (mWord 0x8D 0 [])
  ∧ holdsRein (asBmc (serves (mWord 0x8D 0 []) up)) (asBmc (serves (mWord 0x8D 0 []) up)).grm.tag = false
  ∧ msgServed (asBmc (serves (mWord 0x8D 0 []) up)) (mWord 0x8D 0 []) = true ∧ (mWord 0x8D 0 []).op = 0x8D := by decide +kernel
theorem witness_notOwnerWrite : Serving 0x82 (mWrite 16) (asBmc (serves (mWrite 16) up))
  ∧ regArgs (mWrite 16) 64 = some (0xFFFF, cpathBlock 0xFFFF, 16, 8) ∧ 8 ≤ (slice (mWrite 16).args 8 8).length
  ∧ holdsRein (asBmc (serves (mWrite 16) up)) (asBmc (serves (mWrite 16) up)).grm.tag = false
  ∧ (coveredRegs (cpathBlock 0xFFFF) 16 8).any (fun r => ownedReg r.1) = true := by decide +kernel
/-- Owner key `k` of mask 0x0E. -/
def mKey (k : Nat) : Msg := mWord 0x8E k (toLE 96 1 ++ toLE 1 0x0E ++ toLE 1 1 ++ toLE 30 0)
theorem witness_servingKeys : ∀ k ∈ [0, 7], Serving 0x8E (mKey k) (serves (mKey k) up) ∧ 132 ≤ (mKey k).args.length
  ∧ (mKey k).arg 0 4 < 8 ∧ fieldLE (slice (mKey k).args 4 128) 96 1 % 2 = 0 ∧ fieldLE (slice (mKey k).args 4 128) 96 1 < 16
  ∧ fieldLE (slice (mKey k).args 4 128) 97 1 < 2 ∧ allZero (slice (slice (mKey k).args 4 128) 98 30) = true := by decide +kernel
theorem witness_servingStage : ∀ v ∈ [0, 12582911], Serving 0x90 (mWord 0x90 v [5#8]) (serves (mWord 0x90 v [5#8]) up)
  ∧ 4 ≤ (mWord 0x90 v [5#8]).args.length
  ∧ (mWord 0x90 v [5#8]).arg 0 4 + ((mWord 0x90 v [5#8]).args.drop 4).length ≤ 12582912 := by decide +kernel
theorem witness_servingActivate : ∀ v ∈ [0, 3], Serving 0x91 (mWord 0x91 v []) (serves (mWord 0x91 v []) up)
  ∧ 4 ≤ (mWord 0x91 v []).args.length ∧ (mWord 0x91 v []).arg 0 4 < 4 := by decide +kernel
/-- A message for device `dest`, out of `cnt` ports. -/
def mForward (dest cnt : Nat) : Msg := msg 0x98 0 0xFFFF (toLE 2 dest ++ toLE 1 cnt ++ toLE cnt 23 ++ toLE 1 0x80 ++ toLE 15 0)
theorem witness_servingForward : ∀ e ∈ [(0, 0), (6, 0), (6, 1), (4095, 16)],
    Serving 0x98 (mForward e.1 e.2) (serves (mForward e.1 e.2) up) ∧ (mForward e.1 e.2).master.cls = 1
  ∧ 3 + e.2 + 16 ≤ (mForward e.1 e.2).args.length ∧ (mForward e.1 e.2).arg 0 2 = e.1 ∧ (mForward e.1 e.2).arg 2 1 = e.2
  ∧ isReply ((mForward e.1 e.2).args.drop (3 + e.2)) = false ∧ (serves (mForward 0 0) up).devId = 0 := by decide +kernel
def sForward : State := (serves (mForward 6 0) up).setReg (trcBlk + 0x8000 + 4 * 6) (23 + 0x101 * 0x100) |>.onFab fun f => { f with activeValid := true }
theorem witness_forwardRoute : (originate sForward (mkPkt 0x31 3 6 ((mForward 6 0).args.drop 3))).1 = true
  ∧ Serving 0x98 (mForward 6 0) sForward := by decide +kernel
def mDom (op dom c : Nat) : Msg := msg op 0 0xFFFF (toLE 1 dom ++ toLE 2 c)
theorem witness_servingDomains : ∀ e ∈ [(0, 0), (1, 0), (2, 0), (3, dieCpath 4 0), (6, 0xFFFF)], ∀ op ∈ [0xA2, 0xA3],
  domArgs (mDom op e.1 e.2) = some e ∧ Serving op (mDom op e.1 e.2) (serves (mDom op e.1 e.2) up)
  ∧ up.hlt.recovs.find? (fun r => domContains r.dom r.inst e.1 (domInst e.1 e.2)) = none := by decide +kernel
theorem witness_resetJoins : Serving 0xA3 (mDom 0xA3 2 (dieCpath 0 0)) (serves (mDom 0xA3 2 (dieCpath 0 0)) (sRecov 2 7))
  ∧ (sRecov 2 7).hlt.recovs.find? (fun r => domContains r.dom r.inst 2 (domInst 2 (dieCpath 0 0))) = some (wRecov 2 7) := by
  decide +kernel
def mFence (c : Nat) : Msg := msg 0xA4 0 0xFFFF (toLE 2 c ++ toLE 1 1)
theorem witness_servingFence : ∀ e ∈ [(0, 0), (0x1FF, fuCluster 0), (dieCpath 0 0, fuDie 0), (dieCpath 4 0, fuUpdate)],
  Serving 0xA4 (mFence e.1) (serves (mFence e.1) up) ∧ 3 ≤ (mFence e.1).args.length
  ∧ fenceTarget ((mFence e.1).arg 0 2) = some e.2 := by decide +kernel
theorem witness_servingAbort : Serving 0xA5 (mWord 0xA5 7 []) (serves (mWord 0xA5 7 []) up)
  ∧ 2 ≤ (mWord 0xA5 7 []).args.length := by decide +kernel
def mGait (g : Nat) : Msg := msg 0xB0 0 0xFFFF (toLE 1 g ++ toLE 7 0 ++ toLE 8 0)
def sEmpty (m : Msg) : State := serves m (up.onSch fun c => { c with ctxs := [] })
theorem witness_servingGait : ∀ g ∈ [0, 4], Serving 0xB0 (mGait g) (sEmpty (mGait g)) ∧ 16 ≤ (mGait g).args.length
  ∧ allZero (slice (mGait g).args 1 7) = true ∧ (mGait g).arg 0 1 ≤ 4 ∧ (sEmpty (mGait g)).sch.ctxs.any (·.2.live) = false
  ∧ haltChanging (sEmpty (mGait g)) = false := by decide +kernel

/-! Statements about attestation, start-up and the whole machine. -/
def sSpdm (n : Nat) : State := up.onGrm fun g => { g with spdm := [(0, { Spdm.empty with st := n }), (1, { Spdm.empty with st := n })] }
def spdmReq (code len : Nat) : List Byte := toLE 1 0x10 ++ toLE 1 code ++ toLE len 0
theorem witness_spdm : ∀ path ∈ [0, 1], (path % 2 = 1 ∨ hostUp (sSpdm 3) = true) ∧ aon (sSpdm 3) = true ∧ (sSpdm 3).grm.st = 1
  ∧ 3 ≤ (spdmOf (sSpdm 3) path).st ∧ 2 ≤ (spdmOf (sSpdm 2) path).st ∧ 1 ≤ (spdmOf (sSpdm 1) path).st := by decide +kernel
theorem witness_spdmRequests : (∀ code ∈ [0x84, 0xE1, 0xE3, 0x81], 4 ≤ (spdmReq code 2).length ∧ fieldLE (spdmReq code 2) 1 1 = code)
  ∧ 8 ≤ (spdmReq 0x82 6).length ∧ fieldLE (spdmReq 0x82 6) 1 1 = 0x82 ∧ fieldLE (spdmReq 0x82 6) 2 1 % 16 = 0
  ∧ fieldLE (spdmReq 0x82 6) 4 2 ≤ (slotChain (sSpdm 3)).length
  ∧ 36 ≤ (spdmReq 0x83 34).length ∧ fieldLE (spdmReq 0x83 34) 1 1 = 0x83 ∧ fieldLE (spdmReq 0x83 34) 2 1 = 0 := by decide +kernel
def measReq (sign i : Nat) : List Byte := toLE 1 0x10 ++ toLE 1 0xE0 ++ toLE 1 sign ++ toLE 1 i ++ toLE 33 0
theorem witness_measurements : ∀ sign ∈ [0, 1], ∀ i ∈ [0, 1, 5], 37 ≤ (measReq sign i).length ∧ fieldLE (measReq sign i) 1 1 = 0xE0
  ∧ fieldLE (measReq sign i) 3 1 = i ∧ bit (fieldLE (measReq sign i) 2 1) 0 = (sign == 1)
  ∧ fieldLE (measReq sign i) 36 1 % 16 = 0 := by decide +kernel
def pldmReq (type code : Nat) (l : List Byte) : List Byte := toLE 1 0x80 ++ toLE 1 type ++ toLE 1 code ++ l
theorem witness_pldm0 : aon up = true ∧ up.grm.st = 1 ∧ (∀ code ∈ [2, 4, 5],
    fieldLE (pldmReq 0 code (toLE 5 0)) 1 1 % 64 = 0 ∧ fieldLE (pldmReq 0 code (toLE 5 0)) 2 1 = code
    ∧ 8 ≤ (pldmReq 0 code (toLE 5 0)).length)
  ∧ ∀ type ∈ [0, 2, 5], 9 ≤ (pldmReq 0 3 (toLE 5 0 ++ toLE 1 type)).length
    ∧ fieldLE ((pldmReq 0 3 (toLE 5 0 ++ toLE 1 type)).drop 3) 5 1 = type
    ∧ fieldLE ((pldmReq 0 5 (toLE 5 type)).drop 3) 0 1 = type := by decide +kernel
def pldmSensor (code i : Nat) : List Byte := pldmReq 2 code (toLE 2 i ++ toLE 11 0)
theorem witness_pldm2 : ∀ code ∈ [0x11, 0x12, 0x50, 0x51], ∀ i ∈ [0, 1, 39], fieldLE (pldmSensor code i) 1 1 % 64 = 2
  ∧ fieldLE (pldmSensor code i) 2 1 = code ∧ 16 ≤ (pldmSensor code i).length
  ∧ (sensorField (fieldLE ((pldmSensor code i).drop 3) 0 2)).isSome = true ∧ fieldLE ((pldmSensor code i).drop 3) 0 2 < 40 := by
  decide +kernel
def sType5 (n : Nat) : State := up.onGrm fun g => { g with pldmSt := n, holder := Master.bmc }
theorem witness_pldm5 : holdsRein (sType5 0) Master.bmc = true ∧ (sType5 2).grm.pldmSt = 2 ∧ (sType5 1).grm.pldmSt = 1
  ∧ ∀ code ∈ [0x10, 0x1A], fieldLE (pldmReq 5 code []) 1 1 % 64 = 5 ∧ fieldLE (pldmReq 5 code []) 2 1 = code
    ∧ 3 ≤ (pldmReq 5 code []).length := by decide +kernel
def sBoot (f : Boot → Boot) : State := up.onBoot f
theorem witness_startup :
  (sBoot fun b => { b with powered := false }).boot.powered = false ∧ (sBoot fun b => { b with perst := true }).boot.perst = true
  ∧ up.boot.fuses = true ∧ (sBoot fun b => { b with straps := { b.straps with hostEn := true } }).boot.straps.hostEn = true
  ∧ (sGrm 0).boot.imageOk = true ∧ (sGrm 0).grm.st = 0
  ∧ ((sGrm 0).onBoot fun b => { b with imageOk := false }).boot.imageOk = false
  ∧ ((sGrm 0).onBoot fun b => { b with imageOk := false }).boot.fuses = true
  ∧ ((sGrm 0).onBoot fun b => { b with imageOk := false }).boot.railFault = false
  ∧ alive (sGrm 0) = true := by decide +kernel
def sTest (b1 b2 : Bool) : State := sBoot fun b => { b with selfTest := b1, ready := false, cpFailed := b2 }
theorem witness_selfTest : alive (sTest false false) = true ∧ (sTest false false).boot.memTrained = true
  ∧ (sTest false false).boot.selfTest = false ∧ [464].all (fun u => decide (u < 465)) = true
  ∧ (sTest true true).boot.selfTest = true ∧ (sTest true true).boot.ready = false ∧ (sTest true true).boot.startFail = false
  ∧ (sTest true true).boot.cpFailed = true ∧ (sTest true false).boot.cpFailed = false
  ∧ (List.range 4).any (dieHasNoStack (sTest true false)) = false := by decide +kernel

/-! Statements about every command. -/
theorem witness_wf : (Instr.nop 255).wf = true ∧ (Instr.nop 256).wf = false := by decide
theorem witness_step : ({ up with pending := [.nop 0] } : State).pending = .nop 0 :: [] ∧ up.pending = [] := by decide +kernel
theorem witness_queueKept : ∃ t, exec .supplyFail up = .next t := ⟨_, rfl⟩
theorem witness_fuses : FusesHeld State.reset.grm.vendorHash 0 State.reset ∧ step State.reset = .next (idle State.reset) :=
  ⟨⟨rfl, Nat.zero_le _⟩, rfl⟩
theorem witness_reinMoves : (after .passRein (serves (mWord 0x8B 2 []) up)).grm.holder
  ≠ (serves (mWord 0x8B 2 []) up).grm.holder := by decide +kernel
def sTrip : State := (up.onPwr fun p => { p with trip := true }).onBoot fun b => { b with devId := 64, devIdValid := true }
theorem witness_resetClears : sTrip.boot.devIdValid = true ∧ (packageReset sTrip false true up.boot.straps).boot.devIdValid = false
  ∧ sTrip.pwr.trip = true ∧ (packageReset sTrip false true up.boot.straps).pwr.trip = false := by decide +kernel
theorem witness_debugWindow : (sDbg.mem.sym.all fun w => decide (32 * w + 32 ≤ sDbg.fld dbgCtl 0 3 * 2 ^ 36)
    || decide (sDbg.fld dbgCtl 0 3 * 2 ^ 36 + 4 ≤ 32 * w)) = true
  ∧ ueWords sDbg (sDbg.fld dbgCtl 0 3 * 2 ^ 36) 4 = [] := by decide +kernel
theorem witness_littleEndian : 1 < 2 ∧ (toLE 2 0x1234)[1]? = some 0x12#8 := by decide +kernel
theorem witness_readOnly : ∀ key ∈ [0, fnBlk 1 + 0x1014, coreBlk 255 + 4], ¬(groomBlk + 0x10000 ≤ key ∧ key < groomBlk + 0x20000)
  ∧ (regAt key).any (fun r => r.1.acc == .ro) = true := by decide +kernel
theorem witness_latchBits : ¬(groomBlk + 0x10000 ≤ powerBlk + 0x2C ∧ powerBlk + 0x2C < groomBlk + 0x20000)
  ∧ (regAt (powerBlk + 0x2C)).any (fun r => r.1.acc == .w1c
    && !(r.1.fields.any fun f => decide (f.lo ≤ 5) && decide (5 < f.lo + f.width))) = true := by decide +kernel
theorem witness_dropped : 0x10000 ≤ (groomBlk + 0x10) % 2 ^ 26 ∧ (regAt (groomBlk + 0x10)).any (fun r => r.1.acc == .ow) = true
  ∧ owWrite (up.onGrm fun g => { g with holder := Master.bmc }) 0 = false ∧ owWrite up 1 = false := by decide +kernel
theorem witness_ringChecks : ((wEnable 0x60601 (sOff { wRing with cqBase := 0x2001 })).ring 0).cqBase % 4096 ≠ 0 := by decide +kernel
theorem witness_doorbellErrors : sqSize ((doorbellWake (touchReg (sRing 0 id) 0 (doorbellKey 0 0))).ring 0)
    < (65 + 2 ^ 32 - ((doorbellWake (touchReg (sRing 0 id) 0 (doorbellKey 0 0))).ring 0).sqHead) % 2 ^ 32
  ∧ (((doorbellWake (touchReg sCq 0 (doorbellKey 0 4))).ring 0).cqTail + 2 ^ 32
      - ((doorbellWake (touchReg sCq 0 (doorbellKey 0 4))).ring 0).cqHead) % 2 ^ 32
    < (65 + 2 ^ 32 - ((doorbellWake (touchReg sCq 0 (doorbellKey 0 4))).ring 0).cqHead) % 2 ^ 32
  ∧ ((doorbellWake (touchReg (sOff wRing) 0 (doorbellKey 0 0))).ring 0).enabled = false := by decide +kernel
theorem witness_passHolder : (1 = 1 ∧ (⟨1, false, 0, 0⟩ : Master) = ⟨1, false, 0, 0⟩)
  ∧ (⟨1, false, 0, 0⟩ : Master) = (serves (mWord 0x8B 1 []) up).grm.holder
  ∧ (⟨3, true, 0, 31⟩ : Master) ≠ (serves (mWord 0x8B (7 + 8 * 31) []) up).grm.holder
  ∧ (mWord 0x8B (7 + 8 * 31) []).arg 0 4 = 7 + 8 * 31 := by decide +kernel
def wPkt : FPkt := ⟨4095, 4095, 255, 3, 255, 255, 65535, 255, 63, 1, 2 ^ 32 - 1, 2 ^ 64 - 1, 2 ^ 32 - 1, false, List.replicate 16 255#8⟩
theorem witness_packet : wPkt.dest < 4096 ∧ wPkt.src < 4096 ∧ wPkt.type < 256 ∧ wPkt.vc < 4 ∧ wPkt.hops < 256 ∧ wPkt.level < 256
  ∧ wPkt.job < 65536 ∧ wPkt.gen < 256 ∧ wPkt.ctx < 64 ∧ wPkt.len < 512 ∧ wPkt.tag < 2 ^ 32 ∧ wPkt.addr < 2 ^ 64
  ∧ wPkt.aux < 2 ^ 32 ∧ wPkt.rsv = false ∧ wPkt.pay.length = 16 * wPkt.len := by decide +kernel
theorem witness_ruleTask : runningTask (sTask (wTask 0 0 []) 0x10) = some (wTask 0 0 [])
  ∧ ∃ t, exec .vadd (sTask (wTask 0 0 []) 0x10) = .next t := ⟨by decide +kernel, _, rfl⟩
theorem witness_portStep : ∃ t, exec (.replayTimeout 0) up = .next t := ⟨_, rfl⟩
theorem witness_control : ∃ t, exec (.nop 0) (at0 (packet 0 64 []) up) = .next t := ⟨_, rfl⟩

/-! The worked examples of the spec. -/
/-- The examples of scale derivation (chapter 2): 0.75 into ALIGNED32; 37.5 and then 120.0 into E4M3 with margin 1. -/
theorem test_deriveExp : deriveExp 0x3F400000 6 0 0 = 31 ∧ deriveExp 0x42160000 3 1 0 = 2 ∧ deriveExp 0x42F00000 3 1 0 = 0 := by
  decide +kernel
/-- The example of narrowing (chapter 2): 3.3 with exponent 2 into E4M3, and 480. -/
theorem test_narrow : (narrowTo 3 (.sto 53664) (fscale (ofF32 0x40533333) 2)).out = 0x56
  ∧ (narrowTo 3 (.sto 52428) (fscale (ofF32 0x40533333) 2)).out = 0x55
  ∧ (narrowTo 3 (.sto 52429) (fscale (ofF32 0x40533333) 2)).out = 0x56
  ∧ (narrowTo 3 .rne (fscale (ofF32 0x40533333) 2)).out = 0x55
  ∧ narrowTo 3 .rne (.ofNat 480) = ⟨0x7E, true, false⟩ := by decide +kernel
/-- The example of R342: 0.8125 less 3 × 2^−14 into BF16. -/
theorem test_weightRound : (narrowTo 1 (.sto 3072) (.fin false 13309 (-14))).out = 0x3F50
  ∧ (narrowTo 1 (.sto 3071) (.fin false 13309 (-14))).out = 0x3F4F
  ∧ (narrowTo 1 .rne (.fin false 13309 (-14))).out = 0x3F50 := by decide +kernel
/-- The example of R292 to R297: residues of A, of B, of their sum, and of the damaged sum. -/
theorem test_residue : residue [1048576, -3, 70000] = 13671 ∧ residue [2000000, 5, -65521] = 34380
  ∧ residue [3048576, 2, 4479] = 48051 ∧ residue [3048576, -1048574, 4479] = 47571 := by decide +kernel
/-- The example of R263: byte 0x4_3C00 of frame 0x123 of group 2 of HBM_5. -/
theorem test_pseudoChannel : hbmGroup 0x5424643C00 = 8 * 5 + 2 ∧ hbmPc 0x5424643C00 = 22 := by decide +kernel
/-- The example of R259: the DPA of a page-table entry, in a context whose paddock has the group. -/
theorem test_translation : checkPte ((up.updCtx 9 fun _ => (up.ctx 0)).updPdk 0 fun p => { p with res := { p.res with
    groups := 2 ^ 64 - 1 } }) 9 0x5424600003 0x08043C00 false = (0, 0x5424643C00) := by decide +kernel
/-- The example of chapter 4 and of R493: cell (70, 130) of a handle 10 tiles wide, and the Dazal path of its core's pad. -/
theorem test_cell : cellBank 70 130 = 8 ∧ cellWord 0 10 70 130 = 702
  ∧ dazalCpath [0x00#8, 0x00#8, 0x04#8, 0x05#8, 0x04#8, 0x00#8, 0x08#8, 0x00#8, 0xBE#8, 0x02#8, 0x00#8, 0x00#8] = some 0x0854 := by
  decide +kernel
/-- The example of R3: a production part at stepping A1, read from register `GRM_PART`. -/
theorem test_part : leNat ((List.range 4).map fun i => viewByte up (fnBlk 0 + 4 + i)) = 0x4B400110 := by decide +kernel
/-- The identification code of R599. -/
theorem test_idcode : (after .idcode State.reset).boot.dr = 0x14B4074B := by decide +kernel
end Sys2Proof.Tests
end

section
/-! PROOFS. R11: writes to the registers of the rein holder. First what `writeReg` does with such a register, for either
master; then the rows that write one as a host, and WRITE by management. -/
namespace Sys2Proof.Machine

open Sys2Proof

/-! A write of a whole register. -/

/-- An OW register is written where the register's die is on and the master holds the rein (R10, R11). -/
theorem writeReg_ow (s : State) (rein host : Bool) {key start : Nat} {r : RegRow} (v : Nat) (hlow : 0x10000 ≤ key % 2 ^ 26)
    (hwin : ¬(groomBlk + 0x10000 ≤ key ∧ key < groomBlk + 0x20000)) (hreg : regAt key = some (r, start))
    (hacc : r.acc = .ow) : writeReg s rein host key v =
      if dieOff s (regDie (key % 2 ^ 26)) then s else if rein then kickEngines (writeOwned s r key v) else s := by
  have hfn : ¬key % 2 ^ 26 < 0x10000 := by omega
  simp [writeReg, hfn, hwin, hreg, hacc, -Nat.reducePow]

/-- `PCI_DBG_CTL`, which lies in the block of function 0, is written under the same two conditions (R443). -/
theorem writeReg_dbgCtl (s : State) (rein host : Bool) (v : Nat) : writeReg s rein host dbgCtl v =
    if dieOff s (regDie dbgCtl) then s else if rein then s.setReg dbgCtl (v % 16) else s := by
  have hkey : dbgCtl = 0x5000 := rfl
  have hfn : writeFn s 0 rein host 0x5000 v = if rein then s.setReg dbgCtl (v % 16) else s := by simp [writeFn]
  simp [writeReg, hkey, hfn]

/-! Host rows that write one OW register: each is a conditional update, on a unit that the device may lack. -/

/-- A row whose condition fails answers the state as its access left it. -/
theorem next_when_not {s : State} {f : State → State} {c : Bool} (hc : c = false) :
    (.next (s.when c f) : Out) = .next s :=
  congrArg _ (State.when_not f hc)

theorem withUnit_when_not {s : State} {f : State → State} {ok c : Bool} (hok : ok = true) (hc : c = false) :
    withUnit ok (s.when c f) = .next s := by
  rw [hok, withUnit_true, next_when_not hc]

/-! WRITE by management. -/

/-- A WRITE in order that covers an OW register is refused before any register is written (R11, R488, R496). -/
theorem write_owned_without_rein {s : State} {m : Msg} {c o n : Nat} {blk : List (Nat × Nat × Nat)}
    (hm : Serving 0x82 m s) (hargs : regArgs m 64 = some (c, blk, o, n)) (hlen : n ≤ (slice m.args 8 n).length)
    (hrein : holdsRein s s.grm.tag = false) (hown : (coveredRegs blk o n).any (fun r => ownedReg r.1) = true) :
    exec .write s = .next (reply s m stNotOwner []) := by
  change execWrite s = _
  have hshort : ¬(slice m.args 8 n).length < n := by omega
  rw [execWrite, onMsg_serving _ hm, hargs]
  simp [hshort, hrein, hown]

/-- Settles O52: a write of a whole register and a management WRITE each by its own rule, and every host row because its
condition asks for the rein. -/
theorem nonHolderWritesDropped : Obligations.NonHolderWritesDropped := by
  unfold Obligations.NonHolderWritesDropped
  intro s
  refine ⟨?_, ?_, ?_, ?_⟩
  · intro host key v r start hlow hwin hreg hacc
    simp [writeReg_ow s false host v hlow hwin hreg hacc]
  · intro host v
    simp [writeReg_dbgCtl]
  · intro m c blk o n hm hargs hlen hrein hown
    exact write_owned_without_rein hm hargs hlen hrein hown
  · intro fn v h
    have hbit : (owWrite s fn && bit v.toNat 0) = false := by simp [h]
    have hroute : (owWrite s fn && linkRuns s 0) = false := by simp [h]
    have hcheck : (owWrite s fn && linkRuns s 0 && bit v.toNat 0) = false := by simp [h]
    have hclear (a : Nat) : (owWrite s fn && (a == accBlk + 0x8 || a == accBlk + 0x10)) = false := by simp [h]
    have hlink (p : Nat) : (linkRuns s p && owWrite s fn) = false := by simp [h]
    have hretrain (p : Nat) : (linkRuns s p && owWrite s fn && bit v.toNat 1) = false := by simp [h]
    refine ⟨next_when_not hcheck, next_when_not hroute, next_when_not hroute, next_when_not h, next_when_not hbit,
      fun a => next_when_not (hclear a), fun p hp => ?_, fun u hu => ?_⟩
    · have hunit : decide (p < 24) = true := decide_eq_true hp
      exact ⟨withUnit_when_not hunit (hretrain p), withUnit_when_not hunit (hlink p)⟩
    · have hunit : decide (u < 56) = true := decide_eq_true hu
      exact ⟨withUnit_when_not hunit hbit, withUnit_when_not hunit h⟩

end Sys2Proof.Machine
end

section
/-! PROOFS. R375: SET_ID. First the refusal of a management command by the rein; then the one condition on which SET_ID is
carried out or refused. -/
namespace Sys2Proof.Machine

open Sys2Proof

/-- A command marked "Rein" is answered `NOT_OWNER` to a master that does not hold the rein (R494). -/
theorem onMsg_without_rein {op : Nat} {m : Msg} {s : State} (f : Msg → State → State) (hon : aon s = true)
    (hst : s.grm.st = 1) (hcur : s.grm.cur = some m) (hop : m.op = op) (hserved : msgServed s m = true)
    (hmark : needsRein op = true) (hrein : holdsRein s s.grm.tag = false) :
    onMsg op s f = .next (reply s m stNotOwner []) := by
  simp [onMsg, State.when, hon, hst, hcur, hop, hserved, hmark, hrein]

/-- SET_ID is the row of `execSetId`. -/
theorem exec_setId (s : State) : exec .setId s = execSetId s := rfl

/-- SET_ID is refused for a payload without an ID, an ID past 4,095, an ID already valid, or a seat at odds with the PCIe
link, and for nothing else (R375; the short payload is assumption log 31). -/
theorem exec_setId_serving {s : State} {m : Msg} (hm : Serving 0x8D m s) : exec .setId s =
    .next (if m.args.length < 4 ∨ 4096 ≤ m.arg 0 4 ∨ s.boot.devIdValid = true ∨
        ¬(m.arg 0 4 % 64 = 0 ↔ s.host.linkUp = true) then reply s m stBadParam []
      else reply (reparent (s.onBoot fun b => { b with devId := m.arg 0 4, devIdValid := true })) m stOk []) := by
  have hseat : ((m.arg 0 4 % 64 == 0) != s.host.linkUp) = true ↔ ¬(m.arg 0 4 % 64 = 0 ↔ s.host.linkUp = true) := by
    rw [bne_iff_ne, ne_eq, Bool.eq_iff_iff, beq_iff_eq]
  rw [exec_setId, execSetId, onMsg_serving _ hm]
  simp only [Bool.or_eq_true, decide_eq_true_eq, hseat, or_assoc]

/-- A package reset takes the device ID back (R375). -/
@[simp] theorem packageReset_devIdValid (s : State) (powered perst : Bool) (x : Straps) :
    (packageReset s powered perst x).boot.devIdValid = false := rfl

/-- Settles O53: the four causes of refusal are the negation of the four conditions of acceptance. -/
theorem setIdAcceptedOnce : Obligations.SetIdAcceptedOnce := by
  unfold Obligations.SetIdAcceptedOnce
  refine ⟨?_, ?_, packageReset_devIdValid⟩
  · rintro s m v hm rfl
    rw [exec_setId_serving hm]
    refine ⟨fun hlen hid hfresh hseat => congrArg _ (if_neg ?_), fun hbad => congrArg _ (if_pos hbad)⟩
    simp [hlen, hid, hfresh, hseat]
  · intro s m hon hst hcur hop hserved hrein
    rw [exec_setId, execSetId]
    exact onMsg_without_rein _ hon hst hcur hop hserved rfl hrein

end Sys2Proof.Machine
end

section
/-! PROOFS. R405: writing 1 to ENABLE. First what the write answers for a given cause of refusal; then the cause, in the order
5, 3, 2. -/
namespace Sys2Proof.Machine

open Sys2Proof

/-! The touch of a register that every host access makes: it leaves the host interface and the rings as they were (R15, R16). -/

@[simp] theorem touchReg_hostUp (s : State) (fn a : Nat) : hostUp (touchReg s fn a) = hostUp s := rfl
@[simp] theorem touchReg_ringOf (s : State) (fn a f n : Nat) : ringOf (touchReg s fn a) f n = ringOf s f n := rfl
@[simp] theorem touchReg_ring (s : State) (fn a q : Nat) : (touchReg s fn a).ring q = s.ring q := rfl

/-! Writing 1 to ENABLE. -/

/-- RING_ENABLE on a function's own ring writes that ring's control register. -/
theorem exec_ringEnable {s : State} {fn n q v : Nat} (hup : hostUp s = true) (hq : ringOf s fn n = some q)
    (hbit : bit v 0 = true) :
    exec (.ringEnable fn n v) s = .next (ringCtlWrite (touchReg s fn (ringCtlReg fn n)) q fn v) := by
  change execRingEnable fn n v s = _
  simp [execRingEnable, State.when_of, hup, hq, hbit]

/-- A write of 1 to ENABLE of a disabled ring, once the other control fields are written, keeps the cause of a refusal or
enables the ring (R405, R406; a refusal signals no vector by assumption log 90). -/
theorem ringCtlWrite_enable {s w : State} {q f v c : Nat} (hoff : (s.ring q).enabled = false) (hbit : bit v 0 = true)
    (hw : w = s.updRing q fun r => { r with ctl := ctlFields r f v }) (hc : enableCause w f (w.ring q) = c) :
    ringCtlWrite s q f v = if c ≠ 0 then w.updRing q fun r => { r with err := true, errCause := c }
      else w.updRing q fun r => { r with
        enabled := true
        draining := false
        err := false
        errCause := 0
        sqTail := 0
        sqHead := 0
        cqTail := 0
        cqHead := 0 } := by
  subst hw hc
  simp only [ringCtlWrite, hbit, hoff, if_true, Bool.false_eq_true, if_false]

/-! The cause of a refusal. -/

section
variable {s : State} {f : Nat} {r : Ring}

theorem enableCause_of_unaligned (h : ¬(r.sqBase % 4096 = 0 ∧ r.cqBase % 4096 = 0)) : enableCause s f r = 5 := by
  simp only [enableCause, Bool.or_eq_true, decide_eq_true_eq]
  exact if_pos (by omega)

theorem enableCause_of_missized (ha : r.sqBase % 4096 = 0 ∧ r.cqBase % 4096 = 0)
    (h : ¬(6 ≤ bits r.ctl 8 5 ∧ bits r.ctl 8 5 ≤ 16 ∧ 6 ≤ bits r.ctl 16 5 ∧ bits r.ctl 16 5 ≤ 16)) :
    enableCause s f r = 3 := by
  simp only [enableCause, Bool.or_eq_true, decide_eq_true_eq]
  rw [if_neg (by omega), if_pos (by omega)]

/-- For a ring with its bases aligned and its sizes in range, only the windows remain. -/
theorem enableCause_of_sized (ha : r.sqBase % 4096 = 0 ∧ r.cqBase % 4096 = 0)
    (hs : 6 ≤ bits r.ctl 8 5 ∧ bits r.ctl 8 5 ≤ 16 ∧ 6 ≤ bits r.ctl 16 5 ∧ bits r.ctl 16 5 ≤ 16) :
    enableCause s f r = if hostOk s f r.sqBase (64 * 2 ^ bits r.ctl 8 5) false = true
      ∧ hostOk s f r.cqBase (32 * 2 ^ bits r.ctl 16 5) true = true then 0 else 2 := by
  simp only [enableCause, ringInWindow, Bool.or_eq_true, decide_eq_true_eq]
  rw [if_neg (by omega), if_neg (by omega)]
  simp only [Bool.not_eq_true', ← Bool.not_eq_true, ← not_and_or, ite_not]

end

/-- Settles O54: each clause is the answer of the write for the cause that the clause's conditions give. -/
theorem ringEnableChecked : Obligations.RingEnableChecked := by
  unfold Obligations.RingEnableChecked
  rintro s fn n q v w sq cq aligned sized inside hup hq hoff hbit hw rfl rfl haligned hsized hinside
  rw [haligned, hsized, hinside, exec_ringEnable hup hq hbit]
  rw [← touchReg_ring s fn (ringCtlReg fn n)] at hoff
  have answer {c : Nat} := ringCtlWrite_enable (c := c) hoff hbit hw
  refine ⟨fun ha => ?_, fun ha hs => ?_, fun ha hs hi => ?_, fun ha hs hi => ?_⟩
  · rw [answer (enableCause_of_unaligned ha)]; rfl
  · rw [answer (enableCause_of_missized ha hs)]; rfl
  · rw [answer ((enableCause_of_sized ha hs).trans (if_neg hi))]; rfl
  · rw [answer ((enableCause_of_sized ha hs).trans (if_pos hi))]; rfl

end Sys2Proof.Machine
end

section
/-! PROOFS. R407, R408: the doorbells. First what each doorbell answers, and what a fetch does with a packet whose slots the
tail does not cover; then the clauses, which are the branches of these answers. -/
namespace Sys2Proof.Machine

open Sys2Proof

section
variable {s w : State} {fn n q v : Nat}

/-- SQ_TAIL on a function's own ring. -/
theorem exec_sqTail (hup : hostUp s = true) (hq : ringOf s fn n = some q) (hv : v < 2 ^ 32)
    (hw : w = doorbellWake (touchReg s fn (doorbellKey n 0))) :
    exec (.sqTail fn n v) s = .next (if ringFetching (w.ring q) = false then w
      else if sqSize (w.ring q) < (v + 2 ^ 32 - (w.ring q).sqHead) % 2 ^ 32 then ringError w q 1
      else queueRing q (w.updRing q fun r => { r with sqTail := v })) := by
  subst hw
  change execSqTail fn n v s = _
  simp [execSqTail, State.when_of, hup, hq, Nat.mod_eq_of_lt hv, -Nat.reducePow]

/-- CQ_HEAD on a function's own ring. -/
theorem exec_cqHead (hup : hostUp s = true) (hq : ringOf s fn n = some q) (hv : v < 2 ^ 32)
    (hw : w = doorbellWake (touchReg s fn (doorbellKey n 4))) :
    exec (.cqHead fn n v) s = .next (if (w.ring q).enabled = false ∧ (w.ring q).draining = false then w
      else if ((w.ring q).cqTail + 2 ^ 32 - (w.ring q).cqHead) % 2 ^ 32 < (v + 2 ^ 32 - (w.ring q).cqHead) % 2 ^ 32 then
        ringError w q 4
      else w.updRing q fun r => { r with cqHead := v }) := by
  subst hw
  change execCqHead fn n v s = _
  simp [execCqHead, State.when_of, hup, hq, Nat.mod_eq_of_lt hv, -Nat.reducePow]

/-- A ring fetches while it is enabled and neither drains nor has an error (R407). -/
theorem ringFetching_eq_false {r : Ring} :
    ringFetching r = false ↔ r.enabled = false ∨ r.draining = true ∨ r.err = true := by
  simp only [ringFetching, Bool.and_eq_false_iff, Bool.not_eq_false', or_assoc]

/-- A packet that the slots up to the tail do not wholly hold stays in its ring, whether or not its turn has come (R33, R407). -/
theorem exec_packetFetch_uncovered (hq : q < 128) (hslot : slotsOk s (ringFn s q) (s.ring q) (s.ring q).sqHead 1 = true)
    (hlen : ringAvail s q < 1 + headPlen s q) : exec (.packetFetch q) s = .next s := by
  change execPacketFetch q s = _
  rw [execPacketFetch, decide_eq_true hq, withUnit_true, State.when]
  split
  · simp [hslot, hlen]
  · rfl

end

/-- Settles O55: each clause on a doorbell is one branch of that doorbell's answer. -/
theorem doorbellsMoveRings : Obligations.DoorbellsMoveRings := by
  unfold Obligations.DoorbellsMoveRings
  intro s fn n q v hup hq hv
  refine ⟨fun w hw => ?_, fun w hw => ?_, ?_⟩
  · rw [exec_sqTail hup hq hv hw]
    refine ⟨fun hen hdr herr => ?_, fun hstop => by rw [if_pos (ringFetching_eq_false.2 hstop)]⟩
    have hfetch : ¬ringFetching (w.ring q) = false := by simp [ringFetching, hen, hdr, herr]
    rw [if_neg hfetch]
    exact ⟨fun hfits => by rw [if_neg hfits.not_gt], fun hpast => by rw [if_pos hpast]⟩
  · rw [exec_cqHead hup hq hv hw]
    refine ⟨fun htakes => ?_, fun hen hdr => by rw [if_pos ⟨hen, hdr⟩]⟩
    have hopen : ¬((w.ring q).enabled = false ∧ (w.ring q).draining = false) := by
      rintro ⟨hen, hdr⟩
      simp [hen, hdr] at htakes
    rw [if_neg hopen]
    exact ⟨fun hfits => by rw [if_neg hfits.not_gt], fun hpast => by rw [if_pos hpast]⟩
  · rintro plen hlt - hslot rfl hlen
    exact exec_packetFetch_uncovered hlt hslot hlen

end Sys2Proof.Machine
end

section
/-! PROOFS. R502: PASS_REIN. First the master that each kind of target names; then the change of the rein's state; then the
answer of the command, which is the refusal or that change. -/
namespace Sys2Proof.Machine

open Sys2Proof

/-! The target. -/

theorem passTarget_pf : passTarget 1 = some ⟨1, false, 0, 0⟩ := rfl
theorem passTarget_bmc : passTarget 2 = some ⟨2, false, 0, 0⟩ := rfl

/-- Class 3 without `DIRECTED` names the master of a device ID. -/
theorem passTarget_device {d : Nat} (hd : d < 4096) : passTarget (3 + 8 * d) = some ⟨3, false, d, 0⟩ := by
  have hcls : bits (3 + 8 * d) 0 2 = 3 := by simp only [bits]; omega
  have hdir : bit (3 + 8 * d) 2 = false := by simp only [bit, beq_eq_false_iff_ne]; omega
  have hid : bits (3 + 8 * d) 3 12 = d := by simp only [bits]; omega
  have hrsv : (3 + 8 * d) / 2 ^ 15 % 2 ^ 17 = 0 := by omega
  simp [passTarget, hcls, hdir, hid, hrsv, -Nat.reducePow]

/-- Class 3 with `DIRECTED` names the master behind an arrival port. -/
theorem passTarget_port {p : Nat} (hp : p < 32) : passTarget (7 + 8 * p) = some ⟨3, true, 0, p⟩ := by
  have hcls : bits (7 + 8 * p) 0 2 = 3 := by simp only [bits]; omega
  have hdir : bit (7 + 8 * p) 2 = true := by simp only [bit, beq_iff_eq]; omega
  have hport : bits (7 + 8 * p) 3 5 = p := by simp only [bits]; omega
  have hhigh : bits (7 + 8 * p) 8 7 = 0 := by simp only [bits]; omega
  have hrsv : (7 + 8 * p) / 2 ^ 15 % 2 ^ 17 = 0 := by omega
  simp [passTarget, hcls, hdir, hport, hhigh, hrsv, -Nat.reducePow]

/-- No target names the master of class 0, which stands for an open rein. -/
theorem passTarget_cls_ne_zero {v : Nat} {new : Master} (h : passTarget v = some new) : new.cls ≠ 0 := by
  simp only [passTarget] at h
  split_ifs at h <;> cases h <;> exact Nat.succ_ne_zero _

/-! The rein after a pass. -/

section
variable (s : State) (new : Master) (key : Nat) (eng : Bool)

@[simp] theorem setHolder_holder : (setHolder s new key eng).grm.holder = new := rfl
@[simp] theorem renewLease_holder : (renewLease s).grm.holder = s.grm.holder := rfl

/-- A fresh lease ends `LEASE` strides of `GRM_REIN_LEASE` after the present one (R501). -/
@[simp] theorem renewLease_expiry :
    (renewLease s).grm.expiry = s.nowStride + s.fld (groomBlk + 0x10) 0 16 := rfl

@[simp] theorem setHolder_nowStride : (setHolder s new key eng).nowStride = s.nowStride := rfl
@[simp] theorem setHolder_fld (a lo w : Nat) : (setHolder s new key eng).fld a lo w = s.fld a lo w := rfl

/-- A change of holder with a fresh lease changes the Groom's state alone. -/
theorem renewLease_setHolder_frame :
    renewLease (setHolder s new key eng) = { s with grm := (renewLease (setHolder s new key eng)).grm } := rfl

end

theorem holdsRein_iff {s : State} {m : Master} : holdsRein s m = true ↔ s.grm.holder.cls ≠ 0 ∧ s.grm.holder = m := by
  simp [holdsRein]

/-! The command. -/

/-- A PASS_REIN with a good target is refused if that is the holder, and passes the rein otherwise. -/
theorem exec_passRein_serving {s : State} {m : Msg} {new : Master} (hm : Serving 0x8B m s) (hlen : 4 ≤ m.args.length)
    (hnew : passTarget (m.arg 0 4) = some new) : exec .passRein s =
      .next (if new = s.grm.holder then reply s m stBadParam []
        else reply (renewLease (setHolder s new 0 false)) m stOk []) := by
  change execPassRein s = _
  rw [execPassRein, onMsg_serving _ hm, if_neg hlen.not_gt, hnew]

/-- Settles O56: each kind of target names its master, and the command's answer is the refusal or the pass. -/
theorem passReinMovesRein : Obligations.PassReinMovesRein := by
  unfold Obligations.PassReinMovesRein
  rintro s m v new hm hlen rfl hkind
  have hnew : passTarget (m.arg 0 4) = some new := by
    obtain ⟨hv, rfl⟩ | ⟨hv, rfl⟩ | ⟨d, hd, hv, rfl⟩ | ⟨p, hp, hv, rfl⟩ := hkind <;> rw [hv]
    · exact passTarget_pf
    · exact passTarget_bmc
    · exact passTarget_device hd
    · exact passTarget_port hp
  rw [exec_passRein_serving hm hlen hnew]
  refine ⟨fun hsame => by rw [if_pos hsame], fun hother => ?_⟩
  refine ⟨renewLease (setHolder s new 0 false), by rw [if_neg hother], renewLease_setHolder_frame s new 0 false,
    by simp, by simp, ?_, ?_⟩
  · exact holdsRein_iff.2 ⟨passTarget_cls_ne_zero hnew, rfl⟩
  · exact Bool.eq_false_iff.2 fun hold => hother (holdsRein_iff.1 hold).2

end Sys2Proof.Machine
end

section
/-! PROOFS. What a step is, and that the units which a command names decide whether it is carried out. -/
namespace Sys2Proof.Machine

open Sys2Proof

/-- Settles O41: both clauses are the two branches of `step`. -/
theorem stepRunsFrontCommand : Obligations.StepRunsFrontCommand := by
  unfold Obligations.StepRunsFrontCommand
  exact ⟨fun _ _ => rfl, fun s h => by rw [step, h]⟩

/-- Settles O45: the fuse values are the reset state's own, and its memories and queue are written out. -/
theorem fusesHeldAfterReset : Obligations.FusesHeldAfterReset := by
  unfold Obligations.FusesHeldAfterReset
  exact ⟨⟨rfl, le_rfl⟩, reset_memWf, rfl, rfl⟩

/-- A packet that may come on three channels is looked for at a port that must exist. -/
theorem onRx3_eq_withUnit (type p : Nat) (s : State) (f : FPkt → State → State) :
    ∃ t, onRx3 type p s f = withUnit (portOk p) t := by
  unfold onRx3
  split <;> exact ⟨_, rfl⟩

/-- The three kinds of gated unit have the ranges that well-formedness gives them. -/
theorem execGateAbandon_eq_withUnit (kind unit : Nat) (s : State) :
    ∃ t, execGateAbandon kind unit s = withUnit (Instr.gateAbandon kind unit).wf t := by
  rcases kind with _ | _ | k
  · exact ⟨_, congrArg (withUnit · _) (by simp [Instr.wf])⟩
  · exact ⟨_, congrArg (withUnit · _) (by simp [Instr.wf])⟩
  · exact ⟨_, congrArg (withUnit · _) (by simp [Instr.wf, Bool.beq_eq_decide_eq])⟩

/-- Every command is the step of a unit, which exists where the command is well-formed. -/
theorem exec_eq_withUnit (c : Instr) (s : State) : ∃ t, exec c s = withUnit c.wf t := by
  cases c
  case orderMark p => exact onRx3_eq_withUnit _ p s _
  case drain p => exact onRx3_eq_withUnit _ p s _
  case gateAbandon kind unit => exact execGateAbandon_eq_withUnit kind unit s
  all_goals exact ⟨_, rfl⟩

/-- Settles O42: what a unit's step answers is decided by whether the unit exists. -/
theorem wellFormedCommandsAnswer : Obligations.WellFormedCommandsAnswer := by
  unfold Obligations.WellFormedCommandsAnswer
  intro c s
  obtain ⟨t, ht⟩ := exec_eq_withUnit c s
  rw [ht]
  exact ⟨fun h => ⟨t, by rw [h, withUnit_true]⟩, fun h => by rw [h, withUnit_false]⟩

end Sys2Proof.Machine
end

section
/-! PROOFS. R8, R368: little-endian fields, and the bytes of a packet. -/
namespace Sys2Proof.Machine

open Sys2Proof

/-! Little-endian bytes. -/

@[simp] theorem length_toLE (n v : Nat) : (toLE n v).length = n := by
  induction n generalizing v with
  | zero => rfl
  | succ n ih => simp [toLE, ih]

theorem leNat_toLE (n v : Nat) : leNat (toLE n v) = v % 2 ^ (8 * n) := by
  induction n generalizing v with
  | zero => simp [toLE, leNat, Nat.mod_one]
  | succ n ih =>
    have hpow : 2 ^ (8 * (n + 1)) = 256 * 2 ^ (8 * n) := by ring
    rw [toLE, leNat, ih, hpow, Nat.mod_mul, BitVec.toNat_ofNat]

theorem getElem?_toLE {n i : Nat} (v : Nat) (h : i < n) :
    (toLE n v)[i]? = some (BitVec.ofNat 8 (v / 2 ^ (8 * i))) := by
  induction n generalizing v i with
  | zero => omega
  | succ n ih =>
    cases i with
    | zero => simp [toLE]
    | succ i =>
      have hpow : 2 ^ (8 * (i + 1)) = 256 * 2 ^ (8 * i) := by ring
      rw [toLE, List.getElem?_cons_succ, ih _ (by omega), Nat.div_div_eq_div_mul, hpow]

theorem leNat_lt (l : List Byte) : leNat l < 2 ^ (8 * l.length) := by
  induction l with
  | nil => simp [leNat]
  | cons b l ih =>
    have hpow : 2 ^ (8 * (l.length + 1)) = 256 * 2 ^ (8 * l.length) := by ring
    have := b.isLt
    rw [leNat, List.length_cons, hpow]
    omega

theorem toLE_leNat (l : List Byte) : toLE l.length (leNat l) = l := by
  induction l with
  | nil => rfl
  | cons b l ih =>
    have hb := b.isLt
    have hlow : BitVec.ofNat 8 (b.toNat + 256 * leNat l) = b := by
      apply BitVec.eq_of_toNat_eq
      rw [BitVec.toNat_ofNat]
      omega
    have hhigh : (b.toNat + 256 * leNat l) / 256 = leNat l := by omega
    rw [List.length_cons, leNat, toLE, hlow, hhigh, ih]

/-- Settles O48: the two directions of the layout, with the place of each byte. -/
theorem littleEndianRoundTrip : Obligations.LittleEndianRoundTrip := by
  unfold Obligations.LittleEndianRoundTrip
  exact ⟨fun n v => ⟨leNat_toLE n v, length_toLE n v, fun _ h => getElem?_toLE v h⟩,
    fun l => ⟨toLE_leNat l, leNat_lt l⟩⟩

/-! Fields of a layout: a field is read past those before it, and not past its own end. -/

theorem fieldLE_append_left {a : List Byte} (b : List Byte) {off len : Nat} (h : off + len ≤ a.length) :
    fieldLE (a ++ b) off len = fieldLE a off len := by
  rw [fieldLE, fieldLE, slice, slice, List.drop_append_of_le_length (by omega),
    List.take_append_of_le_length (by rw [List.length_drop]; omega)]

theorem fieldLE_append_right (a b : List Byte) {off : Nat} (len : Nat) (h : a.length ≤ off) :
    fieldLE (a ++ b) off len = fieldLE b (off - a.length) len := by
  rw [fieldLE, fieldLE, slice, slice, List.drop_append, List.drop_eq_nil_of_le h, List.nil_append]

/-- The first field of a layout. -/
theorem fieldLE_toLE_append (n v : Nat) (rest : List Byte) : fieldLE (toLE n v ++ rest) 0 n = v % 2 ^ (8 * n) := by
  rw [fieldLE_append_left rest (by simp), fieldLE, slice, List.drop_zero,
    List.take_of_length_le (by rw [length_toLE]), leNat_toLE]

/-- A field past the first of a layout. -/
theorem fieldLE_past_toLE {n off : Nat} (v len : Nat) (rest : List Byte) (h : n ≤ off) :
    fieldLE (toLE n v ++ rest) off len = fieldLE rest (off - n) len := by
  rw [fieldLE_append_right _ _ _ (by simpa using h), length_toLE]

/-! Packets. -/

theorem padTo_of_length {l : List Byte} {n : Nat} (h : l.length = n) : padTo l n = l := by
  simp [padTo, ← h]

/-- The header of a packet: its fields one after the other (R368). -/
def packetHeader (k : FPkt) (rest : List Byte) : List Byte :=
  toLE 2 k.dest ++ (toLE 2 k.src ++ (toLE 1 k.type ++ (toLE 1 k.vc ++ (toLE 1 k.hops ++ (toLE 1 k.level
    ++ (toLE 2 k.job ++ (toLE 1 k.gen ++ (toLE 1 k.ctx ++ (toLE 2 k.len ++ (toLE 2 0
    ++ (toLE 4 k.tag ++ (toLE 8 k.addr ++ (toLE 4 k.aux ++ rest)))))))))))))

theorem encodePkt_eq_header {k : FPkt} (h : k.pay.length = 16 * k.len) : encodePkt k = packetHeader k k.pay := by
  simp only [encodePkt, packetHeader, padTo_of_length h, List.append_assoc]

theorem length_packetHeader (k : FPkt) (rest : List Byte) : (packetHeader k rest).length = 32 + rest.length := by
  simp only [packetHeader, List.length_append, length_toLE]
  omega

theorem drop_packetHeader (k : FPkt) (rest : List Byte) : (packetHeader k rest).drop 32 = rest := by
  simp [packetHeader, List.drop_append, List.drop_eq_nil_of_le]

/-- What each field of a header reads as. -/
theorem fieldLE_packetHeader (k : FPkt) (rest : List Byte) :
    fieldLE (packetHeader k rest) 0 2 = k.dest % 2 ^ 16 ∧ fieldLE (packetHeader k rest) 2 2 = k.src % 2 ^ 16
    ∧ fieldLE (packetHeader k rest) 4 1 = k.type % 2 ^ 8 ∧ fieldLE (packetHeader k rest) 5 1 = k.vc % 2 ^ 8
    ∧ fieldLE (packetHeader k rest) 6 1 = k.hops % 2 ^ 8 ∧ fieldLE (packetHeader k rest) 7 1 = k.level % 2 ^ 8
    ∧ fieldLE (packetHeader k rest) 8 2 = k.job % 2 ^ 16 ∧ fieldLE (packetHeader k rest) 10 1 = k.gen % 2 ^ 8
    ∧ fieldLE (packetHeader k rest) 11 1 = k.ctx % 2 ^ 8 ∧ fieldLE (packetHeader k rest) 12 2 = k.len % 2 ^ 16
    ∧ fieldLE (packetHeader k rest) 14 2 = 0 ∧ fieldLE (packetHeader k rest) 16 4 = k.tag % 2 ^ 32
    ∧ fieldLE (packetHeader k rest) 20 8 = k.addr % 2 ^ 64 ∧ fieldLE (packetHeader k rest) 28 4 = k.aux % 2 ^ 32 := by
  simp [packetHeader, fieldLE_past_toLE, fieldLE_toLE_append]

/-- Settles O57: each field is read at its place in the header, and the payload after it. -/
theorem packetBytesRoundTrip : Obligations.PacketBytesRoundTrip := by
  unfold Obligations.PacketBytesRoundTrip
  intro k hdest hsrc htype hvc hhops hlevel hjob hgen hctx hlen htag haddr haux hrsv hpay
  rw [encodePkt_eq_header hpay]
  refine ⟨?_, by rw [length_packetHeader, hpay, FPkt.size]⟩
  obtain ⟨e0, e2, e4, e5, e6, e7, e8, e10, e11, e12, e14, e16, e20, e28⟩ := fieldLE_packetHeader k k.pay
  have hslice : slice (packetHeader k k.pay) 32 (16 * k.len) = k.pay := by
    rw [slice, drop_packetHeader, List.take_of_length_le hpay.le]
  have hlen' : k.len % 2 ^ 16 % 512 = k.len := by omega
  rw [decodePkt, e0, e2, e4, e5, e6, e7, e8, e10, e11, e12, e14, e16, e20, e28, hlen', hslice]
  obtain ⟨dest, src, type, vc, hops, level, job, gen, ctx, len, tag, addr, aux, rsv, pay⟩ := k
  simp only [FPkt.mk.injEq] at *
  refine ⟨by omega, by omega, by omega, by omega, by omega, by omega, by omega, by omega, by omega, trivial, by omega,
    by omega, by omega, ?_, trivial⟩
  simp only [hrsv, Bool.or_eq_false_iff, bne_eq_false_iff_eq, and_true]
  omega

end Sys2Proof.Machine
end

section
/-! PROOFS. What a state holds that only few commands may change. -/
namespace Sys2Proof.Machine

open Sys2Proof

structure Held where
  pending : List Instr
  vendorHash : BitVec 384
  svnFloor : Nat
  holder : Master
  devIdValid : Bool
  devId : Nat
  trip : Bool

def State.held (s : State) : Held :=
  ⟨s.pending, s.grm.vendorHash, s.grm.svnFloor, s.grm.holder, s.boot.devIdValid, s.boot.devId, s.pwr.trip⟩

@[simp] theorem held_onRegs (f s) : (State.onRegs f s).held = s.held := rfl
@[simp] theorem held_onHost (f s) : (State.onHost f s).held = s.held := rfl
@[simp] theorem held_onCp (f s) : (State.onCp f s).held = s.held := rfl
@[simp] theorem held_onTim (f s) : (State.onTim f s).held = s.held := rfl
@[simp] theorem held_onSch (f s) : (State.onSch f s).held = s.held := rfl
@[simp] theorem held_onMem (f s) : (State.onMem f s).held = s.held := rfl
@[simp] theorem held_onMov (f s) : (State.onMov f s).held = s.held := rfl
@[simp] theorem held_onPad (f s) : (State.onPad f s).held = s.held := rfl
@[simp] theorem held_onCore (f s) : (State.onCore f s).held = s.held := rfl
@[simp] theorem held_onBlk (f s) : (State.onBlk f s).held = s.held := rfl
@[simp] theorem held_onRed (f s) : (State.onRed f s).held = s.held := rfl
@[simp] theorem held_onUpd (f s) : (State.onUpd f s).held = s.held := rfl
@[simp] theorem held_onFab (f s) : (State.onFab f s).held = s.held := rfl
@[simp] theorem held_onHlt (f s) : (State.onHlt f s).held = s.held := rfl

@[simp] theorem held_onGrm {f : Groom → Groom} (hash : ∀ g, (f g).vendorHash = g.vendorHash)
    (floor : ∀ g, (f g).svnFloor = g.svnFloor) (holder : ∀ g, (f g).holder = g.holder) (s) :
    (State.onGrm f s).held = s.held := by
  simp [State.held, hash, floor, holder]
@[simp] theorem held_onBoot {f : Boot → Boot} (valid : ∀ b, (f b).devIdValid = b.devIdValid)
    (id : ∀ b, (f b).devId = b.devId) (s) : (State.onBoot f s).held = s.held := by
  simp [State.held, valid, id]
@[simp] theorem held_onPwr {f : Power → Power} (trip : ∀ p, (f p).trip = p.trip) (s) :
    (State.onPwr f s).held = s.held := by
  simp [State.held, trip]
@[simp] theorem held_free (s : State) (n : Nat) : ({ s with free := n } : State).held = s.held := rfl

@[simp] theorem held_ite (c : Prop) [Decidable c] (s t : State) :
    (if c then s else t).held = if c then s.held else t.held := apply_ite _ _ _ _
@[simp] theorem held_fst_ite {α : Type} (c : Prop) [Decidable c] (s t : State × α) :
    (if c then s else t).1.held = if c then s.1.held else t.1.held := by split <;> rfl
@[simp] theorem held_foldl {α : Type} {f : State → α → State} (h : ∀ s a, (f s a).held = s.held) (l : List α)
    (s : State) : (l.foldl f s).held = s.held := by
  induction l generalizing s with
  | nil => rfl
  | cons a l ih => rw [List.foldl_cons, ih, h]
@[simp] theorem held_foldl_fst {α β : Type} {f : State × β → α → State × β} (h : ∀ x a, (f x a).1.held = x.1.held)
    (l : List α) (x : State × β) : (l.foldl f x).1.held = x.1.held := by
  induction l generalizing x with
  | nil => rfl
  | cons a l ih => rw [List.foldl_cons, ih, h]
@[simp] theorem held_when {f : State → State} (h : ∀ s, (f s).held = s.held) (c s) : (State.when c f s).held = s.held := by
  cases c <;> simp [State.when, h]

@[simp] theorem held_elim {α : Type} {f : α → State} {s : State} (h : ∀ a, (f a).held = s.held) (o : Option α) :
    (o.elim s f).held = s.held := by
  cases o with
  | none => rfl
  | some a => exact h a

@[simp] theorem held_popDue {f : State → State} (h : ∀ s, (f s).held = s.held) (s d) : (popDue s d f).held = s.held := by
  obtain ⟨_, -, e⟩ | e := popDue_cases d s f <;> simp [e, h, takenDue]

/-- What an optional next state is, where there is one. -/
def KeepsOpt (s : State) (o : Option State) : Prop := ∀ t ∈ o, t.held = s.held
@[simp] theorem keepsOpt_none (s) : KeepsOpt s none := by simp [KeepsOpt]
@[simp] theorem keepsOpt_some {s t} : KeepsOpt s (some t) ↔ t.held = s.held := by simp [KeepsOpt]
theorem KeepsOpt.held {s o t} (h : KeepsOpt s o) (ho : o = some t) : t.held = s.held := h t ho
theorem KeepsOpt.held_fst {α : Type} {s : State} {o : Option (State × α)} {r : State × α} (h : KeepsOpt s (o.map Prod.fst))
    (ho : o = some r) : r.1.held = s.held := h _ (by simp [ho])
@[simp] theorem keepsOpt_ite (c : Prop) [Decidable c] (s a b) :
    KeepsOpt s (if c then a else b) ↔ if c then KeepsOpt s a else KeepsOpt s b := by split <;> rfl
@[simp] theorem keepsOpt_map_ite {α : Type} (c : Prop) [Decidable c] (s) (a b : Option (State × α)) :
    KeepsOpt s ((if c then a else b).map Prod.fst) ↔
      if c then KeepsOpt s (a.map Prod.fst) else KeepsOpt s (b.map Prod.fst) := by split <;> rfl

@[simp] theorem keepsOpt_map {α : Type} {s : State} {f : α → State} (h : ∀ a, (f a).held = s.held) (o : Option α) :
    KeepsOpt s (o.map f) := by
  cases o <;> simp [h]
@[simp] theorem keepsOpt_bind {α : Type} {s : State} {f : α → Option State} (h : ∀ a, KeepsOpt s (f a)) (o : Option α) :
    KeepsOpt s (o.bind f) := by
  cases o <;> simp [h]
@[simp] theorem keepsOpt_findSome {α : Type} {s : State} {f : α → Option State} (h : ∀ a, KeepsOpt s (f a))
    (l : List α) : KeepsOpt s (l.findSome? f) := by
  intro t ht
  obtain ⟨a, -, ha⟩ := List.exists_of_findSome?_eq_some ht
  exact h a t ha
theorem KeepsOpt.orElse {s : State} {o : Option State} {f : Unit → Option State} (ho : KeepsOpt s o)
    (hf : KeepsOpt s (f ())) : KeepsOpt s (o.orElse f) := by
  cases o
  · exact hf
  · exact ho
/-- A second step after an optional first one. -/
theorem KeepsOpt.bind {s : State} {o : Option State} {f : State → Option State} (ho : KeepsOpt s o)
    (hf : ∀ t, t.held = s.held → KeepsOpt s (f t)) : KeepsOpt s (o.bind f) := by
  cases o with
  | none => simp
  | some t => exact hf t (ho.held rfl)
theorem KeepsOpt.map {α : Type} {s : State} {o : Option (State × α)} {f : State × α → State}
    (ho : KeepsOpt s (o.map Prod.fst)) (hf : ∀ r, (f r).held = r.1.held) : KeepsOpt s (o.map f) := by
  cases o with
  | none => simp
  | some t => simpa [hf] using ho
theorem KeepsOpt.bind_fst {α : Type} {s : State} {o : Option (State × α)} {f : State × α → Option State}
    (ho : KeepsOpt s (o.map Prod.fst)) (hf : ∀ r : State × α, r.1.held = s.held → KeepsOpt s (f r)) :
    KeepsOpt s (o.bind f) := by
  cases o with
  | none => simp
  | some r => exact hf r (ho.held_fst rfl)
/-- The state that goes on where an optional step was taken, and where none was. -/
theorem KeepsOpt.getD {s : State} {o : Option State} (ho : KeepsOpt s o) : (o.getD s).held = s.held := by
  cases o with
  | none => rfl
  | some t => exact ho.held rfl

/-- The state that a bind leaves, where it goes on. -/
def KeepsBind (s : State) (b : Bind) : Prop := ∀ t, b = .ok t ∨ b = .wake t → t.held = s.held
@[simp] theorem keepsBind_wait (s) : KeepsBind s .wait := by simp [KeepsBind]
@[simp] theorem keepsBind_fail (s) : KeepsBind s .fail := by simp [KeepsBind]
@[simp] theorem keepsBind_wake {s t} : KeepsBind s (.wake t) ↔ t.held = s.held := by simp [KeepsBind]
@[simp] theorem keepsBind_ok {s t} : KeepsBind s (.ok t) ↔ t.held = s.held := by simp [KeepsBind]
@[simp] theorem keepsBind_ite (c : Prop) [Decidable c] (s a b) :
    KeepsBind s (if c then a else b) ↔ if c then KeepsBind s a else KeepsBind s b := by split <;> rfl
theorem held_of_eq_snd {α : Type} {s t : State} {r : α × State} {a : α} (h : r.2.held = s.held) (e : r = (a, t)) :
    t.held = s.held := by
  simpa [e] using h
theorem held_of_eq_pair {α : Type} {s t : State} {r : State × α} {a : α} (h : r.1.held = s.held) (e : r = (t, a)) :
    t.held = s.held := by
  simpa [e] using h

def Keeps (s : State) (o : Out) : Prop := ∀ t, o = .next t → t.held = s.held

@[simp] theorem keeps_next {s t : State} : Keeps s (.next t) ↔ t.held = s.held := by simp [Keeps]
@[simp] theorem keeps_withUnit {s t : State} (h : t.held = s.held) (ok) : Keeps s (withUnit ok t) := by
  cases ok <;> simp [Keeps, h]
@[simp] theorem keeps_unitStep {s : State} {f : State → State} (h : (f s).held = s.held) (ok d) :
    Keeps s (unitStep ok d s f) := by simp [unitStep, h]
@[simp] theorem keeps_ite (c : Prop) [Decidable c] (s : State) (a b : Out) :
    Keeps s (if c then a else b) ↔ if c then Keeps s a else Keeps s b := by split <;> rfl

end Sys2Proof.Machine
end

section
/-! PROOFS. The functions of the model that leave what is held as it is, in the order of their definitions. -/
namespace Sys2Proof.Machine

open Sys2Proof

/-! The shared operations. -/

@[simp] theorem held_takeFree (s) : (takeFree s).2.held = s.held := by simp [takeFree]
@[simp] theorem held_setReg (s a v) : (State.setReg s a v).held = s.held := by simp [State.setReg]
@[simp] theorem held_count32 (s a n) : (State.count32 s a n).held = s.held := by simp [State.count32]
@[simp] theorem held_count64 (s a n) : (State.count64 s a n).held = s.held := by simp [State.count64]
@[simp] theorem held_latch (s a b) : (State.latch s a b).held = s.held := by simp [State.latch]
@[simp] theorem held_touchReg (s fn a) : (touchReg s fn a).held = s.held := by simp [touchReg]
@[simp] theorem held_updCtx (s x f) : (State.updCtx s x f).held = s.held := by simp [State.updCtx]
@[simp] theorem held_updPdk (s p f) : (State.updPdk s p f).held = s.held := by simp [State.updPdk]
@[simp] theorem held_accAdd (s k n) : (State.accAdd s k n).held = s.held := by simp [State.accAdd]
@[simp] theorem held_charge (s x i n) : (State.charge s x i n).held = s.held := by simp [State.charge]
@[simp] theorem held_addShare (s src x n) : (addShare s src x n).held = s.held := by simp [addShare]
@[simp] theorem held_addUj (s k n) : (addUj s k n).1.held = s.held := by simp [addUj]
@[simp] theorem held_pdkUj (s p n) : (pdkUj s p n).held = s.held := by simp [pdkUj]
@[simp] theorem held_ctxUj (s x n) : (ctxUj s x n).held = s.held := by simp [ctxUj]
@[simp] theorem held_energyRead (s src n) : (energyRead s src n).held = s.held := by
  unfold energyRead
  (repeat' split) <;> simp
@[simp] theorem held_logEvent (s cls code cpath ctx data dom) : (logEvent s cls code cpath ctx data dom).held = s.held := by simp [logEvent]
@[simp] theorem held_beat (s cpath) : (State.beat s cpath).held = s.held := by
  unfold State.beat
  split <;> simp
@[simp] theorem held_dcpBeat (s) : (dcpBeat s).held = s.held := by simp [dcpBeat]
@[simp] theorem held_fenceOne (on s u) : (fenceOne on s u).held = s.held := by simp [fenceOne]
@[simp] theorem held_setFence (s u) : (setFence s u).held = s.held := by simp [setFence]
@[simp] theorem held_clearFence (s u) : (clearFence s u).held = s.held := by simp [clearFence]
@[simp] theorem held_fenceEvent (s u) : (fenceEvent s u).held = s.held := by simp [fenceEvent]
@[simp] theorem held_hostWrite (s a d) : (hostWrite s a d).held = s.held := by simp [hostWrite]
@[simp] theorem held_sendVector (s f v) : (sendVector s f v).held = s.held := by simp [sendVector]
@[simp] theorem held_signalVector (s f v) : (signalVector s f v).held = s.held := by simp [signalVector]
@[simp] theorem held_updRing (s q f) : (State.updRing s q f).held = s.held := by simp [State.updRing]
@[simp] theorem held_ringError (s q cause) : (ringError s q cause).held = s.held := by simp [ringError]
@[simp] theorem held_addCpl (s q c) : (State.addCpl s q c).held = s.held := by simp [State.addCpl]
@[simp] theorem held_popPkt (s q) : (State.popPkt s q).held = s.held := by simp [State.popPkt]
@[simp] theorem held_refuseAtIssue (s q p st) : (refuseAtIssue s q p st).held = s.held := by simp [refuseAtIssue]
@[simp] theorem held_updCmd (s id f) : (State.updCmd s id f).held = s.held := by simp [State.updCmd]
@[simp] theorem held_raise (s id st) : (State.raise s id st).held = s.held := by simp [State.raise]
@[simp] theorem held_issue (s q p dies) : (issue s q p dies).1.held = s.held := by simp [issue]
@[simp] theorem keeps_onHead {f : Packet → State → State} (h : ∀ a0 a1, (f a0 a1).held = a1.held) (op q s) : Keeps s (onHead op q s f) := by
  unfold onHead
  (repeat' split) <;> simp_all

/-! Start-up and boundary scan (chapter 17). -/

@[simp] theorem keeps_execPerstDeassert (straps s) : Keeps s (execPerstDeassert straps s) := by simp [execPerstDeassert]
@[simp] theorem keeps_execPcieLinkUp (gen6 s) : Keeps s (execPcieLinkUp gen6 s) := by simp [execPcieLinkUp]
@[simp] theorem keeps_execRailCheckTimeout (mv s) : Keeps s (execRailCheckTimeout mv s) := by simp [execRailCheckTimeout]
@[simp] theorem held_loadImage (s) : (loadImage s).held = s.held := by simp [loadImage]
@[simp] theorem held_startTraining (s p) : (startTraining s p).held = s.held := by simp [startTraining]
@[simp] theorem held_drawSession (s p) : (drawSession s p).held = s.held := by simp [drawSession]
@[simp] theorem held_trainAll (s) : (trainAll s).held = s.held := by simp [trainAll]
@[simp] theorem keeps_execImageVerified (readOk s) : Keeps s (execImageVerified readOk s) := by simp [execImageVerified]
@[simp] theorem held_reapplyFences (s) : (reapplyFences s).held = s.held := by simp [reapplyFences]
@[simp] theorem keeps_execFirmwareStart (s) : Keeps s (execFirmwareStart s) := by simp [execFirmwareStart]
@[simp] theorem held_zeroSram (s) : (zeroSram s).held = s.held := by simp [zeroSram]
@[simp] theorem keeps_execSelfTestDone (failed dcpOk s) : Keeps s (execSelfTestDone failed dcpOk s) := by
  unfold execSelfTestDone
  refine keeps_withUnit ?_ _
  simp
@[simp] theorem keeps_execDeviceReady (s) : Keeps s (execDeviceReady s) := by simp [execDeviceReady]
@[simp] theorem held_scanSelect (code pins data s) : (scanSelect code pins data s).held = s.held := by
  simp only [scanSelect]
  split
  · simp
  · split <;> simp
@[simp] theorem keeps_execExtest (pins data s) : Keeps s (execExtest pins data s) := by simp [execExtest]
@[simp] theorem keeps_execIdcode (s) : Keeps s (execIdcode s) := by simp [execIdcode]
@[simp] theorem keeps_execSamplePreload (pins data s) : Keeps s (execSamplePreload pins data s) := by simp [execSamplePreload]
@[simp] theorem keeps_execClamp (s) : Keeps s (execClamp s) := by simp [execClamp]
@[simp] theorem keeps_execHighz (s) : Keeps s (execHighz s) := by simp [execHighz]
@[simp] theorem keeps_execExtestPulse (pins data s) : Keeps s (execExtestPulse pins data s) := by simp [execExtestPulse]
@[simp] theorem keeps_execExtestTrain (pins data s) : Keeps s (execExtestTrain pins data s) := by simp [execExtestTrain]
@[simp] theorem keeps_execBypass (code s) : Keeps s (execBypass code s) := by simp [execBypass]

/-! Power, gaits, rails, the current limiter, thermal sensors, power domains and wake (chapter 16). -/

@[simp] theorem held_setRail (s r v) : (setRail s r v).held = s.held := by simp [setRail]
@[simp] theorem held_requestRail (mv s r) : (requestRail mv s r).held = s.held := by simp [requestRail]
@[simp] theorem held_requestVolts (s g) : (requestVolts s g).held = s.held := by simp [requestVolts]
@[simp] theorem held_setSr (s u f) : (setSr s u f).held = s.held := by simp [setSr]
@[simp] theorem held_requestSelfRefresh (s u) : (requestSelfRefresh s u).held = s.held := by simp [requestSelfRefresh]
@[simp] theorem held_retrySr (s) : (retrySr s).held = s.held := by simp [retrySr]
@[simp] theorem held_haltProceed (s) : (haltProceed s).held = s.held := by simp [haltProceed]
@[simp] theorem held_gaitSettle (s) : (gaitSettle s).held = s.held := by simp [gaitSettle]
@[simp] theorem held_beginGait (s t) : (beginGait s t).held = s.held := by simp [beginGait]
@[simp] theorem held_repeatRails (s) : (repeatRails s).held = s.held := by simp [repeatRails]
@[simp] theorem held_commitGait (s) : (commitGait s).held = s.held := by
  have settle (t : State) (u : State) (h : u.held = t.held) : (if u.pwr.phase = 0 then beginGait u (wantedGait u) else u).held = t.held := by
    split <;> simp [h]
  unfold commitGait
  refine settle s _ ?_
  split
  · split <;> split <;> simp
  · split <;> simp
@[simp] theorem keeps_execGaitCommit (s) : Keeps s (execGaitCommit s) := by simp [execGaitCommit]
@[simp] theorem keeps_execWalkGate (s) : Keeps s (execWalkGate s) := by
  unfold execWalkGate
  rw [keeps_next]
  refine held_popDue (fun s => ?_) _ _
  simp
@[simp] theorem keeps_execHaltEntryDone (s) : Keeps s (execHaltEntryDone s) := by simp [execHaltEntryDone]
@[simp] theorem keeps_execHaltExitBegin (s) : Keeps s (execHaltExitBegin s) := by
  unfold execHaltExitBegin
  rw [keeps_next]
  refine held_popDue (fun s => ?_) _ _
  simp
@[simp] theorem keeps_execHaltExitDone (s) : Keeps s (execHaltExitDone s) := by simp [execHaltExitDone]
@[simp] theorem keeps_execAvsAck (r mv s) : Keeps s (execAvsAck r mv s) := by simp [execAvsAck]
@[simp] theorem keeps_execAvsTimeout (r s) : Keeps s (execAvsTimeout r s) := by simp [execAvsTimeout]
@[simp] theorem held_powerSample (rails stackW s) : (powerSample rails stackW s).held = s.held := by simp [powerSample]
@[simp] theorem held_energyReads (a u) : (energyReads a u).held = u.held := by
  fun_induction energyReads a u with
  | case1 => simp [*]
  | case2 => rfl
@[simp] theorem keeps_execPowerEstimate (rails stackW s) : Keeps s (execPowerEstimate rails stackW s) := by simp [execPowerEstimate]
@[simp] theorem held_slowLoop (s) : (slowLoop s).held = s.held := by simp [slowLoop]
@[simp] theorem keeps_execSlowLoopTick (s) : Keeps s (execSlowLoopTick s) := by simp [execSlowLoopTick]
@[simp] theorem keeps_execGaitCapStepDown (s) : Keeps s (execGaitCapStepDown s) := by simp [execGaitCapStepDown]
@[simp] theorem keeps_execThermalLimitTick (s) : Keeps s (execThermalLimitTick s) := by simp [execThermalLimitTick]
@[simp] theorem keeps_execThermThrottleAssert (s) : Keeps s (execThermThrottleAssert s) := by simp [execThermThrottleAssert]
@[simp] theorem keeps_execThermThrottleRelease (s) : Keeps s (execThermThrottleRelease s) := by simp [execThermThrottleRelease]
@[simp] theorem held_wakeEvent (s b) : (wakeEvent s b).held = s.held := by simp [wakeEvent]
@[simp] theorem keeps_execWakePinEvent (n high s) : Keeps s (execWakePinEvent n high s) := by
  unfold execWakePinEvent
  refine keeps_withUnit ?_ _
  simp
@[simp] theorem held_setGate (s k st) : (setGate s k st).held = s.held := by simp [setGate]
@[simp] theorem keeps_execClusterGate (g s) : Keeps s (execClusterGate g s) := by simp [execClusterGate]
@[simp] theorem keeps_execWayGate (k w s) : Keeps s (execWayGate k w s) := by simp [execWayGate]
@[simp] theorem held_touchGate (s k) : (touchGate s k).held = s.held := by simp [touchGate]
@[simp] theorem keeps_execDomainWakeDone (k s) : Keeps s (execDomainWakeDone k s) := by simp [execDomainWakeDone]

/-! Operations on core pads and handle tables (chapter 4). -/

@[simp] theorem held_captureErr (s a v) : (captureErr s a v).held = s.held := by simp [captureErr]
@[simp] theorem held_rearmErr (s a) : (rearmErr s a).held = s.held := by simp [rearmErr]
@[simp] theorem held_updHnd (s core h f) : (updHnd s core h f).held = s.held := by simp [updHnd]
@[simp] theorem held_setGroup (s c g st) : (setGroup s c g st).held = s.held := by simp [setGroup]
@[simp] theorem held_wakeGroup (c s g) : (wakeGroup c s g).held = s.held := by simp [wakeGroup]
@[simp] theorem held_wakeGroups (s c e) : (wakeGroups s c e).held = s.held := by simp [wakeGroups]
@[simp] theorem held_useWords (s c w n) : (useWords s c w n).held = s.held := by
  unfold useWords
  refine held_foldl (fun s a => ?_) _ _
  simp
@[simp] theorem held_moveLines (s c port n e r k) : (moveLines s c port n e r k).held = s.held := by simp [moveLines]
@[simp] theorem held_padWriteRow (s c e r off d) : (padWriteRow s c e r off d).held = s.held := by simp [padWriteRow]
@[simp] theorem held_padUe (s c cell port h b ctx) : (padUe s c cell port h b ctx).held = s.held := by simp [padUe]
@[simp] theorem held_padStorm (s c) : (padStorm s c).held = s.held := by simp [padStorm]
@[simp] theorem held_padCe (s c cell port h) : (padCe s c cell port h).held = s.held := by simp [padCe]
@[simp] theorem held_padUes (s c port h b ctx cells) : (padUes s c port h b ctx cells).held = s.held := by simp [padUes]
@[simp] theorem held_checkCells (s c port h ctx cells) : (checkCells s c port h ctx cells).1.held = s.held := by simp [checkCells]
@[simp] theorem held_padGetRow (s c port h r off len ctx) : (padGetRow s c port h r off len ctx).1.held = s.held := by simp [padGetRow]
@[simp] theorem held_padPutRow (s c port h r off d ctx) : (padPutRow s c port h r off d ctx).1.held = s.held := by simp [padPutRow]
@[simp] theorem held_aliasHazard (s c hA hB pA pB ww ctx) : (aliasHazard s c hA hB pA pB ww ctx).held = s.held := by simp [aliasHazard]
@[simp] theorem held_hazardOn (s c h port hz ctx) : (hazardOn s c h port hz ctx).held = s.held := by simp [hazardOn]
@[simp] theorem held_unbind (s c h) : (unbind s c h).held = s.held := by simp [unbind]
@[simp] theorem held_scrubCore (s c x keep) : (scrubCore s c x keep).held = s.held := by simp [scrubCore]

/-! Operations on device memory (chapter 8). -/

@[simp] theorem held_dpaMerge (s a d whole) : (dpaMerge s a d whole).1.held = s.held := by simp [dpaMerge]
@[simp] theorem held_dpaWrite (s a d) : (dpaWrite s a d).1.held = s.held := by simp [dpaWrite]
@[simp] theorem held_dpaZero (s lo hi) : (dpaZero s lo hi).held = s.held := by simp [dpaZero]
@[simp] theorem held_memUe (s a b patrol ctx) : (memUe s a b patrol ctx).held = s.held := by simp [memUe]
@[simp] theorem held_memUes (s ws ctx) : (memUes s ws ctx).held = s.held := by simp [memUes]
@[simp] theorem held_memStorm (s a) : (memStorm s a).held = s.held := by simp [memStorm]
@[simp] theorem held_memCe (s a patrol ctx) : (memCe s a patrol ctx).held = s.held := by simp [memCe]
@[simp] theorem held_checkWords (s a len ctx) : (checkWords s a len ctx).1.held = s.held := by simp [checkWords]
@[simp] theorem held_mergeSyms (s a len add ctx) : (mergeSyms s a len add ctx).held = s.held := by simp [mergeSyms]
@[simp] theorem held_dpaPut (s a d ctx) : (dpaPut s a d ctx).1.held = s.held := by simp [dpaPut]
@[simp] theorem held_chargeMem (s x pa n) : (chargeMem s x pa n).held = s.held := by simp [chargeMem]
@[simp] theorem held_translate (s mmu x va write) : (translate s mmu x va write).1.held = s.held := by
  cases h : tlbFind s mmu x (s.gen x) (va % 2 ^ 48 / 2 ^ 21) with
  | some t => simp [translate, h, -Nat.reducePow]
  | none =>
    simp only [translate, h]
    split <;> simp
@[simp] theorem held_xlateFault (s mmu x va cause write) : (xlateFault s mmu x va cause write).held = s.held := by simp [xlateFault]
@[simp] theorem held_cacheTouch (s line) : (cacheTouch s line).held = s.held := by simp [cacheTouch]
@[simp] theorem held_cachePlace (s ways line) : (cachePlace s ways line).held = s.held := by simp [cachePlace]
@[simp] theorem held_takeId (s) : (takeId s).2.held = s.held := by simp [takeId]
@[simp] theorem held_addReq (s r) : (addReq s r).held = s.held := by simp [addReq]
@[simp] theorem held_readAhead (i x a u v) : (readAhead i x a u v).held = v.held := by
  induction a generalizing i x u v <;> simp [readAhead, *]
@[simp] theorem held_cacheRead (s i x va pa write ahead) : (cacheRead s i x va pa write ahead).held = s.held := by simp [cacheRead]
@[simp] theorem held_wakeUnit (s u) : (wakeUnit s u).held = s.held := by simp [wakeUnit]
@[simp] theorem held_atTarget (s mmu x va pa len write) : (atTarget s mmu x va pa len write).held = s.held := by simp [atTarget]
@[simp] theorem held_vaRead (s mmu x va len) : (vaRead s mmu x va len).1.held = s.held := by simp [vaRead]
@[simp] theorem held_readSaved (s mmu x va len) : (readSaved s mmu x va len).1.held = s.held := by simp [readSaved]
@[simp] theorem held_vaWrite (s mmu x va d) : (vaWrite s mmu x va d).1.held = s.held := by simp [vaWrite]

/-! Operations of the trace fabric (chapter 11). -/

@[simp] theorem held_updPort (s p f) : (updPort s p f).held = s.held := by simp [updPort]
@[simp] theorem held_hdrDrop (s p) : (hdrDrop s p).held = s.held := by simp [hdrDrop]
@[simp] theorem held_freeRx (s p vc n) : (freeRx s p vc n).held = s.held := by simp [freeRx]
@[simp] theorem held_enqueue (s p x) : (enqueue s p x).held = s.held := by simp [enqueue]
@[simp] theorem held_sendOut (s i k) : (sendOut s i k).held = s.held := by
  unfold sendOut
  split <;> simp
@[simp] theorem held_setGenRec (s die src ctx r) : (setGenRec s die src ctx r).held = s.held := by simp [setGenRec]
@[simp] theorem held_raiseGen (s die src ctx g) : (raiseGen s die src ctx g).held = s.held := by simp [raiseGen]
@[simp] theorem held_toRx (s p k) : (toRx s p k).held = s.held := by simp [toRx]
@[simp] theorem held_redEvent (s u b serial job group kind chunk) : (redEvent s u b serial job group kind chunk).held = s.held := by simp [redEvent]
@[simp] theorem held_staleChunk (s p k) : (staleChunk s p k).held = s.held := by simp [staleChunk]
@[simp] theorem held_deliver (s p k) : (deliver s p k).held = s.held := by
  simp only [deliver]
  cases ctxOfJob (raiseGen s (portDie p) k.src k.ctx k.gen) k.job <;> simp
@[simp] theorem held_originate (s k) : (originate s k).2.held = s.held := by
  simp only [originate]
  split
  · rfl
  · split <;> simp
@[simp] theorem held_sendPkt (s k) : (sendPkt s k).held = s.held := by simp [sendPkt]
@[simp] theorem held_sendPort (s p k) : (sendPort s p k).held = s.held := by simp [sendPort]
@[simp] theorem held_receivePkt (s p k) : (receivePkt s p k).held = s.held := by simp [receivePkt]
@[simp] theorem keeps_onRx {f : FPkt → State → State} (h : ∀ a0 a1, (f a0 a1).held = a1.held) (type vc p s ready) : Keeps s (onRx type vc p s ready f) := by
  unfold onRx
  (repeat' split) <;> simp_all
@[simp] theorem keeps_onAnswer {f : FPkt → State → State} (h : ∀ a0 a1, (f a0 a1).held = a1.held) (type p s) : Keeps s (onAnswer type p s f) := by
  unfold onAnswer
  simp_all

/-! The link layer of the trace ports (R360 to R367, R370, R384, R393). -/

@[simp] theorem held_sendFlit (s p type payload first) : (sendFlit s p type payload first).held = s.held := by simp [sendFlit]
@[simp] theorem held_cutFlit (s p) : (cutFlit s p).held = s.held := by simp [cutFlit]
@[simp] theorem held_pumpFlits (a u v) : (pumpFlits a u v).held = u.held := by
  induction a generalizing u v <;> simp [pumpFlits, *]
@[simp] theorem held_pump (s p) : (pump s p).held = s.held := by simp [pump]
@[simp] theorem held_retrainPort (s p) : (retrainPort s p).held = s.held := by simp [retrainPort]
@[simp] theorem held_replayPort (s p) : (replayPort s p).held = s.held := by simp [replayPort]
@[simp] theorem held_flushPort (s p) : (flushPort s p).held = s.held := by simp [flushPort]
@[simp] theorem held_takeTraining (p h s) : (takeTraining p h s).held = s.held := by simp [takeTraining]
@[simp] theorem keeps_execTrainingComplete (p h s) : Keeps s (execTrainingComplete p h s) := by simp [execTrainingComplete]
@[simp] theorem keeps_execTrainingTimeout (p s) : Keeps s (execTrainingTimeout p s) := by simp [execTrainingTimeout]
@[simp] theorem keeps_execSignalDetect (p on s) : Keeps s (execSignalDetect p on s) := by simp [execSignalDetect]
@[simp] theorem keeps_execFecAlignLoss (p s) : Keeps s (execFecAlignLoss p s) := by simp [execFecAlignLoss]
@[simp] theorem keeps_execReplayTimeout (p s) : Keeps s (execReplayTimeout p s) := by simp [execReplayTimeout]
@[simp] theorem held_takeAck (s p f) : (takeAck s p f).held = s.held := by simp [takeAck]
@[simp] theorem held_sendHello (s p) : (sendHello s p).held = s.held := by simp [sendHello]
@[simp] theorem held_relevel (s p) : (relevel s p).held = s.held := by simp [relevel]
@[simp] theorem held_takeHello (s p h) : (takeHello s p h).held = s.held := by simp [takeHello]
@[simp] theorem held_takeControl (s p f) : (takeControl s p f).held = s.held := by simp [takeControl]
@[simp] theorem held_takeData (s p f) : (takeData s p f).held = s.held := by simp [takeData]
@[simp] theorem held_nakFlit (p s) : (nakFlit p s).held = s.held := by simp [nakFlit]
@[simp] theorem held_takeFlit (p f s) : (takeFlit p f s).held = s.held := by simp [takeFlit]
@[simp] theorem keeps_execFlitReceive (p f fec s) : Keeps s (execFlitReceive p f fec s) := by simp [execFlitReceive]
@[simp] theorem held_fillTokens (s p) : (fillTokens s p).held = s.held := by simp [fillTokens]
@[simp] theorem held_startPkt (s p i) : (startPkt s p i).held = s.held := by
  unfold startPkt
  split <;> simp
@[simp] theorem held_dropUncarried (s p) : (dropUncarried s p).held = s.held := by simp [dropUncarried]
@[simp] theorem keeps_execPacketEgress (p s) : Keeps s (execPacketEgress p s) := by
  refine keeps_withUnit (held_when (fun s => ?_) _ _) _
  simp only
  split
  · simp
  · split
    · simp
    · split
      · simp
      · split
        · exact (held_when (fun s => held_sendFlit ..) _ _).trans (by simp)
        · simp
@[simp] theorem held_linkCtl (s p v) : (linkCtl s p v).held = s.held := by simp [linkCtl]
@[simp] theorem keeps_execRetrain (fn p v s) : Keeps s (execRetrain fn p v s) := by simp [execRetrain]
@[simp] theorem keeps_execLinkEnable (fn p v s) : Keeps s (execLinkEnable fn p v s) := by simp [execLinkEnable]

/-! Scale slots, narrowing, version references. -/

@[simp] theorem held_writeSlot (s x n b) : (writeSlot s x n b).held = s.held := by
  unfold writeSlot
  split <;> simp
@[simp] theorem held_freeBytes (s n) : (freeBytes s n).1.held = s.held := by simp [freeBytes]
@[simp] theorem held_readSlot (s x n) : (readSlot s x n).1.held = s.held := by
  unfold readSlot
  split <;> simp
@[simp] theorem held_readExp (s x n) : (readExp s x n).1.held = s.held := by
  unfold readExp
  split
  · simp
  · split <;> simp
@[simp] theorem held_pushSlot (s x n st) : (pushSlot s x n st).held = s.held := by simp [pushSlot]
@[simp] theorem held_readExps (s id x slots) : (readExps s id x slots).held = s.held := by simp [readExps]
@[simp] theorem held_writeVRec (s pa v) : (writeVRec s pa v).held = s.held := by simp [writeVRec]
@[simp] theorem held_reachVRec (s x va) : (reachVRec s x va).1.held = s.held := by simp [reachVRec]
@[simp] theorem held_acquireRef (s pa ver) : (acquireRef s pa ver).held = s.held := by simp [acquireRef]
@[simp] theorem held_releaseRef (s r) : (releaseRef s r).held = s.held := by simp [releaseRef]
@[simp] theorem held_openVa (s x va len) : (openVa s x va len).held = s.held := by simp [openVa]
@[simp] theorem held_openRegions (s x l) : (openRegions s x l).held = s.held := by simp [openRegions]
@[simp] theorem held_openOutputs (s id) : (openOutputs s id).held = s.held := by simp [openOutputs]
@[simp] theorem held_abandonInstalls (s id) : (abandonInstalls s id).held = s.held := by simp [abandonInstalls]
@[simp] theorem held_renameCmd (s a b) : (renameCmd s a b).held = s.held := by
  simp only [renameCmd]
  split <;> simp
@[simp] theorem held_leaveBatch (s id) : (leaveBatch s id).held = s.held := by
  unfold leaveBatch
  (repeat' split) <;> simp
@[simp] theorem held_abortWork (s id) : (abortWork s id).held = s.held := by simp [abortWork]
@[simp] theorem held_endCmd (s id st) : (endCmd s id st).held = s.held := by
  unfold endCmd
  split <;> simp
@[simp] theorem held_settleHandles (s c) : (settleHandles s c).held = s.held := by simp [settleHandles]
@[simp] theorem held_unbindOwn (s id) : (unbindOwn s id).held = s.held := by simp [unbindOwn]
@[simp] theorem held_chargeOverrun (s c extra) : (chargeOverrun s c extra).held = s.held := by simp [chargeOverrun]
@[simp] theorem held_pushAll (s c) : (pushAll s c).held = s.held := by simp [pushAll]
@[simp] theorem held_finishCmd (s c0) : (finishCmd s c0).held = s.held := by simp [finishCmd]
@[simp] theorem held_finish (s id) : (finish s id).held = s.held := by
  unfold finish
  split <;> simp
@[simp] theorem held_completeNow (s q p st csw) : (completeNow s q p st csw).held = s.held := by simp [completeNow]
@[simp] theorem held_startBatch (b s) : (startBatch b s).held = s.held := by
  simp only [startBatch]
  split <;> simp
@[simp] theorem held_arriveBatches (x p s) : (arriveBatches x p s).held = s.held := by simp [arriveBatches]
@[simp] theorem held_sendRemote (s cmd x dest kind slot len dst k mover issuer) : (sendRemote s cmd x dest kind slot len dst k mover issuer).held = s.held := by simp [sendRemote]
@[simp] theorem held_hostPut (s c fn addr d issuer mover) : (hostPut s c fn addr d issuer mover).held = s.held := by simp [hostPut]

/-! The host interface and the control and numerics commands (chapter 12; R66 to R69, R600, R601). -/

@[simp] theorem held_doorbellWake (s) : (doorbellWake s).held = s.held := by simp [doorbellWake]
@[simp] theorem held_queueRing (q s) : (queueRing q s).held = s.held := by simp [queueRing]
@[simp] theorem keeps_execSqTail (fn n v s) : Keeps s (execSqTail fn n v s) := by
  unfold execSqTail
  rw [keeps_next]
  refine held_when (fun s => ?_) _ _
  split <;> simp
@[simp] theorem keeps_execCqHead (fn n v s) : Keeps s (execCqHead fn n v s) := by
  unfold execCqHead
  rw [keeps_next]
  refine held_when (fun s => ?_) _ _
  split <;> simp
@[simp] theorem held_ringCtlWrite (s q f v) : (ringCtlWrite s q f v).held = s.held := by simp [ringCtlWrite]
@[simp] theorem keeps_execRingEnable (fn n v s) : Keeps s (execRingEnable fn n v s) := by
  unfold execRingEnable
  rw [keeps_next]
  refine held_when (fun s => ?_) _ _
  split <;> simp
@[simp] theorem keeps_execRingDisable (fn n v s) : Keeps s (execRingDisable fn n v s) := by
  unfold execRingDisable
  rw [keeps_next]
  refine held_when (fun s => ?_) _ _
  split <;> simp
@[simp] theorem held_chargeRing (s q n) : (chargeRing s q n).held = s.held := by simp [chargeRing]
@[simp] theorem held_takePacket (q plen p s) : (takePacket q plen p s).held = s.held := by simp [takePacket]
@[simp] theorem keeps_execPacketFetch (q s) : Keeps s (execPacketFetch q s) := by simp [execPacketFetch]
@[simp] theorem held_popDone (s q) : (popDone s q).held = s.held := by simp [popDone]
@[simp] theorem held_settleRing (s q) : (settleRing s q).held = s.held := by simp [settleRing]
@[simp] theorem held_chargeCpl (s q) : (chargeCpl s q).held = s.held := by simp [chargeCpl]
@[simp] theorem held_relayEntry (q c lead epoch s) : (relayEntry q c lead epoch s).held = s.held := by simp [relayEntry]
@[simp] theorem held_writeEntry (q c s) : (writeEntry q c s).held = s.held := by simp [writeEntry]
@[simp] theorem keeps_execCompletionWrite (q s) : Keeps s (execCompletionWrite q s) := by
  unfold execCompletionWrite
  refine keeps_withUnit ?_ _
  refine held_when (fun s => ?_) _ _
  split
  · simp
  · split <;> simp
@[simp] theorem keeps_execNop (q s) : Keeps s (execNop q s) := by simp [execNop]
@[simp] theorem keeps_execFence (q s) : Keeps s (execFence q s) := by simp [execFence]
@[simp] theorem keeps_execWaitStride (q s) : Keeps s (execWaitStride q s) := by simp [execWaitStride]
@[simp] theorem held_signalVa (s x va v add) : (signalVa s x va v add).1.held = s.held := by simp [signalVa]
@[simp] theorem held_signalLocal (q p s) : (signalLocal q p s).held = s.held := by simp [signalLocal]
@[simp] theorem held_signalHost (q p s) : (signalHost q p s).held = s.held := by simp [signalHost]
@[simp] theorem held_signalRemote (q p s) : (signalRemote q p s).held = s.held := by simp [signalRemote]
@[simp] theorem keeps_execSignal (q s) : Keeps s (execSignal q s) := by simp [execSignal]
@[simp] theorem held_waitRead (q p s) : (waitRead q p s).held = s.held := by simp [waitRead]
@[simp] theorem keeps_execWaitValue (q s) : Keeps s (execWaitValue q s) := by simp [execWaitValue]
@[simp] theorem keeps_execWaitValueRecheck (q s) : Keeps s (execWaitValueRecheck q s) := by simp [execWaitValueRecheck]
@[simp] theorem keeps_execWaitValueTimeout (q s) : Keeps s (execWaitValueTimeout q s) := by
  unfold execWaitValueTimeout
  split <;> simp
@[simp] theorem keeps_execHandleBind (q s) : Keeps s (execHandleBind q s) := by simp [execHandleBind]
@[simp] theorem keeps_execHandleRelease (q s) : Keeps s (execHandleRelease q s) := by simp [execHandleRelease]
@[simp] theorem keeps_execScaleSet (q s) : Keeps s (execScaleSet q s) := by simp [execScaleSet]
@[simp] theorem held_slotImages (s x first n) : (slotImages s x first n).1.held = s.held := by simp [slotImages]
@[simp] theorem held_scaleReadAsk (q p s) : (scaleReadAsk q p s).held = s.held := by simp [scaleReadAsk]
@[simp] theorem held_scaleReadSend (c s) : (scaleReadSend c s).held = s.held := by simp [scaleReadSend]
@[simp] theorem keeps_execScaleRead (q s) : Keeps s (execScaleRead q s) := by simp [execScaleRead]
@[simp] theorem keeps_execSeedSet (q s) : Keeps s (execSeedSet q s) := by simp [execSeedSet]
@[simp] theorem held_tlbInvalidate (s fn n) : (tlbInvalidate s fn n).held = s.held := by simp [tlbInvalidate]
@[simp] theorem keeps_execTlbInvalidate (fn v s) : Keeps s (execTlbInvalidate fn v s) := by simp [execTlbInvalidate]
@[simp] theorem keeps_execTlbInvDone (fn s) : Keeps s (execTlbInvDone fn s) := by
  unfold execTlbInvDone
  rw [keeps_next]
  refine held_when (fun s => ?_) _ _
  split <;> simp
@[simp] theorem held_writeWindow (s f n v) : (writeWindow s f n v).held = s.held := by simp [writeWindow]
@[simp] theorem keeps_execWindowWrite (fn f n v s) : Keeps s (execWindowWrite fn f n v s) := by simp [execWindowWrite]
@[simp] theorem keeps_execWinBusyClear (f s) : Keeps s (execWinBusyClear f s) := by
  unfold execWinBusyClear
  rw [keeps_next]
  refine held_when (fun s => ?_) _ _
  split <;> simp
@[simp] theorem held_settleAts (s) : (settleAts s).held = s.held := by simp [settleAts]
@[simp] theorem keeps_execAtsInvalidation (fn page pages s) : Keeps s (execAtsInvalidation fn page pages s) := by simp [execAtsInvalidation]
@[simp] theorem keeps_execDoeDiscovery (idx s) : Keeps s (execDoeDiscovery idx s) := by
  unfold execDoeDiscovery
  rw [keeps_next]
  refine held_when (fun s => ?_) _ _
  simp
@[simp] theorem keeps_execBar4Read (off len s) : Keeps s (execBar4Read off len s) := by simp [execBar4Read]
@[simp] theorem keeps_execBar4Write (off d s) : Keeps s (execBar4Write off d s) := by simp [execBar4Write]
@[simp] theorem keeps_execVfEnable (f on s) : Keeps s (execVfEnable f on s) := by
  unfold execVfEnable
  refine keeps_withUnit ?_ _
  refine held_when (fun s => ?_) _ _
  simp
@[simp] theorem held_noteRelayed (q p s) : (noteRelayed q p s).held = s.held := by simp [noteRelayed]
@[simp] theorem keeps_execRelaySend (q s) : Keeps s (execRelaySend q s) := by
  unfold execRelaySend
  split <;> simp

/-! The stride (R447 to R450), gait-table slots and runs (R459 to R468). -/

@[simp] theorem held_chargeOpen (n s x) : (chargeOpen n s x).held = s.held := by simp [chargeOpen]
@[simp] theorem held_advanceUs (n s) : (advanceUs n s).held = s.held := by simp [advanceUs]
@[simp] theorem held_waitUntil (s ns) : (waitUntil s ns).held = s.held := by simp [waitUntil]
@[simp] theorem held_chargeStrides (lo m s p) : (chargeStrides lo m s p).held = s.held := by
  simp only [chargeStrides]
  split
  · simp
  · split <;> simp
@[simp] theorem held_takeBoundary (s) : (takeBoundary s).held = s.held := by simp [takeBoundary]
@[simp] theorem keeps_execStrideBoundary (s) : Keeps s (execStrideBoundary s) := by simp [execStrideBoundary]
@[simp] theorem keeps_execStrideValuesCommit (s) : Keeps s (execStrideValuesCommit s) := by
  unfold execStrideValuesCommit
  rw [keeps_next]
  refine held_popDue (fun s => ?_) _ _
  simp
@[simp] theorem keeps_execTimCommitStride (fn v s) : Keeps s (execTimCommitStride fn v s) := by simp [execTimCommitStride]
@[simp] theorem keeps_execLoadNow (fn v s) : Keeps s (execLoadNow fn v s) := by
  unfold execLoadNow
  rw [keeps_next]
  refine held_when (fun s => ?_) _ _
  simp
@[simp] theorem held_markOverruns (s x e) : (markOverruns s x e).held = s.held := by simp [markOverruns]
@[simp] theorem held_endRun (s p) : (endRun s p).held = s.held := by
  unfold endRun
  split <;> simp
@[simp] theorem keeps_execRunEnd (p s) : Keeps s (execRunEnd p s) := by simp [execRunEnd]
@[simp] theorem held_beginRun (s p x i) : (beginRun s p x i).held = s.held := by simp [beginRun]
@[simp] theorem keeps_execSlotBegin (p s) : Keeps s (execSlotBegin p s) := by
  simp only [execSlotBegin]
  refine keeps_withUnit ?_ _
  refine held_popDue (fun s => ?_) _ _
  split <;> simp
@[simp] theorem keeps_execGaitLoad (q s) : Keeps s (execGaitLoad q s) := by simp [execGaitLoad]
@[simp] theorem held_accSet (s base key n) : (accSet s base key n).held = s.held := by simp [accSet]
@[simp] theorem held_accErase (s key n) : (accErase s key n).held = s.held := by simp [accErase]
@[simp] theorem held_snapshotAll (s) : (snapshotAll s).held = s.held := by simp [snapshotAll]
@[simp] theorem held_applyClears (s) : (applyClears s).held = s.held := by simp [applyClears]
@[simp] theorem keeps_execAccountingSnapshot (s) : Keeps s (execAccountingSnapshot s) := by simp [execAccountingSnapshot]
@[simp] theorem held_markClear (s a v) : (markClear s a v).held = s.held := by simp [markClear]
@[simp] theorem keeps_execAccClear (fn addr v s) : Keeps s (execAccClear fn addr v s) := by simp [execAccClear]
@[simp] theorem keeps_execFenceWindowExpiry (u s) : Keeps s (execFenceWindowExpiry u s) := by
  unfold execFenceWindowExpiry
  rw [keeps_next]
  refine held_popDue (fun s => ?_) _ _
  simp
@[simp] theorem keeps_execNonceExpiry (k s) : Keeps s (execNonceExpiry k s) := by
  unfold execNonceExpiry
  rw [keeps_next]
  refine held_popDue (fun s => ?_) _ _
  split <;> simp

/-! The movers (chapter 7). -/

@[simp] theorem held_setJobs (s i l) : (setJobs s i l).held = s.held := by simp [setJobs]
@[simp] theorem held_updJob (s i id f) : (updJob s i id f).held = s.held := by simp [updJob]
@[simp] theorem held_addJob (s i j) : (addJob s i j).held = s.held := by simp [addJob]
@[simp] theorem held_addClaim (s core h cmd src bytes job) : (addClaim s core h cmd src bytes job).held = s.held := by simp [addClaim]
@[simp] theorem held_startJob (s i j) : (startJob s i j).held = s.held := by simp [startJob]
@[simp] theorem held_addIn (s id k) : (addIn s id k).held = s.held := by simp [addIn]
@[simp] theorem held_delIn (s id k) : (delIn s id k).held = s.held := by simp [delIn]
@[simp] theorem held_addOut (s id k) : (addOut s id k).held = s.held := by simp [addOut]
@[simp] theorem keepsOpt_jobAcquire {s₀ : State} (i s j) (e₀ : s.held = s₀.held) : KeepsOpt s₀ (jobAcquire i s j) := by simp [jobAcquire, e₀]
@[simp] theorem keepsOpt_idxStep {s₀ : State} (i s j) (e₀ : s.held = s₀.held) : KeepsOpt s₀ (idxStep i s j) := by simp [idxStep, e₀]
@[simp] theorem held_countOor (s j) : (countOor s j).held = s.held := by simp [countOor]
@[simp] theorem held_countDrop (s j) : (countDrop s j).held = s.held := by simp [countDrop]
@[simp] theorem held_landBytes (s j n) : (landBytes s j n).held = s.held := by simp [landBytes]
@[simp] theorem held_landZeroRow (s j) : (landZeroRow s j).held = s.held := by simp [landZeroRow]
@[simp] theorem keepsOpt_routePiece {s₀ : State} (i s j w) (e₀ : s.held = s₀.held) : KeepsOpt s₀ (routePiece i s j w) := by simp [routePiece, e₀]
@[simp] theorem keepsOpt_routeStep {s₀ : State} (i s j w) (e₀ : s.held = s₀.held) : KeepsOpt s₀ (routeStep i s j w) := by simp [routeStep, e₀]
@[simp] theorem keepsOpt_tableStep {s₀ : State} (i s j w) (e₀ : s.held = s₀.held) : KeepsOpt s₀ (tableStep i s j w) := by simp [tableStep, e₀]
@[simp] theorem keepsOpt_jobStep {s₀ : State} (i s j) (e₀ : s.held = s₀.held) : KeepsOpt s₀ (jobStep i s j) := by
  unfold jobStep
  split
  · simp
  · split
    · simp
    · split
      · simp
      · split
        · simp [e₀]
        · split
          · split
            · split
              · simp [e₀]
              · split
                case h_1 h => simpa using (keepsOpt_tableStep i s j _ e₀).held h
                case h_2 => simp [e₀]
            · simp [e₀]
          · simp [e₀]
@[simp] theorem held_fillIssuer (a u v) : (fillIssuer a u v).held = u.held := by
  induction a generalizing u with
  | zero => rfl
  | succ n ih =>
    unfold fillIssuer
    split
    · rfl
    · split
      case h_1 h => rw [ih, (keepsOpt_bind (fun j => keepsOpt_jobStep v u j rfl) _).held h]
      case h_2 => rfl
@[simp] theorem held_settleJob (i s j) : (settleJob i s j).held = s.held := by simp [settleJob]
@[simp] theorem held_kickMovers (s) : (kickMovers s).held = s.held := by simp [kickMovers]
@[simp] theorem held_assignGather (k s) : (assignGather k s).held = s.held := by
  unfold assignGather
  split <;> simp
@[simp] theorem held_assignAll (a u v) : (assignAll a u v).held = v.held := by
  induction a generalizing u v <;> simp [assignAll, *]

/-! The movement commands (R234 to R247, R422) and the life of their requests. -/

@[simp] theorem held_issueJobs {put : State → Job → State} (h : ∀ a0 a1, (put a0 a1).held = a0.held) (s q p dies js) : (issueJobs s q p dies js put).held = s.held := by
  induction q generalizing s p dies js <;> simp [issueJobs, *]
@[simp] theorem held_issueDma (kind q p s) : (issueDma kind q p s).held = s.held := by simp [issueDma]
@[simp] theorem keeps_execLoad (q s) : Keeps s (execLoad q s) := by simp [execLoad]
@[simp] theorem keeps_execStore (q s) : Keeps s (execStore q s) := by simp [execStore]
@[simp] theorem keeps_execOffload (q s) : Keeps s (execOffload q s) := by simp [execOffload]
@[simp] theorem keeps_execPrefetch (q s) : Keeps s (execPrefetch q s) := by simp [execPrefetch]
@[simp] theorem held_queueGather (s j) : (queueGather s j).held = s.held := by simp [queueGather]
@[simp] theorem held_assignDies (s) : (assignDies s).held = s.held := by simp [assignDies]
@[simp] theorem held_issueGather (op q p s) : (issueGather op q p s).held = s.held := by simp [issueGather]
@[simp] theorem keeps_execGather (q s) : Keeps s (execGather q s) := by simp [execGather]
@[simp] theorem keeps_execScatter (q s) : Keeps s (execScatter q s) := by simp [execScatter]
@[simp] theorem keeps_execRouteTokens (q s) : Keeps s (execRouteTokens q s) := by simp [execRouteTokens]
@[simp] theorem keeps_execGatherDescriptorAssign (die s) : Keeps s (execGatherDescriptorAssign die s) := by simp [execGatherDescriptorAssign]
@[simp] theorem held_claimJob (s c) : (claimJob s c).held = s.held := by simp [claimJob]
@[simp] theorem keeps_execHandleClaim (core h s) : Keeps s (execHandleClaim core h s) := by
  unfold execHandleClaim
  refine keeps_unitStep ?_ _ _
  split <;> simp
@[simp] theorem held_dropReq (s id) : (dropReq s id).held = s.held := by simp [dropReq]
@[simp] theorem held_padData (s r) : (padData s r).1.held = s.held := by
  unfold padData
  split <;> simp
@[simp] theorem held_stopAhead (s r) : (stopAhead s r).held = s.held := by simp [stopAhead]
@[simp] theorem held_admitAt (s r pa t d) : (admitAt s r pa t d).held = s.held := by simp [admitAt]
@[simp] theorem held_relayHost (s r d) : (relayHost s r d).held = s.held := by simp [relayHost]
@[simp] theorem held_makeHost (s r d) : (makeHost s r d).held = s.held := by simp [makeHost]
@[simp] theorem held_admitHost (s r) : (admitHost s r).held = s.held := by
  simp only [admitHost]
  split
  · simp
  · split
    · simp
    · split <;> simp
@[simp] theorem held_faultReq (s r cause) : (faultReq s r cause).held = s.held := by simp [faultReq]
@[simp] theorem held_admitMem (s r pa t) : (admitMem s r pa t).held = s.held := by
  simp only [admitMem]
  split
  · split
    · simp
    · split <;> simp
  · split
    · simp
    · split <;> simp
@[simp] theorem held_admitReq (s r) : (admitReq s r).held = s.held := by simp [admitReq]
@[simp] theorem keeps_execRequestAdmit (id s) : Keeps s (execRequestAdmit id s) := by
  unfold execRequestAdmit
  split <;> simp
@[simp] theorem held_applyFinding (s r code word) : (applyFinding s r code word).held = s.held := by simp [applyFinding]
@[simp] theorem held_copyOut (s r host a) : (copyOut s r host a).held = s.held := by simp [copyOut]
@[simp] theorem held_landData (s r hz) : (landData s r hz).held = s.held := by
  unfold landData
  split
  · simp
  · simp
  · split <;> simp
  · simp
  · simp
  · simp
  · simp
@[simp] theorem held_allocLine (s r) : (allocLine s r).held = s.held := by simp [allocLine]
@[simp] theorem held_freeReq (s r) : (freeReq s r).held = s.held := by simp [freeReq]
@[simp] theorem held_landReq (s r code word hz) : (landReq s r code word hz).held = s.held := by simp [landReq]
@[simp] theorem keeps_execRequestLand (id finding hz s) : Keeps s (execRequestLand id finding hz s) := by
  unfold execRequestLand
  split <;> simp
@[simp] theorem keeps_execRouteCountWrite (job dest slot s) : Keeps s (execRouteCountWrite job dest slot s) := by
  unfold execRouteCountWrite
  split <;> simp

/-! Groups of ALIGNED32 lanes, their residues and adders (R44, R45, R288, R290 to R297). -/

@[simp] theorem held_injectGroups (s u gs) : (injectGroups s u gs).1.held = s.held := by simp [injectGroups]
@[simp] theorem held_countOut (s u) : (countOut s u).held = s.held := by simp [countOut]
@[simp] theorem held_passIn (s u) : (passIn s u).held = s.held := by simp [passIn]
@[simp] theorem held_updSum (s key f) : (updSum s key f).held = s.held := by simp [updSum]
@[simp] theorem held_newSum (s cmd key rows cols unit left e goal) : (newSum s cmd key rows cols unit left e goal).held = s.held := by simp [newSum]
@[simp] theorem held_meetChunk (s b u idx gs) : (meetChunk s b u idx gs).1.held = s.held := by simp [meetChunk]
@[simp] theorem held_addChunk (cmd key u serial c idx gs a v) : (addChunk cmd key u serial c idx gs a v).1.held = v.held := by
  induction a generalizing v with
  | zero => rfl
  | succ n ih =>
    unfold addChunk
    split
    · rfl
    · simp only
      split
      · rw [held_updSum, held_updCmd, held_count64]; split <;> simp
      · split
        · simp
        · simp [ih]
@[simp] theorem held_contribute (s key u elems at_ gs) : (contribute s key u elems at_ gs).held = s.held := by
  unfold contribute
  split <;> simp

/-! The tensors that block commands, ATTN and memory-form MATMUL hold on cores (R168, R169, R427). -/

@[simp] theorem held_updTen (s k f) : (updTen s k f).held = s.held := by simp [updTen]
@[simp] theorem held_renameTen (s k k' num) : (renameTen s k k' num).held = s.held := by simp [renameTen]
@[simp] theorem held_freeTen (s k) : (freeTen s k).held = s.held := by
  unfold freeTen
  split <;> simp
@[simp] theorem held_freeSpares (s cmd c) : (freeSpares s cmd c).held = s.held := by simp [freeSpares]
@[simp] theorem held_moveFrames (s c plan) : (moveFrames s c plan).held = s.held := by simp [moveFrames]
@[simp] theorem held_repack (s cmd c) : (repack s cmd c).held = s.held := by simp [repack]
@[simp] theorem keepsOpt_bindBand {s₀ : State} (cmd c base rows width onto s b) (e₀ : s.held = s₀.held) : KeepsOpt s₀ (bindBand cmd c base rows width onto s b) := by
  unfold bindBand
  split <;> simp [e₀]
@[simp] theorem keepsOpt_bindBands {s₀ : State} (cmd c base rows width onto a u) (e₀ : u.held = s₀.held) : KeepsOpt s₀ (bindBands cmd c base rows width onto a u) := by
  induction a generalizing u with
  | nil => simpa [bindBands] using e₀
  | cons b t ih => exact KeepsOpt.bind (keepsOpt_bindBand cmd c base rows width onto u b e₀) fun v hv => ih v hv
@[simp] theorem held_takeSpare (s t b) : (takeSpare s t b).held = s.held := by simp [takeSpare]
@[simp] theorem held_claimTen (s cmd key src) : (claimTen s cmd key src).held = s.held := by
  unfold claimTen
  split <;> simp
@[simp] theorem held_readHandle (s cmd c h) : (readHandle s cmd c h).held = s.held := by simp [readHandle]
@[simp] theorem held_readTen (s cmd key) : (readTen s cmd key).held = s.held := by
  unfold readTen
  split <;> simp
@[simp] theorem held_retireTen (s t) : (retireTen s t).held = s.held := by simp [retireTen]
@[simp] theorem held_doneReading (s cmd key) : (doneReading s cmd key).held = s.held := by
  unfold doneReading
  split <;> simp
@[simp] theorem held_putElems (s c port h row col vs ctx) : (putElems s c port h row col vs ctx).1.held = s.held := by simp [putElems]

/-! Operations on cores (chapter 3). -/

@[simp] theorem held_readTile (s core port ctx t) : (readTile s core port ctx t).1.held = s.held := by
  unfold readTile
  split <;> simp
@[simp] theorem held_narrow {α : Type} (s : State) (id) (d : α) (f) : (State.narrow s id d f).1.held = s.held := by
  unfold State.narrow
  split <;> simp
@[simp] theorem held_accValue (s cmd core arr bank half row col) : (accValue s cmd core arr bank half row col).1.held = s.held := by simp [accValue]
@[simp] theorem held_accRow (s cmd core arr bank half row a) : (accRow s cmd core arr bank half row a).1.held = s.held := by
  induction a generalizing s cmd core arr bank half row <;> simp [accRow, *]
@[simp] theorem held_latchFault (s c bitsSet cause site half ids both) : (latchFault s c bitsSet cause site half ids both).held = s.held := by simp [latchFault]
@[simp] theorem held_siteFault (s c bitsSet kind rec_ half l) : (siteFault s c bitsSet kind rec_ half l).held = s.held := by simp [siteFault]
@[simp] theorem held_coreFaultAt (s c site kind half) : (coreFaultAt s c site kind half).held = s.held := by simp [coreFaultAt]
@[simp] theorem held_drainVals (p i s) : (drainVals p i s).1.held = s.held := by simp [drainVals]
@[simp] theorem held_drainNarrow (p i xs s) : (drainNarrow p i xs s).1.held = s.held := by simp [drainNarrow]
@[simp] theorem held_narrowVia (s cmd core num col xs) : (narrowVia s cmd core num col xs).1.held = s.held := by simp [narrowVia]
@[simp] theorem held_addOnto (s cmd core src row col num old vs) : (addOnto s cmd core src row col num old vs).1.held = s.held := by simp [addOnto]
@[simp] theorem held_dropAborts (cmd r) : (dropAborts cmd r).held = r.1.held := by simp [dropAborts]
@[simp] theorem held_drainRow (p i s) : (drainRow p i s).held = s.held := by
  simp only [drainRow]
  split <;> simp
@[simp] theorem held_drainRows (p a u) : (drainRows p a u).held = u.held := by
  induction a generalizing p u <;> simp [drainRows, *]
@[simp] theorem held_drainGroups (p a u) : (drainGroups p a u).1.held = u.held := by
  induction a generalizing p u <;> simp [drainGroups, *]
@[simp] theorem held_drainLines (p s) : (drainLines p s).held = s.held := by
  fun_cases drainLines p s <;> simp
@[simp] theorem held_runDrain (p s) : (runDrain p s).held = s.held := by
  unfold runDrain
  split <;> simp
@[simp] theorem held_clearAcc (s p) : (clearAcc s p).held = s.held := by simp [clearAcc]
@[simp] theorem held_enterOps (s c) : (enterOps s c).held = s.held := by simp [enterOps]
@[simp] theorem held_enterAllOps (s) : (enterAllOps s).held = s.held := by simp [enterAllOps]
@[simp] theorem held_acquireReads (s p) : (acquireReads s p).held = s.held := by simp [acquireReads]
@[simp] theorem held_setSite (s id f) : (setSite s id f).held = s.held := by simp [setSite]
@[simp] theorem held_runPass (s no site p q) : (runPass s no site p q).held = s.held := by simp [runPass]
@[simp] theorem held_startPass (no site s p) : (startPass no site s p).held = s.held := by
  unfold startPass
  split <;> simp
@[simp] theorem held_chargePass (s r) : (chargePass s r).held = s.held := by
  unfold chargePass
  refine held_foldl (fun s a => ?_) _ _
  (repeat' split) <;> simp
@[simp] theorem held_landPass (s r) : (landPass s r).held = s.held := by simp [landPass]
@[simp] theorem held_retirePass (s c site rs) : (retirePass s c site rs).held = s.held := by simp [retirePass]
@[simp] theorem held_sweepAcc (s) : (sweepAcc s).held = s.held := by simp [sweepAcc]
@[simp] theorem held_addOp (s ps) : (addOp s ps).held = s.held := by simp [addOp]
@[simp] theorem held_addVu (s v) : (addVu s v).held = s.held := by simp [addVu]

/-! The arithmetic of the vector unit (R105 to R107, R603, R604). -/

@[simp] theorem held_vuNarrow (s core cmd num plain xs) : (vuNarrow s core cmd num plain xs).1.held = s.held := by simp [vuNarrow]
@[simp] theorem held_vuPut (s v h r ws) : (vuPut s v h r ws).held = s.held := by
  unfold vuPut
  simp
@[simp] theorem held_vuOneRow (v r s) : (vuOneRow v r s).held = s.held := by simp [vuOneRow]
@[simp] theorem held_vuCheck (s v) : (vuCheck s v).1.held = s.held := by simp [vuCheck]
@[simp] theorem held_vuOutLines (s v) : (vuOutLines s v).held = s.held := by simp [vuOutLines]
@[simp] theorem held_vuRows {f : ℕ → State → State} (h : ∀ a0 a1, (f a0 a1).held = a1.held) (a u) : (vuRows f a u).held = u.held := by
  induction a generalizing u <;> simp [vuRows, *]

/-! Rows of block commands between the pads and memory, the delivery of sums over clusters. -/

@[simp] theorem held_readMat (s mmu x addr rows cols pitch f) : (readMat s mmu x addr rows cols pitch f).1.held = s.held := by simp [readMat]
@[simp] theorem held_fillRow (s cmd key r bs) : (fillRow s cmd key r bs).held = s.held := by
  unfold fillRow
  (repeat' split) <;> simp
@[simp] theorem held_takeRow (s cmd t r) : (takeRow s cmd t r).1.held = s.held := by simp [takeRow]
@[simp] theorem held_takeRows (s cmd t) : (takeRows s cmd t).1.held = s.held := by simp [takeRows]
@[simp] theorem held_loadTen (s cmd x key addr pitch) : (loadTen s cmd x key addr pitch).held = s.held := by
  unfold loadTen
  split <;> simp
@[simp] theorem held_storeRows (s cmd x key addr) : (storeRows s cmd x key addr).held = s.held := by
  unfold storeRows
  split <;> simp
@[simp] theorem held_storeTen (s cmd x key addr pitch) : (storeTen s cmd x key addr pitch).held = s.held := by simp [storeTen]
@[simp] theorem held_sumRow (s b r lane) : (sumRow s b r lane).1.held = s.held := by simp [sumRow]
@[simp] theorem held_deliverRow (b o col num r s) : (deliverRow b o col num r s).held = s.held := by
  simp only [deliverRow]
  split
  · simp
  · split <;> simp
@[simp] theorem held_writeSumRow (b x addr acc pitch num r s) : (writeSumRow b x addr acc pitch num r s).held = s.held := by simp [writeSumRow]
@[simp] theorem held_deliverSum (s x b) : (deliverSum s x b).held = s.held := by
  unfold deliverSum
  split <;> simp

/-! Commands that run on the cores of several clusters. -/

@[simp] theorem held_updRun (s id f) : (updRun s id f).held = s.held := by simp [updRun]
theorem keepsBind_bindGroups {s t : State} (h : t.held = s.held) (c gs) : KeepsBind s (bindGroups s t c gs) := by
  simp [bindGroups, h]
theorem keepsBind_bindFrame (cmd c f s) : KeepsBind s (bindFrame cmd c f s) := by
  unfold bindFrame
  split
  · split
    · simp
    · simp only
      cases h : bindBands cmd c _ _ _ _ _ s with
      | none => simp
      | some u => simpa using (keepsOpt_bindBands _ _ _ _ _ _ _ s rfl).held h
  · simp only
    split
    · simp
    · split
      · simp
      · next h =>
        refine keepsBind_bindGroups (((keepsOpt_bindBands _ _ _ _ _ _ _ _ rfl).held h).trans ?_) _ _
        split <;> split <;> simp
theorem keepsBind_bindAll (cmd c fs s) : KeepsBind s (bindAll cmd c fs s) := by
  induction fs generalizing s with
  | nil => simp [bindAll]
  | cons f fs ih =>
    unfold bindAll
    split
    · exact ih s
    · split
      · intro t ht
        exact (ih _ t ht).trans (by simp)
      · split
        · next h =>
          intro t ht
          exact (ih _ t ht).trans (keepsBind_bindFrame cmd c f s _ (.inl h))
        · exact keepsBind_bindFrame cmd c f s
@[simp] theorem keepsOpt_withFrames {f : State → State} (h : ∀ a0, (f a0).held = a0.held) {s₀ : State} (cmd core fs s) (e₀ : s.held = s₀.held) : KeepsOpt s₀ ((withFrames cmd core fs s f).map Prod.fst) := by
  have hb := keepsBind_bindAll cmd core fs s
  unfold withFrames
  split
  · simp
  · simpa [e₀] using hb _ (.inr ‹_›)
  · simp [e₀]
  · simpa [e₀, h] using hb _ (.inl ‹_›)
@[simp] theorem held_joinFeed (r p i feed w ring order s) : (joinFeed r p i feed w ring order s).held = s.held := by simp [joinFeed]
@[simp] theorem held_leaveFeed (cmd core i s) : (leaveFeed cmd core i s).held = s.held := by simp [leaveFeed]
@[simp] theorem held_readChunk (s x q c) : (readChunk s x q c).1.held = s.held := by simp [readChunk]
@[simp] theorem held_putPanel (src b c rows s) : (putPanel src b c rows s).held = s.held := by
  unfold putPanel
  simp
@[simp] theorem held_dropChunk (s b) : (dropChunk s b).held = s.held := by simp [dropChunk]
@[simp] theorem keepsOpt_feedOne {s₀ : State} (s) (e₀ : s.held = s₀.held) : KeepsOpt s₀ (feedOne s) := by
  refine keepsOpt_findSome (fun q => keepsOpt_bind (fun c => keepsOpt_bind (fun r => ?_) _) _) _
  simp only [keepsOpt_ite]
  split
  · simp
  · split <;> simp [e₀]
@[simp] theorem keepsOpt_passOne {s₀ : State} (s) (e₀ : s.held = s₀.held) : KeepsOpt s₀ (passOne s) := by
  refine keepsOpt_findSome (fun b => keepsOpt_bind (fun c => keepsOpt_bind (fun q => ?_) _) _) _
  simp only [keepsOpt_ite]
  split
  · simp
  · split
    · simp [e₀]
    · exact keepsOpt_bind (fun d => by simp [e₀]) _
@[simp] theorem held_fwdOp (r p w ring feed cls rows inH outH fIn t s) : (fwdOp r p w ring feed cls rows inH outH fIn t s).held = s.held := by simp [fwdOp]
@[simp] theorem held_bwdOp (r p b fDy outH s) : (bwdOp r p b fDy outH s).held = s.held := by simp [bwdOp]
@[simp] theorem keepsOpt_startMat {s₀ : State} (r p t retain s) (e₀ : s.held = s₀.held) : KeepsOpt s₀ ((startMat r p t retain s).map Prod.fst) := by simp [startMat, e₀]
@[simp] theorem held_weightSum (r i k g s) : (weightSum r i k g s).held = s.held := by simp [weightSum]
@[simp] theorem keepsOpt_bwdMat {s₀ : State} (r p i k sw pos s) (e₀ : s.held = s₀.held) : KeepsOpt s₀ ((bwdMat r p i k sw pos s).map Prod.fst) := by simp [bwdMat, e₀]

/-! Vector-unit work of block commands. -/

@[simp] theorem held_readAux (r p i k ent s) : (readAux r p i k ent s).1.held = s.held := by simp [readAux]
@[simp] theorem held_auxOf (r p i k s) : (auxOf r p i k s).1.held = s.held := by simp [auxOf]
@[simp] theorem held_stageVu (r p i k rows ins out num a b mode s) : (stageVu r p i k rows ins out num a b mode s).held = s.held := by simp [stageVu]
@[simp] theorem keepsOpt_startVec {s₀ : State} (r p t retain s) (e₀ : s.held = s₀.held) : KeepsOpt s₀ ((startVec r p t retain s).map Prod.fst) := by simp [startVec, e₀]
@[simp] theorem keepsOpt_bwdVec {s₀ : State} (r p i k sw s) (e₀ : s.held = s₀.held) : KeepsOpt s₀ ((bwdVec r p i k sw s).map Prod.fst) := by simp [bwdVec, e₀]
@[simp] theorem held_bwdRow (r v i k free n s) : (bwdRow r v i k free n s).held = s.held := by simp [bwdRow]
@[simp] theorem held_auxGroup (r v num room vals j s) : (auxGroup r v num room vals j s).1.held = s.held := by simp [auxGroup]
@[simp] theorem held_auxSum (r v i k e rows s) : (auxSum r v i k e rows s).held = s.held := by simp [auxSum]
@[simp] theorem held_runBwd (v i k s) : (runBwd v i k s).held = s.held := by
  unfold runBwd
  split <;> simp
@[simp] theorem held_attnRow (v step d kb q0 col causal n s) : (attnRow v step d kb q0 col causal n s).held = s.held := by simp [attnRow]
@[simp] theorem held_runVu (s v) : (runVu s v).held = s.held := by
  simp only [runVu]
  split <;> split <;> simp

/-! Attention on the cores of a cluster (R431 to R434). -/

@[simp] theorem held_attentionProduct (a cls fA fB pair ps writes s) : (Attn.product a cls fA fB pair ps writes s).held = s.held := by simp [Attn.product]
@[simp] theorem held_attentionBlock (a cls pair kb xc kc out x fX insX s) : (Attn.block a cls pair kb xc kc out x fX insX s).held = s.held := by simp [Attn.block]
@[simp] theorem held_attentionGather (a cls pair kb kc col head w fW s) : (Attn.gather a cls pair kb kc col head w fW s).held = s.held := by simp [Attn.gather]
@[simp] theorem held_attentionKeyGrad (a kb head v w fW x xc insX fX s) : (Attn.keyGrad a kb head v w fW x xc insX fX s).held = s.held := by simp [Attn.keyGrad]
@[simp] theorem held_attentionVu (a step kb h ins out num s) : (Attn.vu a step kb h ins out num s).held = s.held := by simp [Attn.vu]
@[simp] theorem held_attentionStart (a op s) : (Attn.start a op s).held = s.held := by
  unfold Attn.start
  (repeat' split) <;> simp
@[simp] theorem held_attentionFinish (a op s) : (Attn.finish a op s).held = s.held := by simp [Attn.finish]
@[simp] theorem held_attentionSums (a s) : (Attn.sums a s).held = s.held := by simp [Attn.sums]
@[simp] theorem held_openCols (s cmd key mine) : (openCols s cmd key mine).held = s.held := by
  unfold openCols
  split <;> simp
@[simp] theorem keepsOpt_attentionBegin {s₀ : State} (a retain onto rows s) (e₀ : s.held = s₀.held) : KeepsOpt s₀ ((Attn.begin a retain onto rows s).map Prod.fst) := by simp [Attn.begin, e₀]
@[simp] theorem keepsOpt_attentionNext {s₀ : State} (a sub rows s) (e₀ : s.held = s₀.held) : KeepsOpt s₀ ((Attn.next a sub rows s).map Prod.fst) := by
  unfold Attn.next
  split
  · simp
  · simp only
    split
    · simp [e₀]
    · split <;> simp [e₀]

/-! The saddlebag. -/

@[simp] theorem held_wakeWays (s r) : (wakeWays s r).held = s.held := by simp [wakeWays]
@[simp] theorem held_sthMove (s d n) : (sthMove s d n).held = s.held := by simp [sthMove]
@[simp] theorem held_sthWrite (s d blocks off bs) : (sthWrite s d blocks off bs).held = s.held := by simp [sthWrite]
@[simp] theorem held_sthUe (s w patrol ctx) : (sthUe s w patrol ctx).held = s.held := by simp [sthUe]
@[simp] theorem held_sthStorm (s d way) : (sthStorm s d way).held = s.held := by simp [sthStorm]
@[simp] theorem held_sthCe (s w patrol) : (sthCe s w patrol).held = s.held := by simp [sthCe]
@[simp] theorem held_sthCheck (s patrol ctx has) : (sthCheck s patrol ctx has).1.held = s.held := by simp [sthCheck]
@[simp] theorem held_updStored (s t f) : (updStored s t f).held = s.held := by simp [updStored]
@[simp] theorem held_dropStored (s f) : (dropStored s f).held = s.held := by simp [dropStored]
@[simp] theorem held_updOffload (s o f) : (updOffload s o f).held = s.held := by simp [updOffload]
@[simp] theorem held_dropOffload (s o) : (dropOffload s o).held = s.held := by simp [dropOffload]
@[simp] theorem held_loseX (s r i) : (loseX s r i).held = s.held := by simp [loseX]
@[simp] theorem held_partBytes (s r p i) : (partBytes s r p i).1.held = s.held := by
  unfold partBytes
  split <;> simp
@[simp] theorem held_stashRows (s r i blocks) : (stashRows s r i blocks).held = s.held := by simp [stashRows]
@[simp] theorem held_fillX (s r p i bs) : (fillX s r p i bs).held = s.held := by simp [fillX]
@[simp] theorem keepsOpt_bringX {f : State → State} (h : ∀ a0, (f a0).held = a0.held) {s₀ : State} (r p i src s) (e₀ : s.held = s₀.held) : KeepsOpt s₀ ((bringX r p i src f s).map Prod.fst) := by
  fun_cases bringX r p i src f s <;> simp [*]
@[simp] theorem keepsOpt_readStored {s₀ : State} (s r p t i) (e₀ : s.held = s₀.held) : KeepsOpt s₀ ((readStored s r p t i).map Prod.fst) := by simp [readStored, e₀]
@[simp] theorem held_offloadBytes (s r o i off n) : (offloadBytes s r o i off n).1.held = s.held := by simp [offloadBytes]
@[simp] theorem held_leadRead (s r o off n dst) : (leadRead s r o off n dst).held = s.held := by simp [leadRead]
@[simp] theorem held_dropFetch (s r i) : (dropFetch s r i).held = s.held := by simp [dropFetch]
@[simp] theorem held_askRows (r p o i s) : (askRows r p o i s).held = s.held := by simp [askRows]
@[simp] theorem keepsOpt_readOffload {s₀ : State} (s r p o i) (e₀ : s.held = s₀.held) : KeepsOpt s₀ ((readOffload s r p o i).map Prod.fst) := by
  unfold readOffload
  simp only
  split
  · simp [e₀]
  · split
    · split <;> simp [e₀]
    · split <;> split <;> simp [e₀]
@[simp] theorem keepsOpt_obtainX {s₀ : State} (s r p i) (e₀ : s.held = s₀.held) : KeepsOpt s₀ ((obtainX s r p i).map Prod.fst) := by
  unfold obtainX
  (repeat' split) <;> simp [e₀]

/-! The steps of commands that run on the cores of several clusters. -/

@[simp] theorem held_parkOne (s r p t) : (parkOne s r p t).held = s.held := by simp [parkOne]
@[simp] theorem keepsOpt_unparkOne {s₀ : State} (s r p t off) (e₀ : s.held = s₀.held) : KeepsOpt s₀ ((unparkOne s r p t off).map Prod.fst) := by simp [unparkOne, e₀]
@[simp] theorem keepsOpt_parkNext {s₀ : State} (s r p pos step) (e₀ : s.held = s₀.held) : KeepsOpt s₀ (parkNext s r p pos step) := by
  unfold parkNext
  split
  · simp [e₀]
  · refine KeepsOpt.bind_fst (keepsOpt_unparkOne s r p _ _ e₀) fun u hu => ?_
    split
    · simpa using hu
    · exact keepsOpt_some.2 hu
  · simp
@[simp] theorem keepsOpt_loadInto {s₀ : State} (r p key num rows cols addr pitch s) (e₀ : s.held = s₀.held) : KeepsOpt s₀ ((loadInto r p key num rows cols addr pitch s).map Prod.fst) := by simp [loadInto, e₀]
@[simp] theorem keepsOpt_startLoadX {s₀ : State} (r p s) (e₀ : s.held = s₀.held) : KeepsOpt s₀ ((startLoadX r p s).map Prod.fst) := by simp [startLoadX, e₀]
@[simp] theorem keepsOpt_startLoadDy {s₀ : State} (r p sw s) (e₀ : s.held = s₀.held) : KeepsOpt s₀ ((startLoadDy r p sw s).map Prod.fst) := by simp [startLoadDy, e₀]
@[simp] theorem held_storeY (r p s) : (storeY r p s).held = s.held := by simp [storeY]
@[simp] theorem held_storeDx (r p sw s) : (storeDx r p sw s).held = s.held := by simp [storeDx]
@[simp] theorem held_keepRows (r p k s) : (keepRows r p k s).held = s.held := by
  unfold keepRows
  split <;> simp
@[simp] theorem held_failRun (s r) : (failRun s r).held = s.held := by simp [failRun]
@[simp] theorem keepsOpt_mmLoad {s₀ : State} (r p n q s) (e₀ : s.held = s₀.held) : KeepsOpt s₀ ((mmLoad r p n q s).map Prod.fst) := by simp [mmLoad, e₀]
@[simp] theorem keepsOpt_mmRun {s₀ : State} (r p pos n q c s) (e₀ : s.held = s₀.held) : KeepsOpt s₀ ((mmRun r p pos n q c s).map Prod.fst) := by simp [mmRun, e₀]
@[simp] theorem held_mmStore (r p n q c s) : (mmStore r p n q c s).held = s.held := by
  unfold mmStore
  split <;> simp
@[simp] theorem keepsOpt_startFwd {s₀ : State} (r p pos i k s) (e₀ : s.held = s₀.held) : KeepsOpt s₀ ((startFwd r p pos i k s).map Prod.fst) := by
  unfold startFwd
  (repeat' split) <;> simp [e₀]
@[simp] theorem held_renumTen (s key num retain) : (renumTen s key num retain).held = s.held := by
  unfold renumTen
  split <;> simp
@[simp] theorem held_endFwdStage (r p i k s) : (endFwdStage r p i k s).held = s.held := by simp [endFwdStage]
@[simp] theorem held_endLayer (r p i s) : (endLayer r p i s).held = s.held := by simp [endLayer]
@[simp] theorem keepsOpt_startRe {s₀ : State} (r p pos i k sw s) (e₀ : s.held = s₀.held) : KeepsOpt s₀ ((startRe r p pos i k sw s).map Prod.fst) := by
  unfold startRe
  (repeat' split) <;> simp [e₀]
@[simp] theorem keepsOpt_startBwd {s₀ : State} (r p pos i k sw s) (e₀ : s.held = s₀.held) : KeepsOpt s₀ ((startBwd r p pos i k sw s).map Prod.fst) := by
  unfold startBwd
  split <;> simp [e₀]
@[simp] theorem held_releaseDead (r p pos i s) : (releaseDead r p pos i s).held = s.held := by simp [releaseDead]
@[simp] theorem held_endSweepStep (r p pos step s) : (endSweepStep r p pos step s).held = s.held := by
  unfold endSweepStep
  split <;> simp
@[simp] theorem held_splitTen (s key k0 k1) : (splitTen s key k0 k1).held = s.held := by
  unfold splitTen
  (repeat' split) <;> simp
@[simp] theorem keepsOpt_startSweep {s₀ : State} (r p i s) (e₀ : s.held = s₀.held) : KeepsOpt s₀ ((startSweep r p i s).map Prod.fst) := by simp [startSweep, e₀]
@[simp] theorem held_joinDx (r p i s) : (joinDx r p i s).held = s.held := by simp [joinDx]
@[simp] theorem held_releaseX (s r i) : (releaseX s r i).held = s.held := by simp [releaseX]
@[simp] theorem keepsOpt_startStep {s₀ : State} (r p pos step s) (e₀ : s.held = s₀.held) : KeepsOpt s₀ ((startStep r p pos step s).map Prod.fst) := by
  unfold startStep
  split <;> simp [e₀]
@[simp] theorem keepsOpt_endStep {s₀ : State} (r p j step s) (e₀ : s.held = s₀.held) : KeepsOpt s₀ ((endStep r p j step s).map Prod.fst) := by
  have attention (rows : Nat) (f : State → State) (hf : ∀ s, (f s).held = s.held) : KeepsOpt s₀
      (((attnOf r p step).bind fun a => (a.next (r.sub.getD j 0) rows s).map fun u =>
        if u.2.isSome then u else (f u.1, none)).map Prod.fst) := by
    rw [Option.map_bind]
    refine keepsOpt_bind (fun a => ?_) _
    rw [Function.comp_apply, Option.map_map]
    exact (keepsOpt_attentionNext a _ rows s e₀).map fun u => by simp only [Function.comp_apply]; split <;> simp [hf]
  simp only [endStep]
  split
  case h_2 =>
    split
    · exact attention _ _ fun s => by simp
    · split <;> simp [e₀]
  case h_8 =>
    split
    · exact attention _ _ fun s => by simp
    · split <;> simp [e₀]
  case h_9 =>
    split
    · exact attention _ _ fun s => by simp
    · split <;> simp [e₀]
  case h_1 => split <;> simp [e₀]
  case h_4 => split <;> simp [e₀]
  case h_5 => split <;> simp [e₀]
  case h_6 => split <;> simp [e₀]
  case h_12 => split <;> simp [e₀]
  case h_13 => split <;> simp [e₀]
  all_goals simp [e₀]
@[simp] theorem keepsOpt_advancePart {s₀ : State} (id j s) (e₀ : s.held = s₀.held) : KeepsOpt s₀ (advancePart id j s) := by
  unfold advancePart
  split
  · simp
  · split
    · simp
    · split
      · simp only
        split
        · exact (keepsOpt_startStep _ _ _ _ s e₀).map fun u => by simp
        · exact (keepsOpt_endStep _ _ _ _ s e₀).map fun u => by split <;> simp
      · simp
@[simp] theorem held_releaseStash (s t) : (releaseStash s t).held = s.held := by simp [releaseStash]
@[simp] theorem held_leaveStash (r s) : (leaveStash r s).held = s.held := by simp [leaveStash]
@[simp] theorem held_finishRun (r s) : (finishRun r s).held = s.held := by simp [finishRun]
@[simp] theorem keepsOpt_deliverOne {s₀ : State} (s) (e₀ : s.held = s₀.held) : KeepsOpt s₀ (deliverOne s) := by simp [deliverOne, e₀]
@[simp] theorem keepsOpt_drainAcked {s₀ : State} (s) (e₀ : s.held = s₀.held) : KeepsOpt s₀ (drainAcked s) := by simp [drainAcked, e₀]
@[simp] theorem keepsOpt_blockOnce {s₀ : State} (s) (e₀ : s.held = s₀.held) : KeepsOpt s₀ (blockOnce s) := by
  unfold blockOnce
  refine (keepsOpt_deliverOne s e₀).orElse ((keepsOpt_drainAcked s e₀).orElse ((keepsOpt_feedOne s e₀).orElse
    ((keepsOpt_passOne s e₀).orElse (KeepsOpt.orElse ?_ ?_))))
  · exact keepsOpt_findSome (fun r : BRun => keepsOpt_findSome (fun j => keepsOpt_advancePart r.cmd j s e₀) _) _
  · simp [e₀]
@[simp] theorem held_kickBlocks (a u) : (kickBlocks a u).held = u.held := by
  induction a generalizing u with
  | zero => rfl
  | succ n ih =>
    unfold kickBlocks
    split
    case h_1 h => rw [ih, (keepsOpt_blockOnce u rfl).held h]
    case h_2 => rfl
@[simp] theorem held_kickAll (s) : (kickAll s).held = s.held := by simp [kickAll]

/-! MATMUL (R428, R429, R99 to R102) and the steps of the cores' engines. -/

@[simp] theorem held_acquireAt (s x va ver) : (acquireAt s x va ver).1.held = s.held := by
  have h := held_reachVRec s x va
  unfold acquireAt
  split <;> exact held_of_eq_pair h ‹_›
@[simp] theorem held_joinBatch (id x p s) : (joinBatch id x p s).held = s.held := by
  simp only [joinBatch]
  cases (s.updCmd id fun c => { c with batched := true }).cp.batches.find? fun b => b.ctx == x && b.key == batchKey p <;>
    simp only [] <;> split <;> simp
@[simp] theorem held_holdForBatch (id q p s) : (holdForBatch id q p s).held = s.held := by simp [holdForBatch]
@[simp] theorem held_mmMemStart (q p pa s) : (mmMemStart q p pa s).held = s.held := by simp [mmMemStart]
@[simp] theorem held_mmMemIssue (q p s) : (mmMemIssue q p s).held = s.held := by simp [mmMemIssue]
@[simp] theorem held_mmHandleOp (s id p) : (mmHandleOp s id p).held = s.held := by simp [mmHandleOp]
@[simp] theorem held_mmHandleStart (q p s) : (mmHandleStart q p s).held = s.held := by simp [mmHandleStart]
@[simp] theorem held_mmHandleIssue (q p s) : (mmHandleIssue q p s).held = s.held := by simp [mmHandleIssue]
@[simp] theorem keeps_execMatmul (q s) : Keeps s (execMatmul q s) := by simp [execMatmul]
@[simp] theorem keeps_execBatchWindowExpiry (n s) : Keeps s (execBatchWindowExpiry n s) := by
  unfold execBatchWindowExpiry
  split <;> simp
@[simp] theorem keeps_execBatchBudgetDeadline (n s) : Keeps s (execBatchBudgetDeadline n s) := by
  unfold execBatchBudgetDeadline
  split <;> simp
@[simp] theorem held_withCluster {f : State → State} (h : ∀ a0, (f a0).held = a0.held) (c s) : (withCluster c f s).held = s.held := by
  unfold withCluster
  (repeat' split) <;> simp_all
@[simp] theorem held_takeProduct (c site s p) : (takeProduct c site s p).held = s.held := by
  simp only [takeProduct]
  split <;> simp
@[simp] theorem held_wakeFor (c site s) : (wakeFor c site s).held = s.held := by
  unfold wakeFor
  split <;> simp
@[simp] theorem keeps_execProductTake (core site s) : Keeps s (execProductTake core site s) := by
  unfold execProductTake
  refine keeps_unitStep ?_ _ _
  rw [held_withCluster, held_kickAll]
  intro s
  split
  · split <;> simp
  · simp
@[simp] theorem held_issuePass (site ps s) : (issuePass site ps s).held = s.held := by simp [issuePass]
@[simp] theorem keeps_execPassIssue (core site s) : Keeps s (execPassIssue core site s) := by simp [execPassIssue]
@[simp] theorem held_disarmInj (s c) : (disarmInj s c).held = s.held := by simp [disarmInj]
@[simp] theorem keeps_execPassRetire (core site s) : Keeps s (execPassRetire core site s) := by
  simp only [execPassRetire]
  refine keeps_unitStep ?_ _ _
  split
  · simp
  · split <;> simp
@[simp] theorem held_drainHazard (s p hz) : (drainHazard s p hz).held = s.held := by
  unfold drainHazard
  split <;> simp
@[simp] theorem held_finishDrain (p hz s) : (finishDrain p hz s).held = s.held := by simp [finishDrain]
@[simp] theorem keeps_execDrainDone (core n hz s) : Keeps s (execDrainDone core n hz s) := by
  unfold execDrainDone
  refine keeps_unitStep ?_ _ _
  split <;> simp
@[simp] theorem keeps_execCoreFault (core site kind info s) : Keeps s (execCoreFault core site kind info s) := by simp [execCoreFault]

/-! VEC (R435) and the operations of the vector units (R105 to R107, R603, R604). -/

@[simp] theorem held_vecAuxVals (s x id p) : (vecAuxVals s x id p).1.held = s.held := by simp [vecAuxVals]
@[simp] theorem held_vecStart (q p s) : (vecStart q p s).held = s.held := by simp [vecStart]
@[simp] theorem held_vecIssue (q p s) : (vecIssue q p s).held = s.held := by simp [vecIssue]
@[simp] theorem keeps_execVec (q s) : Keeps s (execVec q s) := by simp [execVec]
@[simp] theorem held_vuAcquire (s v) : (vuAcquire s v).held = s.held := by simp [vuAcquire]
@[simp] theorem held_vuWake (s v) : (vuWake s v).held = s.held := by simp [vuWake]
@[simp] theorem held_vuFinish (v hz s) : (vuFinish v hz s).held = s.held := by simp [vuFinish]
@[simp] theorem held_vuPerform (v hz s) : (vuPerform v hz s).held = s.held := by simp [vuPerform]
@[simp] theorem keeps_vuRun (op alt core hz s) : Keeps s (vuRun op alt core hz s) := by
  unfold vuRun
  refine keeps_unitStep ?_ _ _
  split <;> simp
@[simp] theorem keeps_execAdd (core hz s) : Keeps s (execAdd core hz s) := by simp [execAdd]
@[simp] theorem keeps_execSub (core hz s) : Keeps s (execSub core hz s) := by simp [execSub]
@[simp] theorem keeps_execMul (core hz s) : Keeps s (execMul core hz s) := by simp [execMul]
@[simp] theorem keeps_execFma (core hz s) : Keeps s (execFma core hz s) := by simp [execFma]
@[simp] theorem keeps_execMax (core hz s) : Keeps s (execMax core hz s) := by simp [execMax]
@[simp] theorem keeps_execMin (core hz s) : Keeps s (execMin core hz s) := by simp [execMin]
@[simp] theorem keeps_execScaleBias (core hz s) : Keeps s (execScaleBias core hz s) := by simp [execScaleBias]
@[simp] theorem keeps_execExp2 (core hz s) : Keeps s (execExp2 core hz s) := by simp [execExp2]
@[simp] theorem keeps_execLog2 (core hz s) : Keeps s (execLog2 core hz s) := by simp [execLog2]
@[simp] theorem keeps_execRcp (core hz s) : Keeps s (execRcp core hz s) := by simp [execRcp]
@[simp] theorem keeps_execRsqrt (core hz s) : Keeps s (execRsqrt core hz s) := by simp [execRsqrt]
@[simp] theorem keeps_execGelu (core hz s) : Keeps s (execGelu core hz s) := by simp [execGelu]
@[simp] theorem keeps_execSilu (core hz s) : Keeps s (execSilu core hz s) := by simp [execSilu]
@[simp] theorem keeps_execSigmoid (core hz s) : Keeps s (execSigmoid core hz s) := by simp [execSigmoid]
@[simp] theorem keeps_execTanh (core hz s) : Keeps s (execTanh core hz s) := by simp [execTanh]
@[simp] theorem keeps_execRowSum (core hz s) : Keeps s (execRowSum core hz s) := by simp [execRowSum]
@[simp] theorem keeps_execRowMax (core hz s) : Keeps s (execRowMax core hz s) := by simp [execRowMax]
@[simp] theorem keeps_execSoftmaxRow (core hz s) : Keeps s (execSoftmaxRow core hz s) := by simp [execSoftmaxRow]
@[simp] theorem keeps_execNormRow (core hz s) : Keeps s (execNormRow core hz s) := by simp [execNormRow]
@[simp] theorem keeps_execCast (core hz s) : Keeps s (execCast core hz s) := by simp [execCast]

/-! Block commands (R153 to R206), ATTN (R430). -/

@[simp] theorem held_readDescs (s x n table bwd) : (readDescs s x n table bwd).1.held = s.held := by simp [readDescs]
@[simp] theorem held_reachAll (s x ls) : (reachAll s x ls).1.held = s.held := by
  refine held_foldl_fst (fun r l => ?_) _ _
  split
  · rfl
  · split <;> exact held_of_eq_pair (held_reachVRec r.1 x l.wAddr) ‹_›
@[simp] theorem held_acquireAll (s refs) : (acquireAll s refs).1.held = s.held := by simp [acquireAll]
@[simp] theorem held_blockStart (kind q p refs ls s) : (blockStart kind q p refs ls s).held = s.held := by simp [blockStart]
@[simp] theorem held_blockIssue (kind q p s) : (blockIssue kind q p s).held = s.held := by simp [blockIssue]
@[simp] theorem keeps_execBlockFwd (q s) : Keeps s (execBlockFwd q s) := by simp [execBlockFwd]
@[simp] theorem keeps_execBlockTrain (q s) : Keeps s (execBlockTrain q s) := by simp [execBlockTrain]
@[simp] theorem keeps_execBlockBwd (q s) : Keeps s (execBlockBwd q s) := by simp [execBlockBwd]
@[simp] theorem held_attnStart (q p s) : (attnStart q p s).held = s.held := by simp [attnStart]
@[simp] theorem held_attnIssue (q p s) : (attnIssue q p s).held = s.held := by simp [attnIssue]
@[simp] theorem keeps_execAttn (q s) : Keeps s (execAttn q s) := by simp [execAttn]
@[simp] theorem keeps_execVersionRelease (q s) : Keeps s (execVersionRelease q s) := by
  refine keeps_onHead (fun p s => ?_) _ _ _
  simp only
  split
  · simp
  · split
    · simp
    · split <;> simp
@[simp] theorem keeps_onRun {f : BRun → State → State} (h : ∀ a0 a1, (f a0 a1).held = a1.held) (id s) : Keeps s (onRun id s f) := by
  unfold onRun
  (repeat' split) <;> simp_all
@[simp] theorem held_demote (s r i later) : (demote s r i later).held = s.held := by simp [demote]
@[simp] theorem held_hold (s r i use blocks) : (hold s r i use blocks).held = s.held := by simp [hold]
@[simp] theorem held_reserveOffload (s r i) : (reserveOffload s r i).held = s.held := by
  unfold reserveOffload
  split <;> simp
@[simp] theorem keeps_execStashReserve (id layer s) : Keeps s (execStashReserve id layer s) := by
  simp only [execStashReserve]
  refine keeps_onRun (fun r s => ?_) _ _
  split
  · simp
  · split
    · simp
    · split
      · simp
      · split <;> simp
@[simp] theorem held_beatWays (s r) : (beatWays s r).held = s.held := by simp [beatWays]
@[simp] theorem held_copyStash (r layer t s) : (copyStash r layer t s).held = s.held := by simp [copyStash]
@[simp] theorem keeps_execStashCopyLanded (id layer s) : Keeps s (execStashCopyLanded id layer s) := by
  unfold execStashCopyLanded
  refine keeps_onRun (fun r s => ?_) _ _
  split <;> simp
@[simp] theorem held_freeStaging (r layer s) : (freeStaging r layer s).held = s.held := by simp [freeStaging]
@[simp] theorem held_putOffload (r o bs s) : (putOffload r o bs s).held = s.held := by
  unfold putOffload
  split
  · split <;> simp
  · simp
@[simp] theorem held_drainOut (r layer o bs s) : (drainOut r layer o bs s).held = s.held := by simp [drainOut]
@[simp] theorem held_drainPads (r layer o s) : (drainPads r layer o s).held = s.held := by simp [drainPads]
@[simp] theorem held_drainBlocks (r layer o t s) : (drainBlocks r layer o t s).held = s.held := by simp [drainBlocks]
@[simp] theorem keeps_execOffloadDrainDone (id layer s) : Keeps s (execOffloadDrainDone id layer s) := by
  unfold execOffloadDrainDone
  refine keeps_onRun (fun r s => ?_) _ _
  split
  · simp
  · split
    · simp
    · split <;> simp
@[simp] theorem held_askFetch (r o i s) : (askFetch r o i s).held = s.held := by
  unfold askFetch
  refine held_foldl (fun s a => ?_) _ _
  simp
@[simp] theorem held_startFetch (r layer o s) : (startFetch r layer o s).held = s.held := by
  unfold startFetch
  split <;> simp
@[simp] theorem keeps_execOffloadFetchStart (id layer s) : Keeps s (execOffloadFetchStart id layer s) := by
  unfold execOffloadFetchStart
  refine keeps_onRun (fun r s => ?_) _ _
  split <;> simp
@[simp] theorem held_fetchIn (r layer t b s) : (fetchIn r layer t b s).held = s.held := by simp [fetchIn]
@[simp] theorem keeps_execOffloadFetchDone (id layer s) : Keeps s (execOffloadFetchDone id layer s) := by
  simp only [execOffloadFetchDone]
  refine keeps_onRun (fun r s => ?_) _ _
  split
  · split
    · simp
    · split <;> simp
  · simp
@[simp] theorem held_landFetch (s cmd layer off bs) : (landFetch s cmd layer off bs).held = s.held := by
  unfold landFetch
  split <;> simp
@[simp] theorem held_keepBelow (r j n a) : (keepBelow r j n a).1.held = a.1.held := by
  induction n generalizing a with
  | zero => rfl
  | succ n ih =>
    unfold keepBelow
    split
    · rfl
    · split
      · simp [ih]
      · rfl
@[simp] theorem held_rebuildNow (r layer s) : (rebuildNow r layer s).held = s.held := by
  simp only [rebuildNow]
  simp
@[simp] theorem keeps_execRebuildRun (id layer s) : Keeps s (execRebuildRun id layer s) := by simp [execRebuildRun]
@[simp] theorem keepsOpt_parkStep {s₀ : State} (s core) (e₀ : s.held = s₀.held) : KeepsOpt s₀ (parkStep s core) := by
  refine keepsOpt_findSome (fun r => keepsOpt_findSome (fun j => ?_) _) _
  split
  · split <;> simp [e₀]
  · simp
@[simp] theorem keeps_execParkTransfer (core s) : Keeps s (execParkTransfer core s) := by
  refine keeps_unitStep ?_ _ _
  split
  · rfl
  · cases h : parkStep s core with
    | none => rfl
    | some t => simpa using (keepsOpt_parkStep s core rfl).held h
@[simp] theorem keeps_execSthPatrolRead (die word finding s) : Keeps s (execSthPatrolRead die word finding s) := by simp [execSthPatrolRead]

/-! The steps of the core pads. -/

@[simp] theorem held_foundCells (s line findings) : (foundCells s line findings).held = s.held := by
  unfold foundCells
  refine held_foldl (fun s a => ?_) _ _
  simp
@[simp] theorem keeps_execPadPatrolRead (core word bank findings s) : Keeps s (execPadPatrolRead core word bank findings s) := by simp [execPadPatrolRead]
@[simp] theorem keeps_execPadScrubDone (core s) : Keeps s (execPadScrubDone core s) := by
  unfold execPadScrubDone
  refine keeps_unitStep ?_ _ _
  split <;> simp
@[simp] theorem keeps_execBankGroupGateRequest (core group s) : Keeps s (execBankGroupGateRequest core group s) := by simp [execBankGroupGateRequest]
@[simp] theorem held_gateGroup (s c g) : (gateGroup s c g).held = s.held := by simp [gateGroup]
@[simp] theorem keeps_execBankGroupGated (core group s) : Keeps s (execBankGroupGated core group s) := by simp [execBankGroupGated]
@[simp] theorem keeps_execBankGroupWakeDone (core group s) : Keeps s (execBankGroupWakeDone core group s) := by simp [execBankGroupWakeDone]
@[simp] theorem held_gateAbort (s d) : (gateAbort s d).held = s.held := by simp [gateAbort]
@[simp] theorem keeps_execGateAbandon (kind unit s) : Keeps s (execGateAbandon kind unit s) := by simp [execGateAbandon]

/-! Checked reduction (chapter 9). -/

@[simp] theorem held_setStepEntry (s x step b) : (setStepEntry s x step b).held = s.held := by simp [setStepEntry]
@[simp] theorem keepsOpt_stepIssue {s₀ : State} (s x n) (e₀ : s.held = s₀.held) : KeepsOpt s₀ (stepIssue s x n) := by simp [stepIssue, e₀]
@[simp] theorem held_orStepFlags (s x n f) : (orStepFlags s x n f).held = s.held := by simp [orStepFlags]
@[simp] theorem held_updColl (s cmd serial f) : (updColl s cmd serial f).held = s.held := by simp [updColl]
@[simp] theorem held_dropColl (s cmd serial) : (dropColl s cmd serial).held = s.held := by simp [dropColl]
@[simp] theorem held_injectSend (s u c) : (injectSend s u c).1.held = s.held := by simp [injectSend]
@[simp] theorem held_transmit (s u dest ctx c) : (transmit s u dest ctx c).held = s.held := by simp [transmit]
@[simp] theorem held_sendHdr (s type dest ctx gen h) : (sendHdr s type dest ctx gen h).held = s.held := by simp [sendHdr]
@[simp] theorem held_leave (s o) : (leave s o).held = s.held := by
  unfold leave
  split <;> simp
@[simp] theorem held_pumpReds (a u) : (pumpReds a u).held = u.held := by
  induction a generalizing u with
  | zero => rfl
  | succ n ih =>
    unfold pumpReds
    (repeat' split) <;> simp [ih]
@[simp] theorem held_queueOut (s c unit dest m) : (queueOut s c unit dest m).held = s.held := by simp [queueOut]
@[simp] theorem held_checkFailed (s c u idx group kind) : (checkFailed s c u idx group kind).1.held = s.held := by simp [checkFailed]
@[simp] theorem held_ackChunk (s k c) : (ackChunk s k c).held = s.held := by simp [ackChunk]
@[simp] theorem held_againChunk (s dest ctx gen c) : (againChunk s dest ctx gen c).held = s.held := by simp [againChunk]
@[simp] theorem held_countSats (s cmd n) : (countSats s cmd n).held = s.held := by simp [countSats]
@[simp] theorem held_ackChild (s c j k) : (ackChild s c j k).held = s.held := by simp [ackChild]
@[simp] theorem held_discardHeld (s cmd serial) : (discardHeld s cmd serial).held = s.held := by
  unfold discardHeld
  split <;> simp
@[simp] theorem held_addStage (s c held port k child) : (addStage s c held port k child).held = s.held := by
  simp only [addStage]
  repeat' split
  all_goals simp
@[simp] theorem keepsOpt_upSum {s₀ : State} (s c) (e₀ : s.held = s₀.held) : KeepsOpt s₀ (upSum s c) := by
  unfold upSum
  (repeat' split) <;> simp [e₀]
@[simp] theorem keepsOpt_upCat {s₀ : State} (s c) (e₀ : s.held = s₀.held) : KeepsOpt s₀ (upCat s c) := by
  unfold upCat
  split
  · simp
  · split
    · split <;> simp [e₀]
    · split
      · simp
      · cases h : c.inputs.find? (·.1 == c.stage - 1) <;> simp [h, e₀]
@[simp] theorem held_deliverElems (s cmd u num n k) : (deliverElems s cmd u num n k).1.held = s.held := by simp [deliverElems]
@[simp] theorem held_deliverChunk (s c u k) : (deliverChunk s c u k).held = s.held := by simp [deliverChunk]
@[simp] theorem held_writeCopy (s c k) : (writeCopy s c k).held = s.held := by simp [writeCopy]
@[simp] theorem held_stepEnd (s c h st) : (stepEnd s c h st).held = s.held := by simp [stepEnd]
@[simp] theorem held_writeHdr (s c h) : (writeHdr s c h).held = s.held := by simp [writeHdr]
@[simp] theorem held_endColl (s c h) : (endColl s c h).held = s.held := by simp [endColl]
@[simp] theorem held_lrNarrow (s cmd num mask w l) : (lrNarrow s cmd num mask w l).1.held = s.held := by simp [lrNarrow]
@[simp] theorem held_lrProduct (s cmd x num mask m k n a b) : (lrProduct s cmd x num mask m k n a b).1.held = s.held := by simp [lrProduct]
@[simp] theorem held_orthoCol (m r j s l) : (orthoCol m r j s l).1.held = s.held := by
  unfold orthoCol
  refine held_foldl_fst (fun x a => ?_) _ _
  simp
@[simp] theorem held_orthonormalise (m r s l) : (orthonormalise m r s l).1.held = s.held := by simp [orthonormalise]
@[simp] theorem held_absorbEarly (s c) : (absorbEarly s c).held = s.held := by simp [absorbEarly]
@[simp] theorem held_startFactor (s l base kind vals nf) : (startFactor s l base kind vals nf).held = s.held := by
  simp only [startFactor]
  split <;> simp
@[simp] theorem held_lrAfterP (s c h l) : (lrAfterP s c h l).held = s.held := by simp [lrAfterP]
@[simp] theorem held_lrWrite (s x cmd va vals) : (lrWrite s x cmd va vals).held = s.held := by simp [lrWrite]
@[simp] theorem held_lrRead (s x cmd va n) : (lrRead s x cmd va n).1.held = s.held := by simp [lrRead]
@[simp] theorem held_lrAfterQ (s c l) : (lrAfterQ s c l).held = s.held := by simp [lrAfterQ]
@[simp] theorem held_dropLr (s cmd) : (dropLr s cmd).held = s.held := by simp [dropLr]
@[simp] theorem held_finishColl (s c h) : (finishColl s c h).held = s.held := by
  unfold finishColl
  split <;> simp
@[simp] theorem held_rootDecides (s c h) : (rootDecides s c h).held = s.held := by simp [rootDecides]
@[simp] theorem held_sendResult (s c h) : (sendResult s c h).held = s.held := by simp [sendResult]
@[simp] theorem keepsOpt_collStep {s₀ : State} (s c) (e₀ : s.held = s₀.held) : KeepsOpt s₀ (collStep s c) := by
  unfold collStep
  split
  · simp
  · split
    · split <;> simp [e₀]
    · split
      · split
        · split <;> simp [e₀]
        · simp
      · split
        case h_1 h =>
          split at h
          · simpa using (keepsOpt_upCat s c e₀).held h
          · simpa using (keepsOpt_upSum s c e₀).held h
        case h_2 => simp [e₀]
@[simp] theorem keepsOpt_collsStep {s₀ : State} (s) (e₀ : s.held = s₀.held) : KeepsOpt s₀ (collsStep s) := by simp [collsStep, e₀]
@[simp] theorem held_kickReds (a u) : (kickReds a u).held = u.held := by
  induction a generalizing u with
  | zero => rfl
  | succ n ih =>
    unfold kickReds
    simp only
    split
    case h_1 h => rw [ih, (keepsOpt_collsStep _ rfl).held h, held_pumpReds]
    case h_2 => simp
@[simp] theorem held_kickRed (s) : (kickRed s).held = s.held := by simp [kickRed]

/-! The collective commands and the packets of checked reduction (R296 to R318, R321). -/

@[simp] theorem held_readTree (s x va) : (readTree s x va).1.held = s.held := by simp [readTree]
@[simp] theorem held_askPlace (s r) : (askPlace s r).1.held = s.held := by simp [askPlace]
@[simp] theorem held_collStart {go : ℕ → State → State} (h : ∀ a0 a1, (go a0 a1).held = a1.held) (q p mask s) : (collStart q p mask go s).held = s.held := by
  induction q generalizing p mask s <;> simp [collStart, *]
@[simp] theorem held_collIssue {go : ℕ → Tree → State → State} (h : ∀ a0 a1 a2, (go a0 a1 a2).held = a2.held) (q p st mask treeAddr outs ins step s) : (collIssue q p st mask treeAddr outs ins step go s).held = s.held := by
  simp only [collIssue]
  split
  · rfl
  · split
    · simp
    · split
      · simp
      · split
        · rfl
        · split
          · simp
          · cases step with
            | none => simp [h]
            | some e =>
              simp only
              split
              · simp
              · next hs =>
                have := (keepsOpt_stepIssue _ _ _ rfl).held hs
                split <;> simp_all
@[simp] theorem held_reduceStart (p id t s) : (reduceStart p id t s).held = s.held := by
  simp only [reduceStart]
  split
  · simp
  · split <;> simp
@[simp] theorem keeps_execReduce (q s) : Keeps s (execReduce q s) := by simp [execReduce]
@[simp] theorem held_lrStart (p id t s) : (lrStart p id t s).held = s.held := by simp [lrStart]
@[simp] theorem keeps_execReduceLr (q s) : Keeps s (execReduceLr q s) := by simp [execReduceLr]
@[simp] theorem held_sendCopies (s c ks) : (sendCopies s c ks).held = s.held := by simp [sendCopies]
@[simp] theorem held_broadcastStart (p id t s) : (broadcastStart p id t s).held = s.held := by simp [broadcastStart]
@[simp] theorem keeps_execBroadcast (q s) : Keeps s (execBroadcast q s) := by simp [execBroadcast]
@[simp] theorem held_allgatherStart (p id t s) : (allgatherStart p id t s).held = s.held := by simp [allgatherStart]
@[simp] theorem keeps_execAllgather (q s) : Keeps s (execAllgather q s) := by simp [execAllgather]
@[simp] theorem held_discardChunk (s p k c) : (discardChunk s p k c).held = s.held := by simp [discardChunk]
@[simp] theorem held_takeUp (s p k c j h) : (takeUp s p k c j h).held = s.held := by
  unfold takeUp
  (repeat' split) <;> simp
@[simp] theorem held_failDown (s c) : (failDown s c).held = s.held := by simp [failDown]
@[simp] theorem held_writeInstall (s c k) : (writeInstall s c k).1.held = s.held := by simp [writeInstall]
@[simp] theorem held_downLand (s c u k) : (downLand s c u k).1.held = s.held := by simp [downLand]
@[simp] theorem keepsOpt_downStep {s₀ : State} (s c) (e₀ : s.held = s₀.held) : KeepsOpt s₀ (downStep s c) := by
  refine keepsOpt_map (fun e => ?_) _
  simp only
  split
  · simp [e₀]
  · split
    · simp [e₀]
    · split
      · split <;> simp [e₀]
      · simp [e₀]
@[simp] theorem held_downAll (a u v w) : (downAll a u v w).held = w.held := by
  induction a generalizing w with
  | zero => rfl
  | succ n ih =>
    unfold downAll
    split
    case h_1 h => rw [ih, (keepsOpt_bind (fun c => keepsOpt_downStep w c rfl) _).held h]
    case h_2 => rfl
@[simp] theorem held_takeDown (s p k c h) : (takeDown s p k c h).held = s.held := by
  simp only [takeDown]
  split
  · simp
  · split
    · split
      · simp
      · split <;> simp
    · simp
@[simp] theorem keeps_execChunk (port s) : Keeps s (execChunk port s) := by
  simp only [execChunk]
  refine keeps_onRx (fun k s => ?_) _ _ _ _ _
  split
  · simp
  · split
    · simp
    · split
      · split <;> simp
      · simp
@[simp] theorem keeps_execTail (port s) : Keeps s (execTail port s) := by
  simp only [execTail]
  refine keeps_onRx (fun k s => ?_) _ _ _ _ _
  split
  · simp
  · split
    · simp
    · split <;> simp
@[simp] theorem held_takeResult (s c h) : (takeResult s c h).held = s.held := by simp [takeResult]
@[simp] theorem keeps_execResult (port s) : Keeps s (execResult port s) := by
  simp only [execResult]
  refine keeps_onRx (fun k s => ?_) _ _ _ _ _
  split
  · simp
  · split <;> simp
@[simp] theorem keeps_execChunkAck (port s) : Keeps s (execChunkAck port s) := by simp [execChunkAck]
@[simp] theorem keeps_execChunkAgain (port s) : Keeps s (execChunkAgain port s) := by
  unfold execChunkAgain
  refine keeps_onAnswer (fun k s => ?_) _ _ _
  split <;> simp
@[simp] theorem keeps_execRefused (port s) : Keeps s (execRefused port s) := by
  unfold execRefused
  refine keeps_withUnit ?_ _
  split <;> simp
@[simp] theorem keeps_execIssued (port s) : Keeps s (execIssued port s) := by simp [execIssued]
@[simp] theorem held_redCtlWrite (unit v s) : (redCtlWrite unit v s).held = s.held := by simp [redCtlWrite]
@[simp] theorem keeps_execRedInjArm (fn unit v s) : Keeps s (execRedInjArm fn unit v s) := by simp [execRedInjArm]
@[simp] theorem keeps_execInjHold (fn unit v s) : Keeps s (execInjHold fn unit v s) := by simp [execInjHold]

/-! The update die (chapter 10). -/

@[simp] theorem held_updEntry (s id f) : (State.updEntry s id f).held = s.held := by simp [State.updEntry]
@[simp] theorem held_dropEntry (s id) : (dropEntry s id).held = s.held := by simp [dropEntry]
@[simp] theorem held_updCmdRec (s id f) : (State.updCmdRec s id f).held = s.held := by simp [State.updCmdRec]
@[simp] theorem held_updTask (s id f) : (State.updTask s id f).held = s.held := by simp [State.updTask]
@[simp] theorem held_dropTask (s id) : (dropTask s id).held = s.held := by simp [dropTask]
@[simp] theorem held_updLatch (s b cause stream layer x) : (updLatch s b cause stream layer x).held = s.held := by simp [updLatch]
@[simp] theorem held_closeUpd (s cmd) : (closeUpd s cmd).held = s.held := by
  unfold closeUpd
  split <;> simp
@[simp] theorem held_reportEntry (s e st) : (reportEntry s e st).held = s.held := by
  unfold reportEntry
  split <;> simp
@[simp] theorem held_toChildren (s e k) : (toChildren s e k).held = s.held := by simp [toChildren]
@[simp] theorem held_sendNotice (s e st) : (sendNotice s e st).held = s.held := by simp [sendNotice]
@[simp] theorem held_abandonEntry (s e) : (abandonEntry s e).held = s.held := by simp [abandonEntry]
@[simp] theorem held_earlyReturn (s e st) : (earlyReturn s e st).held = s.held := by simp [earlyReturn]
@[simp] theorem held_mcastSeg (s e buf q) : (mcastSeg s e buf q).held = s.held := by simp [mcastSeg]
@[simp] theorem held_mcastEnd (s e) : (mcastEnd s e).held = s.held := by simp [mcastEnd]
@[simp] theorem held_ownerDone (s e) : (ownerDone s e).held = s.held := by simp [ownerDone]
@[simp] theorem held_settleOwner (s id) : (settleOwner s id).held = s.held := by
  unfold settleOwner
  split <;> simp
@[simp] theorem held_ticket (s) : (ticket s).2.held = s.held := by simp [ticket]
@[simp] theorem held_newTask (s e root rule) : (newTask s e root rule).held = s.held := by simp [newTask]
@[simp] theorem held_startSeg (s t e) : (startSeg s t e).1.held = s.held := by
  simp only [startSeg]
  split <;> simp
@[simp] theorem held_setStoreRow (s slot r l) : (setStoreRow s slot r l).held = s.held := by
  exact held_onUpd _ _
@[simp] theorem held_blockIn (s x slot va d) : (blockIn s x slot va d).1.held = s.held := by simp [blockIn]
@[simp] theorem held_blockOut (s x slot va) : (blockOut s x slot va).1.held = s.held := by simp [blockOut]
@[simp] theorem held_streamRead (s t e sel i n) : (streamRead s t e sel i n).1.held = s.held := by simp [streamRead]
@[simp] theorem held_gradIn (s t e) : (gradIn s t e).1.held = s.held := by simp [gradIn]
@[simp] theorem held_loadUnit (s t e) : (loadUnit s t e).1.held = s.held := by
  obtain ⟨blocks, hB, h⟩ : ∃ B, blockIn = B ∧ ∀ s x slot va d, (B s x slot va d).1.held = s.held := ⟨_, rfl, held_blockIn⟩
  unfold loadUnit
  rw [hB]
  split
  · simp [h]
  · split
    · split <;> simp [h]
    · rfl
@[simp] theorem held_failTask (s t st) : (failTask s t st).held = s.held := by
  simp only [failTask]
  split
  · simp
  · split <;> simp
@[simp] theorem held_readFailed (s t cause stream) : (readFailed s t cause stream).held = s.held := by simp [readFailed]
@[simp] theorem held_commitRec (s pa ver) : (commitRec s pa ver).held = s.held := by simp [commitRec]
@[simp] theorem held_commitOwner (s e) : (commitOwner s e).held = s.held := by
  unfold commitOwner
  simp only
  split
  · simp
  · split
    · split <;> simp
    · simp
@[simp] theorem held_refuseOwn (s e st) : (refuseOwn s e st).held = s.held := by simp [refuseOwn]
@[simp] theorem held_tryOwn (s e) : (tryOwn s e).held = s.held := by
  have h := held_reachVRec s e.ctx e.vrec
  unfold tryOwn
  split
  · simp [held_of_eq_pair h ‹_›]
  · have := held_of_eq_pair h ‹_›
    simp only
    repeat' split
    all_goals simp [this]
@[simp] theorem held_sendGrant (s e) : (sendGrant s e).held = s.held := by simp [sendGrant]
@[simp] theorem held_grantsIn (s id) : (grantsIn s id).held = s.held := by
  unfold grantsIn
  (repeat' split) <;> simp
@[simp] theorem held_askChildren (s e) : (askChildren s e).held = s.held := by simp [askChildren]
@[simp] theorem held_startReserve (s e) : (startReserve s e).held = s.held := by simp [startReserve]
@[simp] theorem held_takeOwner (s e u) : (takeOwner s e u).held = s.held := by
  simp only [takeOwner]
  split
  · simp
  · split
    · simp
    · split
      · simp [held_of_eq_pair (held_reachVRec _ e.ctx e.vrec) ‹_›]
      · have := held_of_eq_pair (held_reachVRec _ e.ctx e.vrec) ‹_›
        split
        · simp [this]
        · split <;> simp [this]
@[simp] theorem held_takePrecond (s e u) : (takePrecond s e u).held = s.held := by simp [takePrecond]
@[simp] theorem held_kickUpdN (a u) : (kickUpdN a u).held = u.held := by
  induction a generalizing u with
  | zero => rfl
  | succ n ih =>
    unfold kickUpdN
    split
    · simp
    · split
      · split
        · simp [ih]
        · simp only
          split <;> simp [ih]
      · rfl
@[simp] theorem held_kickUpd (s) : (kickUpd s).held = s.held := by simp [kickUpd]

/-! The instructions of the update vector engine (R342 to R349), each run by the task in progress when its next word has that opcode; and the change of tasks (R351, R352). -/

@[simp] theorem held_pastInstr (s t) : (pastInstr s t).held = s.held := by simp [pastInstr]
@[simp] theorem keeps_updInstr {f : Task → UpdEntry → ℕ → State → State} (h : ∀ a0 a1 a2 a3, (f a0 a1 a2 a3).held = a3.held) (opc s) : Keeps s (updInstr opc s f) := by
  unfold updInstr
  (repeat' split) <;> simp_all
@[simp] theorem keeps_updAlu (opc ops f s) : Keeps s (updAlu opc ops f s) := by
  refine keeps_updInstr (fun t e w s => ?_) _ _
  rw [held_pastInstr, held_updTask, held_charge]
@[simp] theorem keeps_execVadd (s) : Keeps s (execVadd s) := by simp [execVadd]
@[simp] theorem keeps_execVsub (s) : Keeps s (execVsub s) := by simp [execVsub]
@[simp] theorem keeps_execVmul (s) : Keeps s (execVmul s) := by simp [execVmul]
@[simp] theorem keeps_execVfma (s) : Keeps s (execVfma s) := by simp [execVfma]
@[simp] theorem keeps_execVmax (s) : Keeps s (execVmax s) := by simp [execVmax]
@[simp] theorem keeps_execVmin (s) : Keeps s (execVmin s) := by simp [execVmin]
@[simp] theorem keeps_execVabs (s) : Keeps s (execVabs s) := by simp [execVabs]
@[simp] theorem keeps_execVneg (s) : Keeps s (execVneg s) := by simp [execVneg]
@[simp] theorem keeps_execVcmplt (s) : Keeps s (execVcmplt s) := by simp [execVcmplt]
@[simp] theorem keeps_execVsel (s) : Keeps s (execVsel s) := by simp [execVsel]
@[simp] theorem keeps_execVrcp (s) : Keeps s (execVrcp s) := by simp [execVrcp]
@[simp] theorem keeps_execVrsqrt (s) : Keeps s (execVrsqrt s) := by simp [execVrsqrt]
@[simp] theorem keeps_execVsqrt (s) : Keeps s (execVsqrt s) := by simp [execVsqrt]
@[simp] theorem keeps_execVexp2 (s) : Keeps s (execVexp2 s) := by simp [execVexp2]
@[simp] theorem keeps_execVlog2 (s) : Keeps s (execVlog2 s) := by simp [execVlog2]
@[simp] theorem keeps_execVacc (s) : Keeps s (execVacc s) := by simp [execVacc]
@[simp] theorem held_loadRun (t e w a k) : (loadRun t e w a k).1.held = a.1.held := by simp [loadRun]
@[simp] theorem held_loadLanes (s t e w) : (loadLanes s t e w).1.held = s.held := by
  simp only [loadLanes]
  simp
@[simp] theorem keeps_execVld (s) : Keeps s (execVld s) := by simp [execVld]
@[simp] theorem held_storeLanes (s t fmt first sto ws) : (storeLanes s t fmt first sto ws).1.held = s.held := by simp [storeLanes]
@[simp] theorem held_storeRun (t e w a k) : (storeRun t e w a k).1.held = a.1.held := by simp [storeRun]
@[simp] theorem held_writeLanes (s t e w) : (writeLanes s t e w).1.held = s.held := by
  simp only [writeLanes]
  simp
@[simp] theorem keeps_execVst (s) : Keeps s (execVst s) := by simp [execVst]
@[simp] theorem held_slotRow (s slot r) : (slotRow s slot r).1.held = s.held := by simp [slotRow]
@[simp] theorem held_slotRows (s slot rs) : (slotRows s slot rs).1.held = s.held := by simp [slotRows]
@[simp] theorem keeps_slotLoad (opc rows f s) : Keeps s (slotLoad opc rows f s) := by
  refine keeps_updInstr (fun t e w s => ?_) _ _
  simp only
  rw [held_pastInstr, held_updTask, held_slotRows]
@[simp] theorem keeps_execVldc (s) : Keeps s (execVldc s) := by
  exact keeps_slotLoad _ _ _ _
@[simp] theorem keeps_execVldr (s) : Keeps s (execVldr s) := by simp [execVldr]
@[simp] theorem keeps_execVldw (s) : Keeps s (execVldw s) := by simp [execVldw]
@[simp] theorem keeps_execVstw (s) : Keeps s (execVstw s) := by simp [execVstw]
@[simp] theorem keeps_execWld (s) : Keeps s (execWld s) := by
  obtain ⟨blocks, hB, h⟩ : ∃ B, blockIn = B ∧ ∀ s x slot va d, (B s x slot va d).1.held = s.held := ⟨_, rfl, held_blockIn⟩
  unfold execWld
  rw [hB]
  exact keeps_updInstr (fun t e w s => by simp [h]) _ _
@[simp] theorem keeps_execWst (s) : Keeps s (execWst s) := by
  obtain ⟨blocks, hB, h⟩ : ∃ B, blockOut = B ∧ ∀ s x slot va, (B s x slot va).1.held = s.held := ⟨_, rfl, held_blockOut⟩
  unfold execWst
  rw [hB]
  exact keeps_updInstr (fun t e w s => by simp [h]) _ _
@[simp] theorem keeps_execSop (s) : Keeps s (execSop s) := by simp [execSop]
@[simp] theorem keeps_execLoop (s) : Keeps s (execLoop s) := by simp [execLoop]
@[simp] theorem keeps_execEndl (s) : Keeps s (execEndl s) := by
  unfold execEndl
  refine keeps_updInstr (fun t e w s => ?_) _ _
  split <;> simp
@[simp] theorem keeps_execBody (s) : Keeps s (execBody s) := by simp [execBody]
@[simp] theorem held_retireUnit (s t f) : (retireUnit s t f).held = s.held := by simp [retireUnit]
@[simp] theorem keeps_execPass (s) : Keeps s (execPass s) := by simp [execPass]
@[simp] theorem keeps_execTailInstruction (s) : Keeps s (execTailInstruction s) := by
  simp only [execTailInstruction]
  refine keeps_updInstr (fun t e w s => ?_) _ _
  split
  · split <;> simp
  · simp
@[simp] theorem held_finishRoots (s t e) : (finishRoots s t e).held = s.held := by
  unfold finishRoots
  simp only
  split
  · split
    · rw [held_dropEntry, held_reportEntry]; split <;> simp
    · rw [held_settleOwner, held_updEntry]; split <;> simp
  · split <;> simp
@[simp] theorem held_nextSeg (t e s) : (nextSeg t e s).held = s.held := by simp [nextSeg]
@[simp] theorem keeps_execEndInstr (s) : Keeps s (execEndInstr s) := by
  unfold execEndInstr
  refine keeps_updInstr (fun t e w s => ?_) _ _
  split
  · split <;> simp
  · simp
@[simp] theorem held_resumeTask (t e s) : (resumeTask t e s).1.held = s.held := by simp [resumeTask]
@[simp] theorem keeps_execUpdTaskSwitch (s) : Keeps s (execUpdTaskSwitch s) := by
  unfold execUpdTaskSwitch
  (repeat' split) <;> simp
@[simp] theorem keeps_execUpdStreamUe (kind addr s) : Keeps s (execUpdStreamUe kind addr s) := by
  unfold execUpdStreamUe
  split <;> simp

/-! The commands of the update die (R328 to R341, R350, R355) and the packets and events of its installs (R220, R319, R336, R337). -/

@[simp] theorem held_entryStatus (s x b) : (entryStatus s x b).1.held = s.held := by simp [entryStatus]
@[simp] theorem held_takeReserve (s e k) : (takeReserve s e k).held = s.held := by simp [takeReserve]
@[simp] theorem held_takeNotice (s e k) : (takeNotice s e k).held = s.held := by simp [takeNotice]
@[simp] theorem held_takeEarly (s k) : (takeEarly s k).held = s.held := by
  unfold takeEarly
  split <;> simp
@[simp] theorem held_replayEarly (s) : (replayEarly s).held = s.held := by simp [replayEarly]
@[simp] theorem held_addEntries (s cmd x job l n) : (addEntries s cmd x job l n).held = s.held := by simp [addEntries]
@[simp] theorem held_updateStart (q p l s) : (updateStart q p l s).held = s.held := by simp [updateStart]
@[simp] theorem held_entriesStatus (s x l n) : (entriesStatus s x l n).1.held = s.held := by simp [entriesStatus]
@[simp] theorem held_updateIssue (q p s) : (updateIssue q p s).held = s.held := by simp [updateIssue]
@[simp] theorem keeps_execUpdate (q s) : Keeps s (execUpdate q s) := by simp [execUpdate]
@[simp] theorem keeps_execUpdateSealReady (id s) : Keeps s (execUpdateSealReady id s) := by
  unfold execUpdateSealReady
  split <;> simp
@[simp] theorem held_precondStart (q p l s) : (precondStart q p l s).held = s.held := by simp [precondStart]
@[simp] theorem held_precondIssue (q p s) : (precondIssue q p s).held = s.held := by simp [precondIssue]
@[simp] theorem keeps_execPrecond (q s) : Keeps s (execPrecond q s) := by simp [execPrecond]
@[simp] theorem held_ruleLoadIssue (q p s) : (ruleLoadIssue q p s).held = s.held := by simp [ruleLoadIssue]
@[simp] theorem keeps_execRuleLoad (q s) : Keeps s (execRuleLoad q s) := by simp [execRuleLoad]
@[simp] theorem held_toEntry (port k s) : (toEntry port k s).held = s.held := by
  unfold toEntry
  (repeat' split) <;> simp
@[simp] theorem keeps_execReserve (port s) : Keeps s (execReserve port s) := by simp [execReserve]
@[simp] theorem keeps_execNotice (port s) : Keeps s (execNotice port s) := by simp [execNotice]
@[simp] theorem keeps_execGrant (port s) : Keeps s (execGrant port s) := by
  unfold execGrant
  refine keeps_onAnswer (fun k s => ?_) _ _ _
  split <;> simp
@[simp] theorem keeps_execReservationGrant (vrec s) : Keeps s (execReservationGrant vrec s) := by
  unfold execReservationGrant
  (repeat' split) <;> simp
@[simp] theorem held_settleCopy (s id) : (settleCopy s id).held = s.held := by
  unfold settleCopy
  split <;> simp
@[simp] theorem held_landReplica (s e c h) : (landReplica s e c h).held = s.held := by simp [landReplica]
@[simp] theorem keeps_execMulticastLanded (id s) : Keeps s (execMulticastLanded id s) := by
  unfold execMulticastLanded
  (repeat' split) <;> simp
@[simp] theorem keeps_execCopyStatus (port s) : Keeps s (execCopyStatus port s) := by
  unfold execCopyStatus
  refine keeps_onAnswer (fun k s => ?_) _ _ _
  split <;> simp

/-! The packets and timers of the trace fabric (chapter 11). -/

@[simp] theorem held_kickEngines (s) : (kickEngines s).held = s.held := by simp [kickEngines]
@[simp] theorem held_nackReq (s k) : (nackReq s k).held = s.held := by simp [nackReq]
@[simp] theorem held_remotePlace (s k write) : (remotePlace s k write).1.held = s.held := by
  unfold remotePlace
  split <;> simp
@[simp] theorem held_remoteStore (k x pa s) : (remoteStore k x pa s).held = s.held := by simp [remoteStore]
@[simp] theorem keeps_execRemoteWrite (port s) : Keeps s (execRemoteWrite port s) := by
  refine keeps_onRx (fun k s => ?_) _ _ _ _ _
  have h := held_remotePlace s k true
  split <;> simp [held_of_eq_pair h ‹_›]
@[simp] theorem held_remoteLoad (k x pa s) : (remoteLoad k x pa s).held = s.held := by simp [remoteLoad]
@[simp] theorem keeps_execRemoteRead (port s) : Keeps s (execRemoteRead port s) := by
  refine keeps_onRx (fun k s => ?_) _ _ _ _ _
  have h := held_remotePlace s k false
  split <;> simp [held_of_eq_pair h ‹_›]
@[simp] theorem held_lateResp (s) : (lateResp s).held = s.held := by simp [lateResp]
@[simp] theorem held_dropRemote (s tag) : (dropRemote s tag).held = s.held := by simp [dropRemote]
@[simp] theorem held_takeAnswer {f : Remote → State → State} (h : ∀ a0 a1, (f a0 a1).held = a1.held) (s k) : (takeAnswer s k f).held = s.held := by
  unfold takeAnswer
  (repeat' split) <;> simp_all
@[simp] theorem held_landAnswer (s r data hz) : (landAnswer s r data hz).held = s.held := by
  unfold landAnswer
  (repeat' split) <;> simp
@[simp] theorem keeps_execWriteAck (port s) : Keeps s (execWriteAck port s) := by simp [execWriteAck]
@[simp] theorem keeps_execReadData (port s) : Keeps s (execReadData port s) := by simp [execReadData]
@[simp] theorem keeps_execNack (port s) : Keeps s (execNack port s) := by simp [execNack]
@[simp] theorem held_hostAnswered (r k hz s) : (hostAnswered r k hz s).held = s.held := by
  unfold hostAnswered
  (repeat' split) <;> simp
@[simp] theorem keeps_execHostResp (port s) : Keeps s (execHostResp port s) := by simp [execHostResp]
@[simp] theorem keeps_execRespTimeout (tag s) : Keeps s (execRespTimeout tag s) := by
  unfold execRespTimeout
  rw [keeps_next]
  refine held_when (fun s => ?_) _ _
  split <;> simp
@[simp] theorem held_hostServe (k s) : (hostServe k s).held = s.held := by simp [hostServe]
@[simp] theorem keeps_execHostReq (port s) : Keeps s (execHostReq port s) := by simp [execHostReq]
@[simp] theorem held_queueRelayed (p s) : (queueRelayed p s).held = s.held := by simp [queueRelayed]
@[simp] theorem keeps_execRelayCmd (port s) : Keeps s (execRelayCmd port s) := by simp [execRelayCmd]
@[simp] theorem held_setRelayed (s l) : (setRelayed s l).held = s.held := by simp [setRelayed]
@[simp] theorem keeps_execRelayCpl (port s) : Keeps s (execRelayCpl port s) := by
  simp only [execRelayCpl]
  refine keeps_onRx (fun k s => ?_) _ _ _ _ _
  split
  · simp
  · split <;> simp
@[simp] theorem held_resetRelay (s seat) : (resetRelay s seat).held = s.held := by simp [resetRelay]
@[simp] theorem held_relayResetWrite (s v) : (relayResetWrite s v).held = s.held := by simp [relayResetWrite]
@[simp] theorem keeps_execRelayReset (fn v s) : Keeps s (execRelayReset fn v s) := by simp [execRelayReset]
@[simp] theorem keeps_execRelayPurge (port s) : Keeps s (execRelayPurge port s) := by simp [execRelayPurge]
@[simp] theorem keeps_execPurgeAck (port s) : Keeps s (execPurgeAck port s) := by
  unfold execPurgeAck
  refine keeps_withUnit ?_ _
  split <;> simp
@[simp] theorem keeps_onRx3 {f : FPkt → State → State} (h : ∀ a0 a1, (f a0 a1).held = a1.held) (type p s) : Keeps s (onRx3 type p s f) := by
  unfold onRx3
  (repeat' split) <;> simp_all
@[simp] theorem keeps_execOrderMark (port s) : Keeps s (execOrderMark port s) := by simp [execOrderMark]
@[simp] theorem held_placeMarks (old s d) : (placeMarks old s d).held = s.held := by
  unfold placeMarks
  refine held_foldl (fun s a => ?_) _ _
  (repeat' split) <;> simp
@[simp] theorem held_drainOld (a u) : (drainOld a u).held = u.held := by
  induction a generalizing u with
  | zero => rfl
  | succ n ih =>
    unfold drainOld
    (repeat' split) <;> simp [ih]
@[simp] theorem held_endMark (s m) : (endMark s m).held = s.held := by simp [endMark]
@[simp] theorem keeps_execOrderAck (port s) : Keeps s (execOrderAck port s) := by
  unfold execOrderAck
  refine keeps_onRx (fun k s => ?_) _ _ _ _ _
  split <;> simp
@[simp] theorem keeps_execOrderAckTimeout (dest vc s) : Keeps s (execOrderAckTimeout dest vc s) := by
  unfold execOrderAckTimeout
  rw [keeps_next]
  refine held_when (fun s => ?_) _ _
  split <;> simp
@[simp] theorem held_answerDrain (s k) : (answerDrain s k).held = s.held := by simp [answerDrain]
@[simp] theorem keeps_execDrain (port s) : Keeps s (execDrain port s) := by simp [execDrain]
@[simp] theorem held_answerDrains (s) : (answerDrains s).held = s.held := by simp [answerDrains]
@[simp] theorem keeps_execGenNotice (port s) : Keeps s (execGenNotice port s) := by simp [execGenNotice]
@[simp] theorem keeps_execRestart (port s) : Keeps s (execRestart port s) := by simp [execRestart]
@[simp] theorem held_sendTables (ask s p) : (sendTables ask s p).held = s.held := by simp [sendTables]
@[simp] theorem held_refuseTable (s port dest cause) : (refuseTable s port dest cause).held = s.held := by simp [refuseTable]
@[simp] theorem held_settleCheck (s) : (settleCheck s).held = s.held := by
  unfold settleCheck
  split <;> simp
@[simp] theorem held_awaitDone (s k) : (awaitDone s k).held = s.held := by simp [awaitDone]
@[simp] theorem held_startCheck (s) : (startCheck s).held = s.held := by
  unfold startCheck
  simp only
  split
  · rw [held_refuseTable, held_onFab]
  · rw [held_settleCheck, held_foldl (fun s a => held_sendTables ..), held_onFab, held_onFab]
@[simp] theorem held_routeCtlWrite (s v) : (routeCtlWrite s v).held = s.held := by simp [routeCtlWrite]
@[simp] theorem keeps_execCheck (fn v s) : Keeps s (execCheck fn v s) := by simp [execCheck]
@[simp] theorem held_storePeerTab (s p which i l) : (storePeerTab s p which i l).held = s.held := by simp [storePeerTab]
@[simp] theorem held_takeReport (s p k) : (takeReport s p k).held = s.held := by simp [takeReport]
@[simp] theorem held_takeTables (s p ask) : (takeTables s p ask).held = s.held := by
  unfold takeTables
  cases ask <;> simp only [Bool.false_eq_true, if_false, if_true]
  · split
    · split <;> simp
    · rfl
  · split
    · split <;> simp
    · simp
@[simp] theorem held_takeTablePkt (port k s) : (takeTablePkt port k s).held = s.held := by simp [takeTablePkt]
@[simp] theorem keeps_execTableXchg (port s) : Keeps s (execTableXchg port s) := by simp [execTableXchg]
@[simp] theorem keeps_execRouteCheckTimeout (port s) : Keeps s (execRouteCheckTimeout port s) := by simp [execRouteCheckTimeout]
@[simp] theorem keeps_execTrcCommitStride (fn v s) : Keeps s (execTrcCommitStride fn v s) := by simp [execTrcCommitStride]
@[simp] theorem held_reparent (s) : (reparent s).held = s.held := by
  simp only [reparent]
  repeat' split
  all_goals simp
@[simp] theorem held_sendNbr (s p k) : (sendNbr s p k).held = s.held := by simp [sendNbr]
@[simp] theorem held_stepTime (s ps) : (stepTime s ps).held = s.held := by simp [stepTime]
@[simp] theorem held_takeOffset (s off) : (takeOffset s off).held = s.held := by simp [takeOffset]
@[simp] theorem keeps_execSync (port ps s) : Keeps s (execSync port ps s) := by
  simp only [execSync]
  refine keeps_onRx (fun k s => ?_) _ _ _ _ _
  split
  · simp
  · split <;> simp
@[simp] theorem keeps_execSyncTimer (ps s) : Keeps s (execSyncTimer ps s) := by simp [execSyncTimer]
@[simp] theorem held_hearCand (new s) : (hearCand new s).held = s.held := by simp [hearCand]
@[simp] theorem keeps_execAnnounce (port s) : Keeps s (execAnnounce port s) := by simp [execAnnounce]
@[simp] theorem keeps_execAnnounceTimer (s) : Keeps s (execAnnounceTimer s) := by
  unfold execAnnounceTimer
  rw [keeps_next]
  refine held_when (fun s => ?_) _ _
  split <;> simp
@[simp] theorem keeps_execCandidateTimeout (dev s) : Keeps s (execCandidateTimeout dev s) := by simp [execCandidateTimeout]
@[simp] theorem keeps_execHoldoverTimeout (s) : Keeps s (execHoldoverTimeout s) := by
  unfold execHoldoverTimeout
  rw [keeps_next]
  refine held_when (fun s => ?_) _ _
  simp
@[simp] theorem keeps_execSyncLostTimeout (s) : Keeps s (execSyncLostTimeout s) := by
  unfold execSyncLostTimeout
  rw [keeps_next]
  refine held_when (fun s => ?_) _ _
  simp
@[simp] theorem held_copyTable (s) : (copyTable s).held = s.held := by simp [copyTable]
@[simp] theorem held_commitTable (s) : (commitTable s).held = s.held := by simp [commitTable]
@[simp] theorem keeps_execRouteTableCommit (s) : Keeps s (execRouteTableCommit s) := by
  simp only [execRouteTableCommit]
  rw [keeps_next]
  refine held_popDue (fun s => ?_) _ _
  split <;> simp

/-! Paddocks, contexts, switches and teardown (chapter 13). -/

@[simp] theorem keeps_execPaddockSet (q s) : Keeps s (execPaddockSet q s) := by simp [execPaddockSet]
@[simp] theorem held_leaveCore (x s c) : (leaveCore x s c).held = s.held := by simp [leaveCore]
@[simp] theorem held_scrubBlocks (s d x blocks) : (scrubBlocks s d x blocks).held = s.held := by simp [scrubBlocks]
@[simp] theorem held_scrubStored (s t) : (scrubStored s t).held = s.held := by simp [scrubStored]
@[simp] theorem held_loseWays (s p gone) : (loseWays s p gone).held = s.held := by simp [loseWays]
@[simp] theorem held_leaveResources (p id new s) : (leaveResources p id new s).held = s.held := by simp [leaveResources]
@[simp] theorem keeps_execPaddockSetApply (p s) : Keeps s (execPaddockSetApply p s) := by
  unfold execPaddockSetApply
  refine keeps_withUnit ?_ _
  refine held_popDue (fun s => ?_) _ _
  split <;> simp
@[simp] theorem held_zeroWays (s gone) : (zeroWays s gone).held = s.held := by simp [zeroWays]
@[simp] theorem held_zeroResources (p new s) : (zeroResources p new s).held = s.held := by simp [zeroResources]
@[simp] theorem keeps_execPaddockZeroingDone (p s) : Keeps s (execPaddockZeroingDone p s) := by
  unfold execPaddockZeroingDone
  refine keeps_withUnit ?_ _
  refine held_when (fun s => ?_) _ _
  split <;> simp
@[simp] theorem held_putCtx (s x c) : (putCtx s x c).held = s.held := by simp [putCtx]
@[simp] theorem held_checkRegions (p s) : (checkRegions p s).held = s.held := by simp [checkRegions]
@[simp] theorem held_dpaFill (s lo hi l) : (dpaFill s lo hi l).held = s.held := by simp [dpaFill]
@[simp] theorem held_initHeader (s x) : (initHeader s x).held = s.held := by simp [initHeader]
@[simp] theorem keeps_execCtxCreate (q s) : Keeps s (execCtxCreate q s) := by simp [execCtxCreate]
@[simp] theorem held_moved (s d n) : (moved s d n).held = s.held := by simp [moved]
@[simp] theorem held_engineLine (c s w) : (engineLine c s w).held = s.held := by simp [engineLine]
@[simp] theorem held_checkHandle (x c s h) : (checkHandle x c s h).held = s.held := by simp [checkHandle]
@[simp] theorem held_saveCore (x s c) : (saveCore x s c).held = s.held := by simp [saveCore]
@[simp] theorem held_saveBlock (x d s b place) : (saveBlock x d s b place).held = s.held := by simp [saveBlock]
@[simp] theorem held_setStored (s t u) : (setStored s t u).held = s.held := by simp [setStored]
@[simp] theorem held_saveStored (s t) : (saveStored s t).held = s.held := by simp [saveStored]
@[simp] theorem held_dropWaiting (s x) : (dropWaiting s x).held = s.held := by simp [dropWaiting]
@[simp] theorem held_saveOut (s x whole) : (saveOut s x whole).held = s.held := by simp [saveOut]
@[simp] theorem held_putWord (s c e w bs) : (putWord s c e w bs).held = s.held := by simp [putWord]
@[simp] theorem held_restoreWord (x c e s w) : (restoreWord x c e s w).held = s.held := by simp [restoreWord]
@[simp] theorem held_restoreHandle (x s k) : (restoreHandle x s k).held = s.held := by simp [restoreHandle]
@[simp] theorem held_restoreBlock (x d s e) : (restoreBlock x d s e).held = s.held := by simp [restoreBlock]
@[simp] theorem held_restoreStored (s t) : (restoreStored s t).held = s.held := by simp [restoreStored]
@[simp] theorem held_restoreCtx (s x) : (restoreCtx s x).held = s.held := by simp [restoreCtx]
@[simp] theorem held_saveOuts (s outs b) : (saveOuts s outs b).held = s.held := by simp [saveOuts]
@[simp] theorem keeps_execSwitchStart (p s) : Keeps s (execSwitchStart p s) := by
  simp only [execSwitchStart]
  refine keeps_withUnit ?_ _
  refine held_when (fun s => ?_) _ _
  split <;> simp
@[simp] theorem held_finishSwitch (p b t0 s) : (finishSwitch p b t0 s).held = s.held := by simp [finishSwitch]
@[simp] theorem keeps_execSwitchDone (p s) : Keeps s (execSwitchDone p s) := by
  unfold execSwitchDone
  refine keeps_withUnit ?_ _
  refine held_when (fun s => ?_) _ _
  split <;> simp
@[simp] theorem keeps_execGaitTableEffect (p s) : Keeps s (execGaitTableEffect p s) := by
  unfold execGaitTableEffect
  refine keeps_withUnit ?_ _
  refine held_popDue (fun s => ?_) _ _
  split <;> simp
@[simp] theorem held_teardownScrub (s x) : (teardownScrub s x).held = s.held := by simp [teardownScrub]
@[simp] theorem held_teardownRaise (s x) : (teardownRaise s x).held = s.held := by simp [teardownRaise]
@[simp] theorem held_teardownStep (s x) : (teardownStep s x).held = s.held := by simp [teardownStep]
@[simp] theorem held_teardownStart (s x) : (teardownStart s x).held = s.held := by simp [teardownStart]
@[simp] theorem held_beginTeardown (q p s) : (beginTeardown q p s).held = s.held := by simp [beginTeardown]
@[simp] theorem keeps_execCtxTeardown (q s) : Keeps s (execCtxTeardown q s) := by simp [execCtxTeardown]
@[simp] theorem keeps_execDrainReturn (port s) : Keeps s (execDrainReturn port s) := by
  unfold execDrainReturn
  refine keeps_onAnswer (fun k s => ?_) _ _ _
  split <;> simp
@[simp] theorem keeps_execTeardownDrainTimeout (x s) : Keeps s (execTeardownDrainTimeout x s) := by simp [execTeardownDrainTimeout]
@[simp] theorem held_zeroHbm (s x) : (zeroHbm s x).1.held = s.held := by simp [zeroHbm]
@[simp] theorem held_endRunEarly (s p x) : (endRunEarly s p x).held = s.held := by
  unfold endRunEarly
  split <;> simp
@[simp] theorem held_endTeardown (x t s) : (endTeardown x t s).held = s.held := by simp [endTeardown]
@[simp] theorem keeps_execTeardownDone (x s) : Keeps s (execTeardownDone x s) := by
  unfold execTeardownDone
  refine keeps_withUnit ?_ _
  refine held_when (fun s => ?_) _ _
  split <;> simp
@[simp] theorem held_leaveLate (s x) : (leaveLate s x).held = s.held := by simp [leaveLate]
@[simp] theorem held_restoreRest (s x) : (restoreRest s x).held = s.held := by simp [restoreRest]
@[simp] theorem held_afterCommand (s x) : (afterCommand s x).held = s.held := by simp [afterCommand]
@[simp] theorem keeps_execSaddlebagScrubDone (die s) : Keeps s (execSaddlebagScrubDone die s) := by
  unfold execSaddlebagScrubDone
  refine keeps_unitStep ?_ _ _
  split <;> simp
@[simp] theorem keeps_execCommandComplete (id s) : Keeps s (execCommandComplete id s) := by
  unfold execCommandComplete
  rw [keeps_next]
  refine held_when (fun s => ?_) _ _
  split <;> simp

/-! Operations of the health engine (chapter 15). -/

@[simp] theorem held_fenceNow (s u) : (fenceNow s u).held = s.held := by simp [fenceNow]
@[simp] theorem held_abortWaiting (s x) : (abortWaiting s x).held = s.held := by simp [abortWaiting]
@[simp] theorem held_dropReplicas (s x) : (dropReplicas s x).held = s.held := by simp [dropReplicas]
@[simp] theorem held_holdCtx (s x) : (holdCtx s x).held = s.held := by simp [holdCtx]
@[simp] theorem held_originateAbort (s job cause cpath stride) : (originateAbort s job cause cpath stride).held = s.held := by
  simp only [originateAbort]
  rw [held_ite, held_foldl (fun s d => by rw [held_ite, held_sendPkt, ite_self]), ite_self]
  split <;> simp
@[simp] theorem held_abortCtx (cause cpath stride s x) : (abortCtx cause cpath stride s x).held = s.held := by simp [abortCtx]
@[simp] theorem held_queueDump (s trig dom cpath job stride recov ctxs) : (queueDump s trig dom cpath job stride recov ctxs).held = s.held := by simp [queueDump]
@[simp] theorem held_setRecov (s r) : (setRecov s r).held = s.held := by simp [setRecov]
@[simp] theorem held_afterDump (s id) : (afterDump s id).held = s.held := by
  unfold afterDump
  split <;> simp
@[simp] theorem held_coreRec (s c) : (coreRec s c).1.held = s.held := by simp [coreRec]
@[simp] theorem held_lineRec (s c h row e) : (lineRec s c h row e).1.held = s.held := by simp [lineRec]
@[simp] theorem held_padRecs (s c) : (padRecs s c).1.held = s.held := by simp [padRecs]
@[simp] theorem held_dumpRecs (s d) : (dumpRecs s d).1.held = s.held := by simp [dumpRecs]
@[simp] theorem held_lessUnit (cpath s r) : (lessUnit cpath s r).1.held = s.held := by
  unfold lessUnit
  split <;> simp
@[simp] theorem held_unreachRecs (cpath type s l) : (unreachRecs cpath type s l).1.held = s.held := by
  unfold unreachRecs
  split
  · simp
  · split <;> simp
@[simp] theorem held_hangEvent (s cpath) : (hangEvent s cpath).held = s.held := by
  unfold hangEvent
  (repeat' split) <;> simp
@[simp] theorem held_beginRecovery (s dom cpath cause hung) : (beginRecovery s dom cpath cause hung).held = s.held := by simp [beginRecovery]
@[simp] theorem held_declareHang (s cpath) : (declareHang s cpath).held = s.held := by
  unfold declareHang
  simp only
  split
  · rw [held_hangEvent, held_foldl (fun s a => by simp), held_setRecov, held_onHlt, held_logEvent]
  · split
    · rw [held_hangEvent, held_logEvent, held_onHlt, held_hangEvent, held_beginRecovery, held_onHlt, held_logEvent]
    · rw [held_hangEvent, held_beginRecovery, held_onHlt, held_logEvent]
@[simp] theorem held_dropStuck (s dom inst ids) : (dropStuck s dom inst ids).held = s.held := by simp [dropStuck]
@[simp] theorem held_resetCore (s c) : (resetCore s c).held = s.held := by simp [resetCore]
@[simp] theorem held_resetRed (s u) : (resetRed s u).held = s.held := by simp [resetRed]
@[simp] theorem held_resetPort (s p) : (resetPort s p).held = s.held := by simp [resetPort]
@[simp] theorem held_resetMem (dom s u) : (resetMem dom s u).held = s.held := by simp [resetMem]
@[simp] theorem held_resetDie (s k) : (resetDie s k).held = s.held := by simp [resetDie]
@[simp] theorem held_resetUpd (s) : (resetUpd s).held = s.held := by simp [resetUpd]
@[simp] theorem held_resetWarm (s) : (resetWarm s).held = s.held := by
  simp only [resetWarm]
  refine (held_onGrm (fun _ => rfl) (fun _ => rfl) (fun _ => rfl) _).trans ?_
  simp only [held_count32, held_onFab, held_onMem, held_onMov, held_onCore, held_onUpd, held_onRed, held_onBlk, held_onCp,
    held_onSch]
  exact held_foldl (fun s x => held_onSch _ s) _ _
@[simp] theorem held_resetDomain (s dom inst) : (resetDomain s dom inst).held = s.held := by simp [resetDomain]

/-! Register accesses. -/

@[simp] theorem held_writeFields (s r key v) : (writeFields s r key v).held = s.held := by simp [writeFields]
@[simp] theorem held_writeOnes (s r key v) : (writeOnes s r key v).held = s.held := by
  unfold writeOnes
  split <;> simp
@[simp] theorem held_writeCap (s r key v) : (writeCap s r key v).held = s.held := by simp [writeCap]
@[simp] theorem held_fenceTo (on s u) : (fenceTo on s u).held = s.held := by simp [fenceTo]
@[simp] theorem held_writeFences (s o v) : (writeFences s o v).held = s.held := by simp [writeFences]
@[simp] theorem held_writeCoreCtl (s r key v) : (writeCoreCtl s r key v).held = s.held := by simp [writeCoreCtl]
@[simp] theorem held_writeLimits (s r key v) : (writeLimits s r key v).held = s.held := by simp [writeLimits]
@[simp] theorem held_recoveryChunk (s v) : (recoveryChunk s v).held = s.held := by simp [recoveryChunk]
@[simp] theorem held_bootImage (s m) : (bootImage s m).held = s.held := by simp [bootImage]
@[simp] theorem held_recoveryFinishes (s v) : (recoveryFinishes s v).held = s.held := by simp [recoveryFinishes]
@[simp] theorem held_recoveryCtl (s v) : (recoveryCtl s v).held = s.held := by simp [recoveryCtl]
@[simp] theorem held_writeRingBase (s q o v) : (writeRingBase s q o v).held = s.held := by simp [writeRingBase]
@[simp] theorem held_writeRing (s fn q o v) : (writeRing s fn q o v).held = s.held := by simp [writeRing]
@[simp] theorem held_writeMsix (s fn i v) : (writeMsix s fn i v).held = s.held := by simp [writeMsix]
@[simp] theorem held_writeFn (s fn rein host o v) : (writeFn s fn rein host o v).held = s.held := by
  unfold writeFn
  (repeat' split) <;> simp
@[simp] theorem held_writeOwned (s r key v) : (writeOwned s r key v).held = s.held := by
  unfold writeOwned
  simp only [held_ite]
  simp only [held_writeCoreCtl, held_writeCap, held_routeCtlWrite, held_relayResetWrite, held_onFab, held_writeFields,
    held_reparent, held_linkCtl, held_when (fun s => held_onTim _ s), held_markClear, held_writeFences, held_writeLimits,
    ite_self]
@[simp] theorem held_writeReg (s rein host key v) : (writeReg s rein host key v).held = s.held := by
  unfold writeReg
  (repeat' split) <;> simp
@[simp] theorem held_readPart (s fn key len off n) : (readPart s fn key len off n).1.held = s.held := by
  simp only [readPart]
  repeat' split
  all_goals simp
@[simp] theorem held_readKeys (a u v w x) : (readKeys a u v w x).1.held = u.held := by
  induction a generalizing u v w x with
  | zero => rfl
  | succ n ih =>
    unfold readKeys
    split
    · rfl
    · split
      · exact ih ..
      · exact (ih ..).trans (held_readPart ..)
@[simp] theorem held_writePart (s fn key len off n v rein) : (writePart s fn key len off n v rein).held = s.held := by simp [writePart]
@[simp] theorem held_writeKeys (a u v w x y z) : (writeKeys a u v w x y z).held = u.held := by
  induction a generalizing u v w x y z with
  | zero => rfl
  | succ n ih =>
    unfold writeKeys
    (repeat' split) <;> simp [ih]
@[simp] theorem held_busWrite (s fn a n v) : (busWrite s fn a n v).held = s.held := by
  unfold busWrite
  split <;> simp
@[simp] theorem held_busRead (s fn a n) : (busRead s fn a n).held = s.held := by
  simp only [busRead]
  split <;> simp
@[simp] theorem keeps_execRegReadLowHalf (fn addr bytes s) : Keeps s (execRegReadLowHalf fn addr bytes s) := by simp [execRegReadLowHalf]
@[simp] theorem keeps_execRegWriteLowHalf (fn addr bytes v s) : Keeps s (execRegWriteLowHalf fn addr bytes v s) := by simp [execRegWriteLowHalf]
@[simp] theorem keeps_execRegWrite (fn addr bytes v s) : Keeps s (execRegWrite fn addr bytes v s) := by simp [execRegWrite]
@[simp] theorem keeps_execErrLatchWrite (fn addr v s) : Keeps s (execErrLatchWrite fn addr v s) := by simp [execErrLatchWrite]
@[simp] theorem keeps_execCapWrite (fn addr v s) : Keeps s (execCapWrite fn addr v s) := by simp [execCapWrite]
@[simp] theorem keeps_execInjArm (fn core v s) : Keeps s (execInjArm fn core v s) := by simp [execInjArm]
@[simp] theorem keeps_execFenceBitWrite (fn addr v s) : Keeps s (execFenceBitWrite fn addr v s) := by simp [execFenceBitWrite]
@[simp] theorem keeps_execRecoveryChunkWrite (fn v s) : Keeps s (execRecoveryChunkWrite fn v s) := by simp [execRecoveryChunkWrite]
@[simp] theorem keeps_execRecoveryChunkDone (s) : Keeps s (execRecoveryChunkDone s) := by
  unfold execRecoveryChunkDone
  rw [keeps_next]
  refine held_when (fun s => ?_) _ _
  split <;> simp
@[simp] theorem keeps_execRecoveryFinish (fn v s) : Keeps s (execRecoveryFinish fn v s) := by simp [execRecoveryFinish]

/-! The steps of the health engine (chapter 15). -/

@[simp] theorem held_checkHooves (s) : (checkHooves s).held = s.held := by simp [checkHooves]
@[simp] theorem keeps_execHoofbeatCheck (s) : Keeps s (execHoofbeatCheck s) := by simp [execHoofbeatCheck]
@[simp] theorem held_endLate (x late s) : (endLate x late s).held = s.held := by simp [endLate]
@[simp] theorem keeps_execOverrunLimit (x s) : Keeps s (execOverrunLimit x s) := by simp [execOverrunLimit]
@[simp] theorem keeps_execAbort (port s) : Keeps s (execAbort port s) := by
  unfold execAbort
  refine keeps_onRx (fun k s => ?_) _ _ _ _ _
  split <;> simp
@[simp] theorem held_completeEnded (s ids) : (completeEnded s ids).held = s.held := by
  unfold completeEnded
  refine held_foldl (fun s a => ?_) _ _
  (repeat' split) <;> simp
@[simp] theorem held_endQuiesce (n r s) : (endQuiesce n r s).held = s.held := by simp [endQuiesce]
@[simp] theorem keeps_execQuiesceEnd (n s) : Keeps s (execQuiesceEnd n s) := by
  unfold execQuiesceEnd
  rw [keeps_next]
  refine held_when (fun s => ?_) _ _
  split <;> simp
@[simp] theorem keeps_execDomainReset (n s) : Keeps s (execDomainReset n s) := by
  unfold execDomainReset
  rw [keeps_next]
  refine held_when (fun s => ?_) _ _
  split <;> simp
@[simp] theorem held_memsReady (s us) : (memsReady s us).held = s.held := by simp [memsReady]
@[simp] theorem held_returnDomain (n r s) : (returnDomain n r s).held = s.held := by simp [returnDomain]
@[simp] theorem keeps_execDomainReturn (n s) : Keeps s (execDomainReturn n s) := by
  unfold execDomainReturn
  rw [keeps_next]
  refine held_when (fun s => ?_) _ _
  split <;> simp
@[simp] theorem held_escalate (r s) : (escalate r s).held = s.held := by simp [escalate]
@[simp] theorem keeps_execDomainReturnTimeout (n s) : Keeps s (execDomainReturnTimeout n s) := by
  unfold execDomainReturnTimeout
  rw [keeps_next]
  refine held_when (fun s => ?_) _ _
  split <;> simp
@[simp] theorem held_skipDump (d s) : (skipDump d s).held = s.held := by
  simp only [skipDump]
  cases d.recov <;> simp
@[simp] theorem held_beginDump (d dest base cap s) : (beginDump d dest base cap s).held = s.held := by simp [beginDump]
@[simp] theorem keeps_execDumpStart (s) : Keeps s (execDumpStart s) := by
  simp only [execDumpStart]
  rw [keeps_next]
  refine held_when (fun s => ?_) _ _
  split
  · simp
  · split <;> simp
@[simp] theorem held_dumpLoses (cpath type s) : (dumpLoses cpath type s).held = s.held := by
  unfold dumpLoses
  split <;> simp
@[simp] theorem keeps_execDumpReadTimeout (at_ s) : Keeps s (execDumpReadTimeout at_ s) := by simp [execDumpReadTimeout]
@[simp] theorem held_writeDump (s d hdr body) : (writeDump s d hdr body).held = s.held := by simp [writeDump]
@[simp] theorem held_finishDump (d s) : (finishDump d s).held = s.held := by
  simp only [finishDump]
  cases d.recov <;> simp
@[simp] theorem keeps_execDumpDone (s) : Keeps s (execDumpDone s) := by
  unfold execDumpDone
  rw [keeps_next]
  refine held_when (fun s => ?_) _ _
  split <;> simp

/-! Management messages. -/

@[simp] theorem held_settleMgmt (s id) : (settleMgmt s id).held = s.held := by simp [settleMgmt]
@[simp] theorem held_replyPcie (s id addr b) : (replyPcie s id addr b).held = s.held := by
  unfold replyPcie
  split <;> simp
@[simp] theorem held_sendDirected (s p list idx cnt msg) : (sendDirected s p list idx cnt msg).held = s.held := by simp [sendDirected]
@[simp] theorem held_takeReply (s list src b) : (takeReply s list src b).held = s.held := by
  simp only [takeReply]
  split
  · simp
  · split <;> simp
@[simp] theorem held_sendReply (s m b) : (sendReply s m b).held = s.held := by
  unfold sendReply
  split <;> simp
@[simp] theorem held_reply (s m st pay) : (reply s m st pay).held = s.held := by simp [reply]
@[simp] theorem held_takeMsg (s m) : (takeMsg s m).held = s.held := by
  simp only [takeMsg]
  split <;> simp
@[simp] theorem keeps_onMsg {f : Msg → State → State} (h : ∀ a0 a1, (f a0 a1).held = a1.held) (op s) : Keeps s (onMsg op s f) := by
  unfold onMsg
  rw [keeps_next]
  refine held_when (fun s => ?_) _ _
  split
  · simp [*]
  · simp
@[simp] theorem held_renewLease (s) : (renewLease s).held = s.held := by simp [renewLease]
@[simp] theorem held_setHolder (s m key eng) : (setHolder s m key eng).held = { s.held with holder := m } := rfl
@[simp] theorem held_setOwnerKey (s k e) : (setOwnerKey s k e).held = s.held := by simp [setOwnerKey]
@[simp] theorem held_countClaim (s granted) : (countClaim s granted).held = s.held := by simp [countClaim]

/-! Management (chapters 14 to 16). -/

@[simp] theorem held_queueVc3 (s m) : (queueVc3 s m).held = s.held := by simp [queueVc3]
@[simp] theorem keeps_execMgmt (port s) : Keeps s (execMgmt port s) := by simp [execMgmt]
@[simp] theorem keeps_execDirected (port s) : Keeps s (execDirected port s) := by simp [execDirected]
@[simp] theorem keeps_execMctpMessage (msg s) : Keeps s (execMctpMessage msg s) := by simp [execMctpMessage]
@[simp] theorem held_dequeuePcie (s q) : (dequeuePcie s q).held = s.held := by
  unfold dequeuePcie
  split <;> simp
@[simp] theorem held_dequeueFrom {rest : List Msg → Groom → Groom} (hash : ∀ l g, (rest l g).vendorHash = g.vendorHash)
    (floor : ∀ l g, (rest l g).svnFloor = g.svnFloor) (holder : ∀ l g, (rest l g).holder = g.holder) (s l) :
    (dequeueFrom s l rest).held = s.held := by
  unfold dequeueFrom
  split
  · simp [hash, floor, holder]
  · rfl
@[simp] theorem keeps_execMgmtDequeue (path s) : Keeps s (execMgmtDequeue path s) := by simp [execMgmtDequeue]
@[simp] theorem keeps_execMgmtReadTimeout (s) : Keeps s (execMgmtReadTimeout s) := by
  unfold execMgmtReadTimeout
  rw [keeps_next]
  refine held_when (fun s => ?_) _ _
  split <;> simp
@[simp] theorem keeps_execIdentify (s) : Keeps s (execIdentify s) := by simp [execIdentify]
@[simp] theorem keeps_execRead (s) : Keeps s (execRead s) := by
  unfold execRead
  refine keeps_onMsg (fun m s => ?_) _ _
  split <;> simp
@[simp] theorem held_writeCovered (s rein blk o d r) : (writeCovered s rein blk o d r).held = s.held := by simp [writeCovered]
@[simp] theorem keeps_execWrite (s) : Keeps s (execWrite s) := by
  unfold execWrite
  refine keeps_onMsg (fun m s => ?_) _ _
  split <;> simp
@[simp] theorem held_diagOut (s d chk bitNo) : (diagOut s d chk bitNo).1.held = s.held := by simp [diagOut]
@[simp] theorem held_diagRead (s c l1 row col) : (diagRead s c l1 row col).1.held = s.held := by simp [diagRead]
@[simp] theorem keeps_execReadDiag (s) : Keeps s (execReadDiag s) := by
  refine keeps_onMsg (fun m s => ?_) _ _
  split
  · simp
  · simp only
    split
    · simp
    · next c _ t _ h =>
      split
      · simp
      · simp [held_of_eq_pair (held_diagRead ..) h]
@[simp] theorem keeps_execTelemetrySample (s) : Keeps s (execTelemetrySample s) := by simp [execTelemetrySample]
@[simp] theorem keeps_execTelemetryRead (s) : Keeps s (execTelemetryRead s) := by simp [execTelemetryRead]
@[simp] theorem keeps_execAccountRead (s) : Keeps s (execAccountRead s) := by simp [execAccountRead]
@[simp] theorem keeps_execReinNonce (nonce s) : Keeps s (execReinNonce nonce s) := by simp [execReinNonce]
@[simp] theorem keeps_execReinClaim (cycle s) : Keeps s (execReinClaim cycle s) := by simp [execReinClaim]
@[simp] theorem held_dropClaim (s c) : (dropClaim s c).held = s.held := by simp [dropClaim]
theorem held_arbitrate (s c) : ∃ m, (arbitrate s c).held = { s.held with holder := m } := by
  unfold arbitrate
  simp only
  split
  · exact ⟨s.held.holder, by simp⟩
  · split
    · exact ⟨s.held.holder, by simp⟩
    · exact ⟨c.msg.master, by simp⟩
theorem held_decideClaims (n s) : ∃ m, (decideClaims n s).held = { s.held with holder := m } := by
  induction n generalizing s with
  | zero => exact ⟨s.held.holder, rfl⟩
  | succ n ih =>
    unfold decideClaims
    split
    · split
      · obtain ⟨m, hm⟩ := held_arbitrate (dropClaim s _) _
        obtain ⟨m', hm'⟩ := ih (arbitrate (dropClaim s _) _)
        exact ⟨m', by rw [hm', hm, held_dropClaim]⟩
      · exact ⟨s.held.holder, rfl⟩
    · exact ⟨s.held.holder, rfl⟩
@[simp] theorem keeps_execReinRenew (s) : Keeps s (execReinRenew s) := by simp [execReinRenew]
@[simp] theorem keeps_execReinStatus (s) : Keeps s (execReinStatus s) := by simp [execReinStatus]
@[simp] theorem keeps_execOwnerKeysSet (s) : Keeps s (execOwnerKeysSet s) := by simp [execOwnerKeysSet]
@[simp] theorem keeps_execFwStage (s) : Keeps s (execFwStage s) := by simp [execFwStage]
@[simp] theorem held_groomRestart (s) : (groomRestart s).held = s.held := by simp [groomRestart]
@[simp] theorem keeps_execGroomRestart (s) : Keeps s (execGroomRestart s) := by simp [execGroomRestart]
@[simp] theorem keeps_execFwActivate (s) : Keeps s (execFwActivate s) := by simp [execFwActivate]
@[simp] theorem held_flashImage (s img) : (flashImage s img).held = s.held := by simp [flashImage]
@[simp] theorem held_updateLevel (s) : (updateLevel s).held = s.held := by simp [updateLevel]
@[simp] theorem keeps_execGroomRestartDone (ok s) : Keeps s (execGroomRestartDone ok s) := by simp [execGroomRestartDone]
@[simp] theorem keeps_execFmForward (s) : Keeps s (execFmForward s) := by
  refine keeps_onMsg (fun m s => ?_) _ _
  simp only
  split
  · simp
  · split
    · simp
    · split
      · simp
      · split
        · next h => simpa using held_of_eq_snd (held_originate _ _) h
        · simp
@[simp] theorem keeps_execHealthLogRead (s) : Keeps s (execHealthLogRead s) := by simp [execHealthLogRead]
@[simp] theorem keeps_execHealthStatus (s) : Keeps s (execHealthStatus s) := by simp [execHealthStatus]
@[simp] theorem keeps_execDumpNow (s) : Keeps s (execDumpNow s) := by
  unfold execDumpNow
  refine keeps_onMsg (fun m s => ?_) _ _
  split <;> simp
@[simp] theorem keeps_execResetDomain (s) : Keeps s (execResetDomain s) := by
  simp only [execResetDomain]
  refine keeps_onMsg (fun m s => ?_) _ _
  split
  · simp
  · split <;> simp
@[simp] theorem keeps_execFenceSet (s) : Keeps s (execFenceSet s) := by
  unfold execFenceSet
  refine keeps_onMsg (fun m s => ?_) _ _
  split <;> simp
@[simp] theorem keeps_execJobAbort (s) : Keeps s (execJobAbort s) := by simp [execJobAbort]
@[simp] theorem keeps_execLogClear (s) : Keeps s (execLogClear s) := by simp [execLogClear]
@[simp] theorem keeps_execGaitSet (s) : Keeps s (execGaitSet s) := by simp [execGaitSet]
@[simp] theorem keeps_execPowerStatus (s) : Keeps s (execPowerStatus s) := by simp [execPowerStatus]
@[simp] theorem keeps_execRailRead (s) : Keeps s (execRailRead s) := by simp [execRailRead]

/-! Refresh, calibration, self-refresh, patrol scrub and training of the memory tiers (R262, R267, R274 to R279, R590). -/

@[simp] theorem keeps_execHbmRefresh (pc n s) : Keeps s (execHbmRefresh pc n s) := by
  unfold execHbmRefresh
  refine keeps_withUnit ?_ _
  refine held_when (fun s => ?_) _ _
  simp
@[simp] theorem keeps_execRecalibration (unit ok s) : Keeps s (execRecalibration unit ok s) := by simp [execRecalibration]
@[simp] theorem keeps_execSelfRefreshRequest (unit s) : Keeps s (execSelfRefreshRequest unit s) := by simp [execSelfRefreshRequest]
@[simp] theorem keeps_execSelfRefreshEntered (unit s) : Keeps s (execSelfRefreshEntered unit s) := by simp [execSelfRefreshEntered]
@[simp] theorem keeps_execSelfRefreshAbandon (unit s) : Keeps s (execSelfRefreshAbandon unit s) := by simp [execSelfRefreshAbandon]
@[simp] theorem keeps_execSelfRefreshExitReady (unit s) : Keeps s (execSelfRefreshExitReady unit s) := by simp [execSelfRefreshExitReady]
@[simp] theorem keeps_execMemPatrolRead (unit word finding s) : Keeps s (execMemPatrolRead unit word finding s) := by simp [execMemPatrolRead]
@[simp] theorem held_trainFail (s u) : (trainFail s u).held = s.held := by simp [trainFail]
@[simp] theorem held_trainChannel (dimms failed s c) : (trainChannel dimms failed s c).held = s.held := by simp [trainChannel]
@[simp] theorem held_trainStack (stackMask s t) : (trainStack stackMask s t).held = s.held := by simp [trainStack]
@[simp] theorem held_trainAllMemory (stackMask dimms failed s) : (trainAllMemory stackMask dimms failed s).held = s.held := by simp [trainAllMemory]
@[simp] theorem held_retrainFail (s u) : (retrainFail s u).held = s.held := by simp [retrainFail]
@[simp] theorem keeps_execMemTrainingDone (stackMask dimms failed s) : Keeps s (execMemTrainingDone stackMask dimms failed s) := by simp [execMemTrainingDone]

/-! Attestation by SPDM over DOE and MCTP, PLDM over MCTP (R509 to R511; the message layouts are those of DMTF's DSP0274, DSP0240, DSP0248 and DSP0267, assumption log 34). -/

@[simp] theorem held_setSpdm (s path x) : (setSpdm s path x).held = s.held := by simp [setSpdm]
@[simp] theorem held_spdmSend (s path b) : (spdmSend s path b).held = s.held := by simp [spdmSend]
@[simp] theorem held_spdmError (s path code) : (spdmError s path code).held = s.held := by simp [spdmError]
@[simp] theorem keeps_onSpdm {f : Spdm → State → State} (h : ∀ a0 a1, (f a0 a1).held = a1.held) (code need len path req s) : Keeps s (onSpdm code need len path req s f) := by
  unfold onSpdm
  (repeat' split) <;> simp_all
@[simp] theorem held_spdmVca (s path x st req b) : (spdmVca s path x st req b).held = s.held := by simp [spdmVca]
@[simp] theorem keeps_execGetVersion (path req s) : Keeps s (execGetVersion path req s) := by simp [execGetVersion]
@[simp] theorem keeps_execGetCapabilities (path req s) : Keeps s (execGetCapabilities path req s) := by simp [execGetCapabilities]
@[simp] theorem keeps_execNegotiateAlgorithms (path req s) : Keeps s (execNegotiateAlgorithms path req s) := by simp [execNegotiateAlgorithms]
@[simp] theorem held_spdmCert (s path x req b) : (spdmCert s path x req b).held = s.held := by simp [spdmCert]
@[simp] theorem keeps_execGetDigests (path req s) : Keeps s (execGetDigests path req s) := by simp [execGetDigests]
@[simp] theorem keeps_execGetCertificate (path req s) : Keeps s (execGetCertificate path req s) := by simp [execGetCertificate]
@[simp] theorem keeps_execChallenge (path req s) : Keeps s (execChallenge path req s) := by simp [execChallenge]
@[simp] theorem keeps_execGetMeasurements (path req s) : Keeps s (execGetMeasurements path req s) := by simp [execGetMeasurements]
@[simp] theorem held_pldmSend (s req cc d) : (pldmSend s req cc d).held = s.held := by simp [pldmSend]
@[simp] theorem keeps_onPldm {f : List Byte → State → State} (h : ∀ a0 a1, (f a0 a1).held = a1.held) (type cmd len req s) : Keeps s (onPldm type cmd len req s f) := by
  unfold onPldm
  (repeat' split) <;> simp_all
@[simp] theorem held_pldmOpen (s req n) : (pldmOpen s req n).held = s.held := by simp [pldmOpen]
@[simp] theorem keeps_execGetTid (_path req s) : Keeps s (execGetTid _path req s) := by simp [execGetTid]
@[simp] theorem keeps_execGetPldmVersion (_path req s) : Keeps s (execGetPldmVersion _path req s) := by simp [execGetPldmVersion]
@[simp] theorem keeps_execGetPldmTypes (_path req s) : Keeps s (execGetPldmTypes _path req s) := by simp [execGetPldmTypes]
@[simp] theorem keeps_execGetPldmCommands (_path req s) : Keeps s (execGetPldmCommands _path req s) := by simp [execGetPldmCommands]
@[simp] theorem keeps_execGetPdrRepositoryInfo (_path req s) : Keeps s (execGetPdrRepositoryInfo _path req s) := by simp [execGetPdrRepositoryInfo]
@[simp] theorem keeps_execGetPdr (_path req s) : Keeps s (execGetPdr _path req s) := by simp [execGetPdr]
@[simp] theorem keeps_execGetSensorReading (_path req s) : Keeps s (execGetSensorReading _path req s) := by
  unfold execGetSensorReading
  refine keeps_onPldm (fun b s => ?_) _ _ _ _ _
  split <;> simp
@[simp] theorem keeps_execGetSensorThresholds (_path req s) : Keeps s (execGetSensorThresholds _path req s) := by simp [execGetSensorThresholds]
@[simp] theorem keeps_execRequestUpdate (_path req s) : Keeps s (execRequestUpdate _path req s) := by simp [execRequestUpdate]
@[simp] theorem keeps_execType5FlowImage (image s) : Keeps s (execType5FlowImage image s) := by simp [execType5FlowImage]
@[simp] theorem keeps_execActivateFirmware (_path req s) : Keeps s (execActivateFirmware _path req s) := by simp [execActivateFirmware]

/-! What the block does with no command waiting. -/

@[simp] theorem held_countWaits (s) : (countWaits s).held = s.held := by simp [countWaits]
@[simp] theorem held_idle (s) : (idle s).held = s.held := by simp [idle]

end Sys2Proof.Machine
end

section
/-! PROOFS. What each command may do to what is held (R11, R375, R498 to R502, R506, R567). -/
namespace Sys2Proof.Machine

open Sys2Proof

/-- How a command may change what is held. -/
inductive HeldStep (c : Instr) : Held → Held → Prop where
  | kept (a) : HeldStep c a a
  | handed (a) (m : Master) (hc : (∃ n, c = .claimVerified n) ∨ c = .passRein ∨ c = .reinLeaseExpiry) :
      HeldStep c a { a with holder := m }
  | floorRaised (a) (n : Nat) (hn : a.svnFloor ≤ n) : HeldStep c a { a with svnFloor := n }
  | named (a) (d : Nat) (hfresh : a.devIdValid = false) : HeldStep c a { a with devIdValid := true, devId := d }
  | tripped (a) : HeldStep c a { a with trip := true }
  | reset (a) (hc : (∃ x, c = .powerOnRelease x) ∨ c = .supplyFail ∨ c = .perstAssert) :
      HeldStep c a { a with holder := Master.none, devIdValid := false, devId := 0, trip := false }

@[simp] theorem held_packageReset (s powered perst x) : (packageReset s powered perst x).held =
    { s.held with holder := Master.none, devIdValid := false, devId := 0, trip := false } := rfl

theorem held_senseTemp (k t s) :
    (senseTemp k t s).held = s.held ∨ (senseTemp k t s).held = { s.held with trip := true } := by
  have trips (u : State) : (u.onPwr fun p => { p with trip := true }).held = { u.held with trip := true } := rfl
  simp only [senseTemp]
  split
  · right
    rw [held_logEvent, trips]
    simp
  · left
    simp

theorem execPassRein_held {s t} (h : exec .passRein s = .next t) : ∃ m, t.held = { s.held with holder := m } := by
  obtain ⟨m, -, e⟩ | ⟨m, -, -, e | e⟩ | e := onMsg_next h
  · subst e
    split
    · exact ⟨s.held.holder, by simp⟩
    · split
      · exact ⟨s.held.holder, by simp⟩
      · next hand _ _ => exact ⟨hand, by simp⟩
  all_goals exact ⟨s.held.holder, by simp [e]⟩

theorem execReinLeaseExpiry_held {s t} (h : exec .reinLeaseExpiry s = .next t) : ∃ m, t.held = { s.held with holder := m } := by
  obtain rfl := Host.Outcome.next.inj h
  obtain ⟨rest, -, e⟩ | e := popDue_cases .reinLease s _ <;> rw [e]
  · split
    · exact ⟨Master.none, by simp [takenDue]⟩
    · exact ⟨s.held.holder, by simp [takenDue]⟩
  · exact ⟨s.held.holder, rfl⟩

theorem execClaimVerified_held {n s t} (h : exec (.claimVerified n) s = .next t) : ∃ m, t.held = { s.held with holder := m } := by
  obtain rfl := Host.Outcome.next.inj h
  obtain ⟨-, e⟩ | e := State.when_cases (alive s) s _ <;> rw [e]
  · split
    · exact ⟨s.held.holder, rfl⟩
    · split
      · exact ⟨s.held.holder, rfl⟩
      · split
        · obtain ⟨m, hm⟩ := held_decideClaims _ _
          exact ⟨m, hm.trans (by simp)⟩
        · obtain ⟨m, hm⟩ := held_decideClaims _ _
          exact ⟨m, hm.trans (by simp)⟩
  · exact ⟨s.held.holder, rfl⟩

theorem execThermalSensorRead_held {k x s t} (h : exec (.thermalSensorRead k x) s = .next t) :
    t.held = s.held ∨ t.held = { s.held with trip := true } := by
  obtain ⟨-, rfl⟩ := withUnit_next h
  obtain ⟨-, e⟩ | e := State.when_cases (alive s) s (senseTemp k x) <;> rw [e]
  · exact held_senseTemp k x s
  · exact .inl rfl

theorem execSetId_held {s t} (h : exec .setId s = .next t) :
    t.held = s.held ∨ s.held.devIdValid = false ∧ ∃ d, t.held = { s.held with devIdValid := true, devId := d } := by
  obtain ⟨m, -, rfl⟩ | ⟨m, -, -, rfl | rfl⟩ | rfl := onMsg_next h
  · simp only
    split
    · exact .inl (held_reply ..)
    · next hc =>
      simp only [Bool.or_eq_true, not_or, Bool.not_eq_true] at hc
      exact .inr ⟨hc.1.2, m.arg 0 4, by rw [held_reply, held_reparent]; rfl⟩
  · exact .inl (held_reply ..)
  · exact .inl (held_reply ..)
  · exact .inl rfl

theorem execFwFlashWriteDone_held {s t} (h : exec .fwFlashWriteDone s = .next t) :
    ∃ n, s.held.svnFloor ≤ n ∧ t.held = { s.held with svnFloor := n } := by
  have raise (u : State) (f : Groom → Nat) : (u.onGrm fun g => { g with svnFloor := f g }).held
      = { u.held with svnFloor := f u.grm } := rfl
  obtain rfl := Host.Outcome.next.inj h
  obtain ⟨-, e⟩ | e := State.when_cases (aon s && s.grm.st == 1) s _ <;> rw [e]
  · split
    · exact ⟨_, le_rfl, rfl⟩
    · next m flags img rest _ =>
      have floor : (reply (flashImage (s.onGrm fun g => { g with activating := rest }) img) m stOk []).grm.svnFloor = s.held.svnFloor :=
        congrArg Held.svnFloor (show (reply (flashImage (s.onGrm fun g => { g with activating := rest }) img) m stOk []).held = s.held by simp)
      by_cases hb : bit flags 1 = true
      · refine ⟨max s.held.svnFloor (imageSvn img), le_max_left .., ?_⟩
        simp [hb, raise, floor]
      · refine ⟨s.held.svnFloor, le_rfl, ?_⟩
        simp [hb]
  · exact ⟨_, le_rfl, rfl⟩

theorem execPowerOnRelease_held {x s t} (h : exec (.powerOnRelease x) s = .next t) : t.held = s.held
    ∨ t.held = { s.held with holder := Master.none, devIdValid := false, devId := 0, trip := false } := by
  obtain rfl := Host.Outcome.next.inj h
  obtain ⟨-, e⟩ | e := State.when_cases (!s.boot.powered) s _ <;> rw [e]
  · exact .inr rfl
  · exact .inl rfl

/-- The commands that may change what is held. -/
def changesHeld : Instr → Bool
  | .passRein | .reinLeaseExpiry | .claimVerified _ | .fwFlashWriteDone | .setId | .thermalSensorRead _ _
  | .powerOnRelease _ | .supplyFail | .perstAssert => true
  | _ => false

theorem exec_keeps (c s) (hc : changesHeld c = false) : Keeps s (exec c s) := by
  cases c <;> dsimp only [exec]
  case passRein | reinLeaseExpiry | claimVerified | fwFlashWriteDone | setId | thermalSensorRead | powerOnRelease
    | supplyFail | perstAssert => simp [changesHeld] at hc
  all_goals simp

theorem exec_held {c s t} (h : exec c s = .next t) : HeldStep c s.held t.held := by
  cases hc : changesHeld c with
  | false => exact exec_keeps c s hc t h ▸ .kept _
  | true =>
    cases c <;> try simp [changesHeld] at hc
    case passRein => obtain ⟨m, e⟩ := execPassRein_held h; exact e ▸ .handed _ m (.inr (.inl rfl))
    case reinLeaseExpiry => obtain ⟨m, e⟩ := execReinLeaseExpiry_held h; exact e ▸ .handed _ m (.inr (.inr rfl))
    case claimVerified n => obtain ⟨m, e⟩ := execClaimVerified_held h; exact e ▸ .handed _ m (.inl ⟨n, rfl⟩)
    case fwFlashWriteDone => obtain ⟨n, hn, e⟩ := execFwFlashWriteDone_held h; exact e ▸ .floorRaised _ n hn
    case setId =>
      obtain e | ⟨hf, d, e⟩ := execSetId_held h
      · exact e ▸ .kept _
      · exact e ▸ .named _ d hf
    case thermalSensorRead =>
      obtain e | e := execThermalSensorRead_held h
      · exact e ▸ .kept _
      · exact e ▸ .tripped _
    case powerOnRelease x =>
      obtain e | e := execPowerOnRelease_held h
      · exact e ▸ .kept _
      · exact e ▸ .reset _ (.inl ⟨x, rfl⟩)
    case supplyFail => obtain rfl := Host.Outcome.next.inj h; exact .reset _ (.inr (.inl rfl))
    case perstAssert => obtain rfl := Host.Outcome.next.inj h; exact .reset _ (.inr (.inr rfl))


theorem HeldStep.pending_eq {c a b} (h : HeldStep c a b) : b.pending = a.pending := by
  cases h <;> rfl

theorem HeldStep.vendorHash_eq {c a b} (h : HeldStep c a b) : b.vendorHash = a.vendorHash := by
  cases h <;> rfl

theorem HeldStep.svnFloor_le {c a b} (h : HeldStep c a b) : a.svnFloor ≤ b.svnFloor := by
  cases h with
  | floorRaised n hn => exact hn
  | _ => exact le_rfl

theorem HeldStep.holder_ne {c a b} (h : HeldStep c a b) (hne : b.holder ≠ a.holder) :
    (∃ n, c = .claimVerified n) ∨ c = .passRein ∨ c = .reinLeaseExpiry
      ∨ (∃ x, c = .powerOnRelease x) ∨ c = .supplyFail ∨ c = .perstAssert := by
  cases h with
  | handed m hc => tauto
  | reset hc => tauto
  | _ => exact absurd rfl hne

theorem HeldStep.cleared {c a b} (h : HeldStep c a b)
    (hc : (a.devIdValid = true ∧ ¬(b.devIdValid = true ∧ b.devId = a.devId)) ∨ (a.trip = true ∧ b.trip = false)) :
    (∃ x, c = .powerOnRelease x) ∨ c = .supplyFail ∨ c = .perstAssert := by
  cases h <;> simp_all

/-- Settles O43: no kind of change to what is held touches the queue. -/
theorem commandsLeaveQueue : Obligations.CommandsLeaveQueue := by
  unfold Obligations.CommandsLeaveQueue
  intro c s t h
  exact (exec_held h).pending_eq

/-- Settles O44: the hash never changes and the floor only rises, under a command and under time. -/
theorem fusesHeldByEveryStep : Obligations.FusesHeldByEveryStep := by
  unfold Obligations.FusesHeldByEveryStep
  rintro v n s t ⟨hhash, hfloor⟩ h
  rw [step] at h
  split at h
  · have hs := exec_held h
    exact ⟨hs.vendorHash_eq.trans hhash, hfloor.trans hs.svnFloor_le⟩
  · obtain rfl := Host.Outcome.next.inj h
    exact ⟨(congrArg Held.vendorHash (held_idle s)).trans hhash, hfloor.trans (congrArg Held.svnFloor (held_idle s)).ge⟩

/-- Settles O46: the holder is changed only by handing it over and by a package reset. -/
theorem reinChangesHandsOnlyBy : Obligations.ReinChangesHandsOnlyBy := by
  unfold Obligations.ReinChangesHandsOnlyBy
  intro c s t h hne
  exact (exec_held h).holder_ne hne

/-- Settles O47: an ID is given only where there is none, and the trip only set, but for a package reset. -/
theorem onlyPackageResetClears : Obligations.OnlyPackageResetClears := by
  unfold Obligations.OnlyPackageResetClears
  intro c s t h hc
  exact (exec_held h).cleared hc

end Sys2Proof.Machine
end

section
/-! PROOFS. What a write through the debug window leaves (R404). -/
namespace Sys2Proof.Machine

open Sys2Proof

/-- From `s` to `t` only memory state and what a health event may change may differ. -/
def MemHealth (s t : State) : Prop :=
  t = { s with
    mem := t.mem
    regs := t.regs
    hlt := t.hlt
    boot := { s.boot with population := t.boot.population }
    fab := { s.fab with ports := t.fab.ports } }

theorem MemHealth.trans {s t u : State} (h : MemHealth s t) (k : MemHealth t u) : MemHealth s u := by
  unfold MemHealth at *
  rw [k, h]

theorem memHealth_onMem (s : State) (f : MemSys → MemSys) : MemHealth s (s.onMem f) := rfl

theorem HealthOnly.memHealth {s t : State} (h : HealthOnly s t) : MemHealth s t := by
  unfold HealthOnly at h
  unfold MemHealth
  rw [h]

theorem HealthOnly.mem_eq {s t : State} (h : HealthOnly s t) : t.mem = s.mem := by
  unfold HealthOnly at h
  rw [h]

theorem healthOnly_captureErr (s : State) (a v : Nat) : HealthOnly s (captureErr s a v) := by
  unfold captureErr
  split <;> rfl

/-- A storm of corrected errors is latched, logged and counted toward a fence. -/
theorem healthOnly_memStorm (s : State) (a : Nat) : HealthOnly s (memStorm s a) := by
  unfold memStorm
  dsimp only
  split
  · exact .trans ((healthOnly_latch s _ _).trans (healthOnly_logEvent _ _ _ _ _ _ _)) (healthOnly_fenceEvent _ _)
  · exact .refl s

/-- What a corrected error counts before the storm is judged. -/
def countCe (s : State) (a : Nat) (patrol : Bool) (ctx : Option Nat) : State :=
  ((captureErr s (memBlk (memDie a) + 0x10) (memErrRec a 0 patrol (if patrol then none else ctx))).count64
    (memBlk (memDie a) + 0x18) 1).onMem fun m => { m with ceWindow := Tbl.upd 0 m.ceWindow (memDie a) (· + 1) }

theorem memCe_eq (s : State) (a : Nat) (patrol : Bool) (ctx : Option Nat) :
    memCe s a patrol ctx = memStorm (countCe s a patrol ctx) a := rfl

theorem memHealth_memCe (s : State) (a : Nat) (patrol : Bool) (ctx : Option Nat) : MemHealth s (memCe s a patrol ctx) := by
  rw [memCe_eq]
  exact ((((healthOnly_captureErr s _ _).trans (healthOnly_count64 _ _ _)).memHealth).trans (memHealth_onMem _ _)).trans
    (healthOnly_memStorm _ a).memHealth

/-- A corrected error changes no byte and no uncorrectable word. -/
theorem memCe_mem (s : State) (a : Nat) (patrol : Bool) (ctx : Option Nat) :
    (memCe s a patrol ctx).mem.dpa = s.mem.dpa ∧ (memCe s a patrol ctx).mem.ue = s.mem.ue := by
  have hcount : (captureErr s (memBlk (memDie a) + 0x10) (memErrRec a 0 patrol (if patrol then none else ctx))).mem = s.mem :=
    (healthOnly_captureErr s _ _).mem_eq
  rw [memCe_eq, (healthOnly_memStorm _ a).mem_eq]
  simp [countCe, State.count64, hcount]

/-- What correcting the latent errors of a range keeps. -/
structure SymsMerged (s t : State) : Prop where
  frame : MemHealth s t
  dpa_eq : t.mem.dpa = s.mem.dpa
  ue_eq : t.mem.ue = s.mem.ue

theorem symsMerged_mergeSyms (s : State) (a len : Nat) (add : Bool) (ctx : Option Nat) :
    SymsMerged s (mergeSyms s a len add ctx) := by
  unfold mergeSyms
  dsimp only
  generalize (s.mem.sym.filter _) = ws
  induction ws generalizing s with
  | nil => exact ⟨rfl, rfl, rfl⟩
  | cons w ws ih =>
    obtain ⟨hdpa, hue⟩ := memCe_mem s (32 * w) false ctx
    obtain ⟨hf, hd, hu⟩ := ih ((memCe s (32 * w) false ctx).onMem fun m => { m with sym := m.sym.erase w })
    exact ⟨((memHealth_memCe s (32 * w) false ctx).trans (memHealth_onMem _ _)).trans hf, hd.trans hdpa, hu.trans hue⟩

/-- Where no latent error is met, none is corrected. -/
theorem mergeSyms_of_clear {s : State} {a len : Nat} (add : Bool) (ctx : Option Nat)
    (h : (s.mem.sym.all fun w => decide (32 * w + 32 ≤ a) || decide (a + len ≤ 32 * w)) = true) :
    mergeSyms s a len add ctx = s := by
  have hnone : s.mem.sym.filter (fun w => decide (a / 32 ≤ w) && decide (w * 32 < a + len)
      && (add || !(decide (a ≤ 32 * w) && decide (32 * w + 32 ≤ a + len)))) = [] := by
    rw [List.filter_eq_nil_iff]
    intro w hw hmet
    have hclear := List.all_eq_true.1 h w hw
    simp only [Bool.or_eq_true, Bool.and_eq_true, decide_eq_true_eq] at hclear hmet
    omega
  unfold mergeSyms
  rw [hnone]
  rfl

/-- A write that meets no uncorrectable word stores its bytes. -/
theorem dpaPut_of_noUe {s : State} {a : Nat} {d : List Byte} (ctx : Option Nat) (h : ueWords s a d.length = []) :
    MemHealth (mergeSyms s a d.length false ctx) (dpaPut s a d ctx).1
      ∧ (dpaPut s a d ctx).1 = { mergeSyms s a d.length false ctx with mem := (dpaPut s a d ctx).1.mem }
      ∧ (dpaPut s a d ctx).1.mem.dpa = memWriteN s.mem.dpa a d := by
  obtain ⟨-, hdpa, hue⟩ := symsMerged_mergeSyms s a d.length false ctx
  have hbad : ueWords (mergeSyms s a d.length false ctx) a d.length = [] := by rw [ueWords, hue]; exact h
  have hput : (dpaPut s a d ctx).1 = (dpaWrite (mergeSyms s a d.length false ctx) a d).1 := by
    simp [dpaPut, dpaWrite, dpaMerge, hbad, memUes]
  rw [hput]
  refine ⟨rfl, rfl, ?_⟩
  simp [dpaWrite, dpaMerge, hbad, hdpa]

/-- Settles O49: the write corrects the latent errors it meets in part and stores its bytes in one write. -/
theorem debugWindowStores : Obligations.DebugWindowStores := by
  unfold Obligations.DebugWindowStores
  intro s off d hup hfit
  refine ⟨?_, fun hclosed => ?_⟩
  · rintro a rfl hen hrein hue
    obtain ⟨hhealth, hmem, hdpa⟩ := dpaPut_of_noUe none hue
    refine ⟨_, congrArg Host.Outcome.next (State.when_of _ (by simp [hup, hfit, hen, hrein, -Nat.reducePow])), ?_, fun hclear => ?_, fun b => ?_⟩
    · exact (symsMerged_mergeSyms s _ _ false none).frame.trans hhealth
    · rw [mergeSyms_of_clear false none hclear] at hmem
      exact hmem
    · rw [hdpa, memRead_memWriteN]
  · refine congrArg Host.Outcome.next (State.when_not _ ?_)
    obtain h | h := hclosed <;> simp [h]

end Sys2Proof.Machine
end

section
/-! PROOFS. The bytes of a completion entry (R408, R409, R419), and commands that write no memory (R422 to R427). -/
namespace Sys2Proof.Machine

open Sys2Proof

/-! What follows the write of an entry. -/

/-- From `s` to `t` only rings, schedule and interrupts may differ. -/
def RingsOnly (s t : State) : Prop :=
  t = { s with host := t.host, cp := t.cp, sch := t.sch } ∧ t.host.mem = s.host.mem

theorem RingsOnly.refl (s : State) : RingsOnly s s := ⟨rfl, rfl⟩

theorem RingsOnly.trans {s t u : State} (h : RingsOnly s t) (k : RingsOnly t u) : RingsOnly s u := by
  obtain ⟨h1, h2⟩ := h
  obtain ⟨k1, k2⟩ := k
  refine ⟨?_, k2.trans h2⟩
  rw [k1, h1]

theorem ringsOnly_updRing (s : State) (q : Nat) (f : Ring → Ring) : RingsOnly s (s.updRing q f) := ⟨rfl, rfl⟩

theorem ringsOnly_charge (s : State) (x i n : Nat) : RingsOnly s (s.charge x i n) := by
  have hcharge := State.charge_frame s x i n
  exact ⟨by rw [hcharge], by rw [hcharge]⟩

theorem ringsOnly_chargeCpl (s : State) (q : Nat) : RingsOnly s (chargeCpl s q) := by
  unfold chargeCpl
  split
  · exact (ringsOnly_charge s _ _ _).trans (ringsOnly_charge _ _ _ _)
  · exact .refl s

theorem ringsOnly_settleRing (s : State) (q : Nat) : RingsOnly s (settleRing s q) := by
  unfold settleRing
  split
  · exact ringsOnly_updRing s q _
  · exact .refl s

theorem ringsOnly_signalVector (s : State) (f v : Nat) : RingsOnly s (signalVector s f v) := by
  unfold signalVector
  split <;> exact ⟨rfl, rfl⟩

/-- Beside the bytes of the entry, writing it changes only rings, schedule and interrupts. -/
theorem ringsOnly_writeEntry (q : Nat) (c : Cpl) (s : State) :
    RingsOnly (hostWrite s (entryAddr s q) (cplBytes c (((s.ring q).cqTail / cqSize (s.ring q) + 1) % 2)))
      (writeEntry q c s) := by
  unfold writeEntry
  dsimp only
  have hpop (s : State) : RingsOnly s (popDone (chargeCpl s q) q) := (ringsOnly_chargeCpl s q).trans ⟨rfl, rfl⟩
  have hsettled := ((ringsOnly_updRing (hostWrite s (entryAddr s q)
    (cplBytes c (((s.ring q).cqTail / cqSize (s.ring q) + 1) % 2))) q
      fun r => { r with cqTail := (r.cqTail + 1) % 2 ^ 32 }).trans (hpop _)).trans (ringsOnly_settleRing _ q)
  split
  · exact hsettled
  · exact hsettled.trans (ringsOnly_signalVector _ _ _)

theorem cplBytes_length (c : Cpl) (phase : Nat) : (cplBytes c phase).length = 32 := by
  simp [cplBytes, toLE]

theorem exec_completionWrite {s : State} {q : Nat} {c : Cpl} {rest : List Cpl} (hup : hostUp s = true)
    (hdie : dieRuns s 5 = true) (hq : q < 256) (hold : oldestDone s q = true) (hdone : Tbl.get [] s.cp.done q = c :: rest)
    (hlead : c.lead = none) (hfull : cqFull s q = false) (hen : (s.ring q).enabled = true)
    (hok : hostOk s (ringFn s q) (entryAddr s q) 32 true = true) :
    exec (.completionWrite q) s = .next (writeEntry q c s) := by
  have halive : alive s = true := by
    simp only [dieRuns, Bool.and_eq_true] at hdie
    exact hdie.1.1
  change execCompletionWrite q s = _
  simp [execCompletionWrite, State.when, hup, hdie, hq, hold, hdone, hlead, hfull, hen, hok, halive]

/-- Settles O50: the 32 bytes are one write of host memory, and what follows it writes no byte. -/
theorem completionEntryWritten : Obligations.CompletionEntryWritten := by
  unfold Obligations.CompletionEntryWritten
  intro s q c rest hup hdie hq hold hdone hlead hfull hen hok
  obtain ⟨hframe, hmem⟩ := ringsOnly_writeEntry q c s
  refine ⟨_, exec_completionWrite hup hdie hq hold hdone hlead hfull hen hok, ?_, ?_, ?_, ?_, fun a => ?_⟩
  · rw [hframe]; rfl
  · rw [hframe]; rfl
  · rw [hframe]; rfl
  · rw [hframe]; rfl
  · rw [hmem, hostWrite, State.onHost_host, memRead_memWriteN, cplBytes_length]

/-! What keeps the memories. -/

section
variable (s : State)

@[simp] theorem memories_onRegs (f : RegFile → RegFile) : (s.onRegs f).memories = s.memories := rfl
@[simp] theorem memories_onCp (f) : (s.onCp f).memories = s.memories := rfl
@[simp] theorem memories_onSch (f) : (s.onSch f).memories = s.memories := rfl
@[simp] theorem memories_updHnd (c h : Nat) (f : Handle → Handle) : (updHnd s c h f).memories = s.memories := rfl
@[simp] theorem memories_unbind (c h : Nat) : (unbind s c h).memories = s.memories := rfl
@[simp] theorem memories_setGroup (c g st : Nat) : (setGroup s c g st).memories = s.memories := rfl
end

theorem memories_foldl {α : Type} {f : State → α → State} (h : ∀ s a, (f s a).memories = s.memories) (l : List α) (s : State) :
    (l.foldl f s).memories = s.memories := by
  induction l generalizing s with
  | nil => rfl
  | cons a l ih => rw [List.foldl_cons, ih, h]

@[simp] theorem memories_beat (s : State) (c : Nat) : (s.beat c).memories = s.memories := by
  rw [State.beat_frame]; rfl

@[simp] theorem memories_charge (s : State) (x i n : Nat) : (s.charge x i n).memories = s.memories := by
  rw [State.charge_frame]; rfl

@[simp] theorem memories_unbindOwn (s : State) (id : Nat) : (unbindOwn s id).memories = s.memories := by
  unfold unbindOwn
  exact memories_foldl (fun s a => memories_unbind s _ _) _ s

@[simp] theorem memories_addCpl (s : State) (q : Nat) (c : Cpl) : (s.addCpl q c).memories = s.memories := rfl

@[simp] theorem memories_issue (s : State) (q : Nat) (p : Packet) : (issue s q p []).1.memories = s.memories := by
  unfold issue
  dsimp only [List.foldl_nil]
  split <;> rfl

@[simp] theorem memories_chargeOverrun (s : State) (c : Cmd) (n : Nat) : (chargeOverrun s c n).memories = s.memories := by
  unfold chargeOverrun
  split
  · rfl
  · exact (memories_charge _ _ _ _).trans (memories_charge _ _ _ _)

/-- A command that has no scale to push and no version to let go completes without a write to memory. -/
theorem memories_finishCmd (s : State) (c : Cmd) (hslots : c.slots = []) (hrefs : c.refs = []) :
    (finishCmd s c).memories = s.memories := by
  have hpush (c : Cmd) (hslots : c.slots = []) : pushAll s c = s := by simp [pushAll, hslots]
  have hsettle (s : State) (c : Cmd) : (settleHandles s c).memories = s.memories := by
    unfold settleHandles
    exact (memories_foldl (fun s a => memories_updHnd s _ _ _) _ _).trans (memories_foldl (fun s a => memories_updHnd s _ _ _) _ _)
  unfold finishCmd
  dsimp only
  rw [memories_addCpl, memories_onCp, memories_foldl (fun s a => memories_beat s _), memories_chargeOverrun, hrefs,
    List.foldl_nil]
  split
  · rw [memories_unbindOwn, hsettle, hpush]
    exact hslots
  · rfl

@[simp] theorem memories_completeNow (s : State) (q : Nat) (p : Packet) (st csw : Nat) :
    (completeNow s q p st csw).memories = s.memories :=
  (memories_finishCmd _ _ rfl rfl).trans (memories_issue s q p)

theorem memories_wakeGroups (s : State) (c : Nat) (e : Handle) : (wakeGroups s c e).memories = s.memories := by
  unfold wakeGroups
  refine memories_foldl (fun s g => ?_) _ s
  unfold wakeGroup
  split
  · rfl
  · rfl

theorem memories_of_onHead {op q : Nat} {s t : State} {f : Packet → State → State}
    (hf : ∀ p s, (f p s).memories = s.memories) (h : onHead op q s f = .next t) : t.memories = s.memories := by
  obtain ⟨p, -, rfl⟩ | rfl := onHead_next h
  · exact hf p s
  · rfl

theorem memories_nop {q : Nat} {s t : State} (h : execNop q s = .next t) : t.memories = s.memories :=
  memories_of_onHead (fun _ _ => memories_completeNow ..) h

theorem memories_fence {q : Nat} {s t : State} (h : execFence q s = .next t) : t.memories = s.memories := by
  refine memories_of_onHead (fun p s => ?_) h
  split
  · exact memories_completeNow ..
  · rfl

theorem memories_waitStride {q : Nat} {s t : State} (h : execWaitStride q s = .next t) : t.memories = s.memories := by
  refine memories_of_onHead (fun p s => ?_) h
  split
  · exact memories_completeNow ..
  · rfl

theorem memories_waitValueTimeout {q : Nat} {s t : State} (h : execWaitValueTimeout q s = .next t) :
    t.memories = s.memories := by
  obtain ⟨-, rfl⟩ := withUnit_next h
  dsimp only
  split
  · split
    · split
      · split
        · exact memories_completeNow ..
        · rfl
      · rfl
    · rfl
  · rfl

theorem memories_handleBind {q : Nat} {s t : State} (h : execHandleBind q s = .next t) : t.memories = s.memories := by
  refine memories_of_onHead (fun p s => ?_) h
  dsimp only
  split_ifs
  · rw [memories_completeNow, memories_wakeGroups, memories_updHnd, memories_beat]
  · exact memories_completeNow ..
  · rfl

theorem memories_handleRelease {q : Nat} {s t : State} (h : execHandleRelease q s = .next t) :
    t.memories = s.memories := by
  refine memories_of_onHead (fun p s => ?_) h
  dsimp only
  split_ifs
  · rfl
  · exact memories_completeNow ..
  · exact memories_completeNow ..
  · rw [memories_completeNow, memories_foldl (fun s h => memories_unbind s _ h), memories_beat]
  · rfl

theorem memories_seedSet {q : Nat} {s t : State} (h : execSeedSet q s = .next t) : t.memories = s.memories := by
  refine memories_of_onHead (fun p s => ?_) h
  split
  · exact memories_completeNow ..
  · exact (memories_completeNow ..).trans rfl

/-- Settles O60: each of these commands at most changes handles or a seed, and then completes with nothing to push. -/
theorem controlCommandsWriteNoMemory : Obligations.ControlCommandsWriteNoMemory := by
  unfold Obligations.ControlCommandsWriteNoMemory
  rintro s t q (h | h | h | h | h | h | h)
  · exact memories_nop h
  · exact memories_fence h
  · exact memories_waitStride h
  · exact memories_waitValueTimeout h
  · exact memories_handleBind h
  · exact memories_handleRelease h
  · exact memories_seedSet h

end Sys2Proof.Machine
end

section
/-! PROOFS. R10: what a write leaves of read-only registers and of those whose bits are cleared by ones. -/
namespace Sys2Proof.Machine

open Sys2Proof

/-! Bits of a word. -/

theorem bit_eq_testBit (n i : Nat) : bit n i = n.testBit i := by
  simp [bit, Nat.testBit_eq_decide_div_mod_eq, beq_eq_decide]

theorem testBit_sub_and (a b i : Nat) : (a - (a &&& b)).testBit i = (a.testBit i && !b.testBit i) := by
  have hle : a &&& b ≤ a := Nat.and_le_left
  induction i generalizing a b with
  | zero =>
    have hmod : (a &&& b) % 2 = 1 ↔ a % 2 = 1 ∧ b % 2 = 1 := Nat.and_mod_two_eq_one
    have hodd : (a - (a &&& b)) % 2 = 1 ↔ a % 2 = 1 ∧ ¬b % 2 = 1 := by omega
    simp only [Nat.testBit_zero, decide_eq_decide.2 hodd, Bool.decide_and, decide_not]
  | succ i ih =>
    have hhalf : (a - (a &&& b)) / 2 = a / 2 - (a / 2 &&& b / 2) := by
      have hdiv : (a &&& b) / 2 = a / 2 &&& b / 2 := Nat.and_div_two
      have hmod : (a &&& b) % 2 = 1 → a % 2 = 1 := fun h => (Nat.and_mod_two_eq_one.1 h).1
      omega
    rw [Nat.testBit_succ, Nat.testBit_succ, Nat.testBit_succ, hhalf, ih _ _ Nat.and_le_left]

theorem testBit_maskMinus (a b i : Nat) : (maskMinus a b).testBit i = (a.testBit i && !b.testBit i) :=
  testBit_sub_and a b i

/-- Setting a field leaves the bits beside it. -/
theorem testBit_putBits_of_outside {n lo w v i : Nat} (hi : i < lo ∨ lo + w ≤ i) : (putBits n lo w v).testBit i = n.testBit i := by
  have hw : 0 < 2 ^ w := by positivity
  have hn : n = 2 ^ lo * (2 ^ w * (n / 2 ^ lo / 2 ^ w) + bits n lo w) + n % 2 ^ lo := by
    rw [bits, Nat.div_add_mod, Nat.div_add_mod]
  have hput : putBits n lo w v = 2 ^ lo * (2 ^ w * (n / 2 ^ lo / 2 ^ w) + v % 2 ^ w) + n % 2 ^ lo := by
    rw [putBits, Nat.mul_comm (bits n lo w), Nat.mul_comm (v % 2 ^ w)]
    rw [Nat.mul_add] at hn ⊢
    omega
  have hbit (x : Nat) (hx : x < 2 ^ w) : (2 ^ lo * (2 ^ w * (n / 2 ^ lo / 2 ^ w) + x) + n % 2 ^ lo).testBit i
      = if i < lo then (n % 2 ^ lo).testBit i else (n / 2 ^ lo / 2 ^ w).testBit (i - lo - w) := by
    rw [Nat.testBit_two_pow_mul_add _ (Nat.mod_lt _ (by positivity)), Nat.testBit_two_pow_mul_add _ hx]
    split
    · rfl
    · rw [if_neg (by omega)]
  rw [hput, hbit _ (Nat.mod_lt _ hw), ← hbit (bits n lo w) (Nat.mod_lt _ hw), ← hn]

theorem testBit_fieldMask_of_outside {fields : List Fld} {i : Nat}
    (hi : (fields.any fun f => decide (f.lo ≤ i) && decide (i < f.lo + f.width)) = false) : (fieldMask fields).testBit i = false := by
  have hfold (m : Nat) (hm : m.testBit i = false) :
      (fields.foldl (fun m f => putBits m f.lo f.width (2 ^ f.width - 1)) m).testBit i = false := by
    induction fields generalizing m with
    | nil => exact hm
    | cons f fs ih =>
      simp only [List.any_cons, Bool.or_eq_false_iff, Bool.and_eq_false_iff, decide_eq_false_iff_not] at hi
      refine ih hi.2 _ ?_
      rw [testBit_putBits_of_outside (by omega), hm]
  exact hfold 0 (Nat.zero_testBit i)

/-! A register after a write. -/

theorem Tbl.get?_erase_self {α : Type} (t : Tbl α) (k : Nat) : Tbl.get? (Tbl.erase t k) k = none := by
  induction t with
  | nil => rfl
  | cons e t ih =>
    by_cases h : e.1 = k
    · simpa [Tbl.erase, h] using ih
    · simpa [Tbl.erase, h, Tbl.get?] using ih

theorem Tbl.get?_erase_other {α : Type} (t : Tbl α) {k j : Nat} (h : j ≠ k) : Tbl.get? (Tbl.erase t k) j = Tbl.get? t j := by
  induction t with
  | nil => rfl
  | cons e t ih =>
    by_cases hk : e.1 = k
    · have : e.1 ≠ j := fun e' => h (e' ▸ hk)
      simpa [Tbl.erase, hk, Tbl.get?, Ne.symm h] using ih
    · by_cases hj : e.1 = j
      · simp [Tbl.erase, Tbl.get?, hj, h]
      · simpa [Tbl.erase, hk, Tbl.get?, hj] using ih

theorem Tbl.get?_insert_self {α : Type} (t : Tbl α) (k : Nat) (v : α) : Tbl.get? (Tbl.insert t k v) k = some v := by
  induction t with
  | nil => simp [Tbl.insert, Tbl.get?]
  | cons e t ih =>
    simp only [Tbl.insert]
    split_ifs with h1 h2 <;> simp_all [Tbl.get?]

theorem Tbl.get?_insert_other {α : Type} (t : Tbl α) {k j : Nat} (v : α) (h : j ≠ k) :
    Tbl.get? (Tbl.insert t k v) j = Tbl.get? t j := by
  induction t with
  | nil => simp [Tbl.insert, Tbl.get?, Ne.symm h]
  | cons e t ih =>
    simp only [Tbl.insert]
    split_ifs with h1 h2
    · simp [Tbl.get?, Ne.symm h]
    · simp [Tbl.get?, h2, Ne.symm h]
    · simp [Tbl.get?, ih]

theorem reg_setReg_self (s : State) (a v : Nat) : (s.setReg a v).reg a = v % 2 ^ 64 := by
  have : (s.setReg a v).reg a = (BitVec.ofNat 64 v).toNat := by
    simp only [State.reg, State.setReg, State.onRegs]
    split_ifs with h
    · rw [Tbl.get?_erase_self, h]; rfl
    · rw [Tbl.get?_insert_self]; rfl
  rw [this, BitVec.toNat_ofNat]

theorem reg_setReg_other (s : State) {a b : Nat} (v : Nat) (h : b ≠ a) : (s.setReg a v).reg b = s.reg b := by
  simp only [State.reg, State.setReg, State.onRegs]
  split_ifs
  · rw [Tbl.get?_erase_other _ h]
  · rw [Tbl.get?_insert_other _ _ h]

/-- Of a register cleared by ones, a write leaves the ones that it does not name in a field. -/
theorem reg_writeOnes (s : State) (r : RegRow) (key v : Nat) :
    (writeOnes s r key v).reg key = maskMinus (s.reg key) (andNat v (fieldMask r.fields)) := by
  have hfit : maskMinus (s.reg key) (andNat v (fieldMask r.fields)) % 2 ^ 64
      = maskMinus (s.reg key) (andNat v (fieldMask r.fields)) :=
    Nat.mod_eq_of_lt (lt_of_le_of_lt (Nat.sub_le _ _) (BitVec.isLt _))
  have hrearm (u : State) (a : Nat) : (rearmErr u a).reg key = u.reg key := rfl
  have hpad (u : State) (v : Nat) : (u.setReg (key + 0x14) v).reg key = u.reg key := reg_setReg_other u v (by omega)
  unfold writeOnes
  dsimp only
  split
  · split <;> split <;> simp only [hrearm, hpad, reg_setReg_self, hfit]
  · split <;> simp only [hpad, reg_setReg_self, hfit]

/-! The block of a function. -/

/-- Offsets in the block of a function whose registers only the block itself writes (R443). -/
def fnReadOnly (o : Nat) : Prop :=
  o < 0x24 ∨ (0x1014 ≤ o ∧ o < 0x1020) ∨ (0x1108 ≤ o ∧ o < 0x1114) ∨ (0x2000 ≤ o ∧ o < 0x3000 ∧ 0x14 ≤ o % 64 ∧ o % 64 < 0x20)

/-- Where a row of these registers may lie. -/
def fnReadOnlyRow (r : RegRow) : Bool :=
  (r.step == 0 && (decide (r.off + r.width / 8 ≤ 0x24) || decide (0x1014 ≤ r.off ∧ r.off + r.width / 8 ≤ 0x1020)
    || decide (0x1108 ≤ r.off ∧ r.off + r.width / 8 ≤ 0x1114)))
  || (r.step == 64 && r.count == 64 && decide (0x2014 ≤ r.off ∧ r.off + r.width / 8 ≤ 0x2020))

theorem findRow_mem {rows : List RegRow} {o i : Nat} {r : RegRow} (h : findRow rows o = some (r, i)) :
    r ∈ rows ∧ r.index? o = some i := by
  induction rows with
  | nil => simp [findRow] at h
  | cons r' rows ih =>
    rw [findRow] at h
    split at h
    · next j hj =>
      cases h
      exact ⟨List.mem_cons_self, hj⟩
    · obtain ⟨hmem, hidx⟩ := ih h
      exact ⟨List.mem_cons_of_mem _ hmem, hidx⟩

theorem fnReadOnly_of_findRow {o i : Nat} {r : RegRow} (h : findRow fnBlockRows o = some (r, i)) (hacc : r.acc = .ro) :
    fnReadOnly o := by
  obtain ⟨hmem, hidx⟩ := findRow_mem h
  have hrows : ∀ r ∈ fnBlockRows, r.acc = .ro → fnReadOnlyRow r = true := by decide
  have hrow := hrows r hmem hacc
  simp only [fnReadOnlyRow, Bool.or_eq_true, Bool.and_eq_true, beq_iff_eq, decide_eq_true_eq] at hrow
  unfold fnReadOnly
  rw [RegRow.index?] at hidx
  obtain ⟨hstep, hrange⟩ | ⟨⟨hstep, hcount⟩, hrange⟩ := hrow
  · split_ifs at hidx <;> omega
  · simp only [hstep, hcount, Bool.and_eq_true, decide_eq_true_eq] at hidx
    split_ifs at hidx <;> omega

theorem writeFn_readOnly (s : State) (fn : Nat) (rein host : Bool) {o : Nat} (v : Nat) (ho : fnReadOnly o) :
    writeFn s fn rein host o v = s := by
  have hring (q x : Nat) (hx : x ≠ 0) (hx' : x ≠ 8) (hx'' : x ≠ 0x10) : writeRing s fn q x v = s := by
    simp [writeRing, hx, hx', hx'']
  unfold fnReadOnly at ho
  unfold writeFn
  split_ifs with h1 h2 h3 h4 h5 h6 h7 h8 h9 <;> simp only [Bool.and_eq_true, decide_eq_true_eq] at * <;> try omega
  · exact hring _ _ (by omega) (by omega) (by omega)
  · split
    · exact hring _ _ (by omega) (by omega) (by omega)
    · rfl

theorem regBlock_of_low {key : Nat} (h : key % 2 ^ 26 < 0x10000) : regBlock key = (fnBlockRows, key % 2 ^ 26) := by
  have hlow : key < 0x10000 ∨ 0x04000000 ≤ key := by omega
  obtain hlow | hlow := hlow
  · rw [regBlock, if_pos hlow, Nat.mod_eq_of_lt (by omega)]
  · have hmod : key % 0x04000000 < 0x10000 := h
    unfold regBlock
    repeat rw [if_neg (by omega)]
    rw [if_pos hmod]
    rfl

theorem regAt_low {key start : Nat} {r : RegRow} (h : regAt key = some (r, start)) (hlow : key % 2 ^ 26 < 0x10000) :
    ∃ i, findRow fnBlockRows (key % 2 ^ 26) = some (r, i) := by
  rw [regAt, regBlock_of_low hlow] at h
  dsimp only at h
  split at h
  · next r' i hr =>
    cases h
    exact ⟨i, hr⟩
  · cases h

/-- No register of a function's block is cleared by ones. -/
theorem high_of_regAt_w1c {key start : Nat} {r : RegRow} (h : regAt key = some (r, start)) (hacc : r.acc = .w1c) :
    ¬key % 2 ^ 26 < 0x10000 := by
  intro hlow
  obtain ⟨i, hi⟩ := regAt_low h hlow
  have hrows : ∀ r ∈ fnBlockRows, r.acc ≠ .w1c := by decide
  exact hrows r (findRow_mem hi).1 hacc

theorem writeReg_ro {s : State} {rein host : Bool} {key start : Nat} {r : RegRow} (v : Nat)
    (hwin : ¬(groomBlk + 0x10000 ≤ key ∧ key < groomBlk + 0x20000)) (hreg : regAt key = some (r, start))
    (hacc : r.acc = .ro) : writeReg s rein host key v = s := by
  have hwin' : ¬(groomBlk + 0x10000 ≤ key && key < groomBlk + 0x20000) = true := by simpa using hwin
  unfold writeReg
  dsimp only
  rw [if_neg hwin', hreg]
  dsimp only
  rw [hacc]
  split
  · rfl
  · split
    · next hlow =>
      obtain ⟨i, hi⟩ := regAt_low hreg hlow
      exact writeFn_readOnly _ _ _ _ _ (fnReadOnly_of_findRow hi hacc)
    · rfl

theorem writeReg_w1c {s : State} {rein host : Bool} {key start : Nat} {r : RegRow} (v : Nat)
    (hwin : ¬(groomBlk + 0x10000 ≤ key ∧ key < groomBlk + 0x20000)) (hreg : regAt key = some (r, start))
    (hacc : r.acc = .w1c) : writeReg s rein host key v = s ∨ writeReg s rein host key v = writeOnes s r key v := by
  have hwin' : ¬(groomBlk + 0x10000 ≤ key && key < groomBlk + 0x20000) = true := by simpa using hwin
  unfold writeReg
  dsimp only
  rw [if_neg hwin', if_neg (high_of_regAt_w1c hreg hacc), hreg]
  dsimp only
  rw [hacc]
  split
  · exact .inl rfl
  · exact .inr rfl

/-- Settles O51: a read-only register by its place in the map; one cleared by ones because a write takes away no bit
beside those it names in a field. -/
theorem readOnlyRegistersKeep : Obligations.ReadOnlyRegistersKeep := by
  unfold Obligations.ReadOnlyRegistersKeep
  intro s rein host key v r start hwin hreg
  refine ⟨writeReg_ro v hwin hreg, fun hacc i hi _ => ?_⟩
  obtain h | h := writeReg_w1c (s := s) (rein := rein) (host := host) v hwin hreg hacc
  · rw [h]
  · have hv : (andNat v (fieldMask r.fields)).testBit i = false :=
      (Nat.testBit_and _ _ _).trans (by simp [testBit_fieldMask_of_outside hi])
    rw [h, reg_writeOnes, bit_eq_testBit, bit_eq_testBit, testBit_maskMinus, hv, Bool.not_false, Bool.and_true]

end Sys2Proof.Machine
end

section
/-! PROOFS. What the lane operations of a rule may change (R348). -/
namespace Sys2Proof.Machine

open Sys2Proof

/-- From `s` to `t` only task `id`, the accounting counters and the free-value counter may differ. -/
def TaskOnly (id : Nat) (s t : State) : Prop :=
  t = { s with
    upd := { s.upd with tasks := t.upd.tasks }
    sch := { s.sch with acc := t.sch.acc }
    free := t.free }
  ∧ t.upd.tasks.filter (·.id != id) = s.upd.tasks.filter (·.id != id)

theorem TaskOnly.refl (id : Nat) (s : State) : TaskOnly id s s := ⟨rfl, rfl⟩

theorem TaskOnly.trans {id : Nat} {s t u : State} (h : TaskOnly id s t) (k : TaskOnly id t u) : TaskOnly id s u := by
  obtain ⟨h1, h2⟩ := h
  obtain ⟨k1, k2⟩ := k
  refine ⟨?_, k2.trans h2⟩
  rw [k1, h1]

theorem taskOnly_free (id : Nat) (s : State) (n : Nat) : TaskOnly id s { s with free := n } := ⟨rfl, rfl⟩

theorem taskOnly_charge (id : Nat) (s : State) (x i n : Nat) : TaskOnly id s (s.charge x i n) := by
  have hcharge := State.charge_frame s x i n
  exact ⟨by rw [hcharge], by rw [hcharge]⟩

/-- A change of a task that keeps its number keeps every other task. -/
theorem taskOnly_updTask (s : State) (id : Nat) {f : Task → Task} (hf : ∀ t, (f t).id = t.id) :
    TaskOnly id s (s.updTask id f) := by
  refine ⟨rfl, ?_⟩
  change (s.upd.tasks.map fun t => if t.id == id then f t else t).filter _ = _
  induction s.upd.tasks with
  | nil => rfl
  | cons t ts ih =>
    rw [List.map_cons]
    by_cases ht : t.id = id
    · rw [List.filter_cons_of_neg (by simp [ht, hf]), List.filter_cons_of_neg (by simp [ht]), ih]
    · rw [if_neg (by simpa using ht), List.filter_cons_of_pos (by simpa using ht),
        List.filter_cons_of_pos (by simpa using ht), ih]

theorem taskOnly_pastInstr (s : State) (t : Task) : TaskOnly t.id s (pastInstr s t) :=
  taskOnly_updTask s t.id fun _ => rfl

/-- An instruction whose meaning changes only its task does so as a step. -/
theorem taskOnly_updInstr {opc : Nat} {s t : State} {k : Task} {f : Task → UpdEntry → Nat → State → State}
    (hf : ∀ t e w s, TaskOnly t.id s (f t e w s)) (hk : runningTask s = some k) (h : updInstr opc s f = .next t) :
    TaskOnly k.id s t := by
  obtain ⟨k', e, ⟨hk', -, -, -⟩, rfl⟩ | rfl := updInstr_next h
  · obtain rfl : k' = k := by simpa [hk'] using hk
    exact hf _ _ _ _
  · exact .refl _ _

theorem taskOnly_updAlu {opc ops : Nat} {f : Nat → Nat → Nat → Nat} {s t : State} {k : Task} (hk : runningTask s = some k)
    (h : updAlu opc ops f s = .next t) : TaskOnly k.id s t := by
  refine taskOnly_updInstr (fun t _ _ s => ?_) hk h
  refine .trans (.trans (taskOnly_charge t.id s _ _ _) (taskOnly_updTask _ _ ?_)) (taskOnly_pastInstr _ t)
  exact fun _ => rfl

theorem taskOnly_vacc {s t : State} {k : Task} (hk : runningTask s = some k) (h : execVacc s = .next t) :
    TaskOnly k.id s t := by
  refine taskOnly_updInstr (fun t _ _ s => ?_) hk h
  refine .trans (.trans (.trans (taskOnly_free t.id s _) (taskOnly_charge t.id _ _ _ _)) (taskOnly_updTask _ _ ?_))
    (taskOnly_pastInstr _ t)
  exact fun _ => rfl

theorem taskOnly_sop {s t : State} {k : Task} (hk : runningTask s = some k) (h : execSop s = .next t) :
    TaskOnly k.id s t := by
  refine taskOnly_updInstr (fun t _ _ s => ?_) hk h
  refine .trans (.trans (taskOnly_charge t.id s _ _ _) (taskOnly_updTask _ _ ?_)) (taskOnly_pastInstr _ t)
  exact fun _ => rfl

/-- Settles O58: each row is an instruction of the running task that charges it, writes its registers and goes past it. -/
theorem ruleOperationsFrame : Obligations.RuleOperationsFrame := by
  unfold Obligations.RuleOperationsFrame
  intro s t k hk h
  have hframe : TaskOnly k.id s t := by
    simp only [exec, execVadd, execVsub, execVmul, execVfma, execVmax, execVmin, execVabs, execVneg, execVcmplt, execVsel,
      execVrcp, execVrsqrt, execVsqrt, execVexp2, execVlog2] at h
    rcases h with h | h | h | h | h | h | h | h | h | h | h | h | h | h | h | hacc | hsop
    case inr.inr.inr.inr.inr.inr.inr.inr.inr.inr.inr.inr.inr.inr.inr.inl => exact taskOnly_vacc hk hacc
    case inr.inr.inr.inr.inr.inr.inr.inr.inr.inr.inr.inr.inr.inr.inr.inr => exact taskOnly_sop hk hsop
    all_goals exact taskOnly_updAlu hk h
  exact ⟨⟨_, _, _, hframe.1⟩, hframe.2⟩

end Sys2Proof.Machine
end

section
/-! PROOFS. What the steps of a link change (R363 to R367). -/
namespace Sys2Proof.Machine

open Sys2Proof

/-- From `s` to `t` only port `p`, the registers and the health block may differ. -/
def PortOnly (p : Nat) (s t : State) : Prop :=
  t = { s with regs := t.regs, fab := t.fab, hlt := t.hlt } ∧ ∀ r, r ≠ p → portOf t r = portOf s r

theorem PortOnly.refl (p : Nat) (s : State) : PortOnly p s s := ⟨rfl, fun _ _ => rfl⟩

theorem PortOnly.trans {p : Nat} {s t u : State} (h : PortOnly p s t) (k : PortOnly p t u) : PortOnly p s u := by
  obtain ⟨h1, h2⟩ := h
  obtain ⟨k1, k2⟩ := k
  refine ⟨?_, fun r hr => (k2 r hr).trans (h2 r hr)⟩
  rw [k1, h1]

theorem portOnly_updPort (p : Nat) (s : State) (f : Port → Port) : PortOnly p s (updPort s p f) :=
  ⟨rfl, fun _ hr => updPort_other s f hr⟩
theorem portOnly_setReg (p : Nat) (s : State) (a v : Nat) : PortOnly p s (s.setReg a v) := ⟨rfl, fun _ _ => rfl⟩
theorem portOnly_latch (p : Nat) (s : State) (a b : Nat) : PortOnly p s (s.latch a b) := portOnly_setReg ..
theorem portOnly_count32 (p : Nat) (s : State) (a n : Nat) : PortOnly p s (s.count32 a n) := portOnly_setReg ..
theorem portOnly_count64 (p : Nat) (s : State) (a n : Nat) : PortOnly p s (s.count64 a n) := portOnly_setReg ..
theorem portOnly_logEvent (p : Nat) (s : State) (cls code cpath : Nat) (ctx : Option Nat) (data : Nat) :
    PortOnly p s (logEvent s cls code cpath ctx data) := ⟨rfl, fun _ _ => rfl⟩

theorem portOnly_retrainPort (p : Nat) (s : State) : PortOnly p s (retrainPort s p) :=
  (((portOnly_updPort p s _).trans (portOnly_count32 p _ _ _)).trans (portOnly_latch p _ _ _)).trans
    (portOnly_logEvent p _ _ _ _ _ _)

theorem portOnly_replayPort (p : Nat) (s : State) : PortOnly p s (replayPort s p) := by
  unfold replayPort
  dsimp only
  split_ifs
  · exact .refl p s
  · exact portOnly_retrainPort p s
  · exact (portOnly_updPort p s _).trans (portOnly_count64 p _ _ _)

theorem portOnly_flushPort (p : Nat) (s : State) : PortOnly p s (flushPort s p) :=
  (portOnly_count32 p s _ _).trans (portOnly_updPort p _ _)

theorem PortOnly.ite {p : Nat} {s t u : State} {c : Prop} [Decidable c] (ht : PortOnly p s t) (hu : PortOnly p s u) :
    PortOnly p s (if c then t else u) := by
  split
  · exact ht
  · exact hu

theorem portOnly_takeTraining (p : Nat) (h : List Byte) (s : State) : PortOnly p s (takeTraining p h s) := by
  unfold takeTraining
  dsimp only
  refine .trans ?_ (portOnly_updPort p _ _)
  refine .trans ?_ (.ite (portOnly_latch p _ _ _) (.refl p _))
  refine .trans ?_ (.ite ((portOnly_latch p _ _ _).trans (portOnly_logEvent p _ _ _ _ _ _)) (.refl p _))
  exact .ite (.refl p s) (portOnly_flushPort p s)

theorem portOnly_when {p : Nat} {s t : State} {ok c : Bool} {f : State → State} (hf : ∀ s, PortOnly p s (f s))
    (h : withUnit ok (s.when c f) = .next t) : PortOnly p s t := by
  obtain ⟨-, rfl⟩ := withUnit_next h
  obtain ⟨-, e⟩ | e := State.when_cases c s f
  · rw [e]; exact hf s
  · rw [e]; exact .refl p s

/-- Settles O59: each of the four rows is a change of its own port, with what it counts and logs. -/
theorem portStepsFrame : Obligations.PortStepsFrame := by
  unfold Obligations.PortStepsFrame
  rintro s t p on h (hs | hs | hs | hs)
  · exact portOnly_when (fun s => portOnly_replayPort p s) hs
  · exact portOnly_when (fun s => portOnly_retrainPort p s) hs
  · exact portOnly_when (fun s => portOnly_updPort p s _) hs
  · exact portOnly_when (portOnly_takeTraining p h) hs

end Sys2Proof.Machine
end

section
/-! PROOFS. Commands at the head of a queue that issue and complete: control, numerics and movement. -/
namespace Sys2Proof.Machine

open Sys2Proof

/-- A packet command that is ready answers the state that its meaning gives. -/
theorem onHead_eq {op q : Nat} {p : Packet} {s t : State} {f : Packet → State → State} (h : HeadReady op q p s)
    (hf : f p s = t) : onHead op q s f = .next t :=
  (onHead_ready f h).trans (congrArg _ hf)

theorem exec_signal_ready {s : State} {q : Nat} {p : Packet} (h : HeadReady 0x03 q p s) (hclear : ringClear s q = true) :
    exec (.signal q) s = .next (if bit (p.hdr 32 2) 14 && bit (p.hdr 32 2) 15 then completeNow s q p stBadParam 0
      else if bit (p.hdr 32 2) 15 then signalLocal q p s
      else if bit (p.hdr 32 2) 14 then signalHost q p s
      else signalRemote q p s) := by
  change execSignal q s = _
  refine onHead_eq h ?_
  simp [hclear]

theorem exec_handleBind_ready {s : State} {q : Nat} {p : Packet} {e : Handle} (h : HeadReady 0x05 q p s)
    (he : e = bindEntry s (q % 64) p) (hdie : diesIssue s [coreDie (p.hdr 16 1)] = true)
    (hcore : ctxOwnsCore s (q % 64) (p.hdr 16 1) = true) (hh : p.hdr 17 1 < 64) (hfmt : fmtReserved e.fmt = false)
    (halias : e.aliasOf < 64) (hbound : (hnd s (p.hdr 16 1) (p.hdr 17 1)).bound = false)
    (hok : bindOk s (p.hdr 16 1) (p.hdr 17 1) e = true) :
    exec (.handleBind q) s = .next (completeNow (wakeGroups
      (updHnd (s.beat (dieCpath (coreDie (p.hdr 16 1)) 0)) (p.hdr 16 1) (p.hdr 17 1) fun _ => e) (p.hdr 16 1) e) q p stOk 0) := by
  subst he
  change execHandleBind q s = _
  refine onHead_eq h ?_
  simp [hdie, hcore, hh, hfmt, halias, hbound, hok]

/-- Settles O1: each row is the meaning of its packet where its own checks pass. -/
theorem controlCommandsComplete : Obligations.ControlCommandsComplete := by
  unfold Obligations.ControlCommandsComplete
  intro s q p
  refine ⟨fun h => ?_, fun h hclear => ?_, fun h hstride => ?_, fun h hclear hself hhost => ?_, fun h hclear hself hhost => ?_,
    fun h hclear hself hhost => ?_, fun h hdie hcore hh hfmt halias hbound hok => ?_, fun h hs e hdie hcore hrel => ?_,
    fun h hok => ?_, fun h hzero => ?_⟩
  · change execNop q s = _
    exact onHead_ready _ h
  · change execFence q s = _
    exact onHead_eq h (if_pos hclear)
  · change execWaitStride q s = _
    exact onHead_eq h (if_pos hstride)
  · rw [exec_signal_ready h hclear]
    simp [hself, hhost]
  · rw [exec_signal_ready h hclear]
    simp [hself, hhost]
  · rw [exec_signal_ready h hclear]
    simp [hself, hhost]
  · exact exec_handleBind_ready h rfl hdie hcore hh hfmt halias hbound hok
  · have hnone : hs.any (fun h => !ownedBy (hnd s (p.hdr 16 1) h) (q % 64) (s.gen (q % 64))) = false :=
      List.any_eq_false.2 fun h' hm => by simp [(hrel h' hm).1]
    have hall : hs.all (fun h => canRelease (hnd s (p.hdr 16 1) h)) = true := List.all_eq_true.2 fun h' hm => (hrel h' hm).2
    change execHandleRelease q s = _
    refine onHead_eq h ?_
    simp only [← e, hnone, hall, hdie, hcore]
    rfl
  · change execScaleSet q s = _
    refine onHead_eq h ?_
    simp [hok]
  · change execSeedSet q s = _
    refine onHead_eq h ?_
    simp [hzero]

/-- Settles O2: each reading row goes on over the state and bytes that its read gives. -/
theorem readingCommandsComplete : Obligations.ReadingCommandsComplete := by
  unfold Obligations.ReadingCommandsComplete
  intro s q p
  refine ⟨fun h hok r hr => ⟨fun hdev t hwrite => ?_, fun hhost hlead hwin => ?_⟩, fun r hr h hread hmet => ?_,
    fun r hr hq hp hop hseat hdie hlim => ⟨fun hnot => ?_, fun hread hue hmet hissue => ?_⟩⟩ <;> subst hr
  · change execScaleRead q s = _
    refine onHead_eq h ?_
    simp [hok, hdev, hwrite]
  · change execScaleRead q s = _
    refine onHead_eq h ?_
    simp [hok, hhost, hlead, hwin]
  · have hmeaning : waitRead q p s = completeNow (vaRead s (homeDie s (q % 64)) (q % 64) (p.hdr 16 8) 8).1 q p stOk 0 := by
      simp [waitRead, hread, hmet]
    exact ⟨by change execWaitValue q s = _; exact onHead_eq h hmeaning,
      by change execWaitValueRecheck q s = _; exact onHead_eq h hmeaning⟩
  · change execWaitValueTimeout q s = _
    simp only [execWaitValueTimeout, hq, hp, hop, hseat, hdie]
    simp only [hnot]
    simp [hlim]
  · change execWaitValueTimeout q s = _
    simp [execWaitValueTimeout, hq, hp, hop, hseat, hdie, hlim, hread, hue, hmet, hissue]

theorem issueDma_ready {kind : JobKind} {q : Nat} {p : Packet} {s : State} {dies : List Nat} {issuer : Job → Nat}
    (hcheck : dmaCheck s (q % 64) kind p = 0)
    (hdies : dies = if kind == .load || kind == .store then jobDies (dmaJobs kind p) else []) (hissue : diesIssue s dies = true)
    (hissuer : ∀ j, (if kind == .load || kind == .store then dmaIssuer j.core else if kind == .offload then issOffload
      else issCache) = issuer j) :
    issueDma kind q p s = issueJobs s q p dies (dmaJobs kind p) fun s j => startJob s (issuer j) j := by
  subst hdies
  simp only [issueDma, hcheck, hissue, hissuer]
  simp

theorem issueGather_ready {op q : Nat} {p : Packet} {s : State} (hcheck : gatherCheck s (q % 64) op p = 0)
    (hissue : diesIssue s (jobDies (gatherJobs p)) = true) : issueGather op q p s
      = kickMovers (assignDies (issueJobs s q p (jobDies (gatherJobs p)) (gatherJobs p) queueGather)) := by
  simp [issueGather, hcheck, hissue]

theorem diesIssue_nil (s : State) : diesIssue s [] = true := rfl

/-- Settles O3: four rows are one issue by their kind of job, three one issue to the gather engines. -/
theorem movementCommandsIssue : Obligations.MovementCommandsIssue := by
  unfold Obligations.MovementCommandsIssue
  intro s q p
  refine ⟨fun h hcheck hissue => ?_, fun h hcheck hissue => ?_, fun h hcheck => ?_, fun h hcheck => ?_,
    fun h hcheck hissue => ?_, fun h hcheck hissue => ?_, fun h hcheck hissue => ?_⟩
  · change execLoad q s = _
    exact onHead_eq h (issueDma_ready hcheck rfl hissue fun _ => rfl)
  · change execStore q s = _
    exact onHead_eq h (issueDma_ready hcheck rfl hissue fun _ => rfl)
  · change execOffload q s = _
    exact onHead_eq h (issueDma_ready hcheck rfl (diesIssue_nil s) fun _ => rfl)
  · change execPrefetch q s = _
    exact onHead_eq h (issueDma_ready hcheck rfl (diesIssue_nil s) fun _ => rfl)
  · change execGather q s = _
    exact onHead_eq h (issueGather_ready hcheck hissue)
  · change execScatter q s = _
    exact onHead_eq h (issueGather_ready hcheck hissue)
  · change execRouteTokens q s = _
    exact onHead_eq h (issueGather_ready hcheck hissue)

end Sys2Proof.Machine
end

section
/-! PROOFS. Steps that a unit or the block takes under conditions on the state: movers, memory units, vector units. -/
namespace Sys2Proof.Machine

open Sys2Proof

/-- A conditional row acts where its condition holds. -/
theorem next_when_of {s t : State} {f : State → State} {c : Bool} (hc : c = true) (hf : f s = t) :
    (.next (s.when c f) : Out) = .next t :=
  congrArg _ ((State.when_of f hc).trans hf)

/-- A conditional row of a unit acts where the unit is there and its condition holds. -/
theorem withUnit_when_of {s t : State} {f : State → State} {ok c : Bool} (hok : ok = true) (hc : c = true) (hf : f s = t) :
    withUnit ok (s.when c f) = .next t := by
  rw [hok, withUnit_true, next_when_of hc hf]

/-- A unit's step on a die that is clocked, by what it gives. -/
theorem unitStep_eq {ok : Bool} {d : Nat} {s t : State} {f : State → State} (hok : ok = true) (hdie : dieRuns s d = true)
    (hf : f s = t) : unitStep ok d s f = .next t :=
  (unitStep_runs f hok hdie).trans (congrArg _ hf)

theorem exec_requestAdmit {s : State} {id : Nat} {r : Req} (hr : s.mov.waiting.find? (·.id == id) = some r)
    (hdie : dieRuns s (issuerDie r.issuer) = true) :
    exec (.requestAdmit id) s = .next (kickMovers (admitReq s r)) := by
  change execRequestAdmit id s = _
  rw [execRequestAdmit, hr]
  exact next_when_of hdie rfl

/-- Settles O4: each row finds the descriptor, claim, request or pair it names, with what it waits for. -/
theorem moverStepsRun : Obligations.MoverStepsRun := by
  unfold Obligations.MoverStepsRun
  intro s
  refine ⟨fun die hd hdie => ?_, fun core h c hcore hh hdie hclaim hcan hgroups => ?_,
    fun id r pa t hr hdie htag hhost hplace ht hsr hcount hold => ?_, fun id r hr hdie htag hhost hlink => ?_,
    fun id finding hz r hr hdie href hok => ?_,
    fun job dest slot i j n hjob hkind hrow hpair hcounted hdone htag hdie hn => ?_⟩
  · exact unitStep_runs (kickMovers ∘ assignGather die) (decide_eq_true hd) hdie
  · change execHandleClaim core h s = _
    refine unitStep_eq (by simp [hcore, hh]) hdie ?_
    simp [hclaim, hcan, hgroups]
  · rw [exec_requestAdmit hr hdie]
    simp [admitReq, htag, hhost, hplace, ht, hsr, hcount, hold]
  · rw [exec_requestAdmit hr hdie]
    simp [admitReq, htag, hhost, hlink]
  · change execRequestLand id finding hz s = _
    rw [execRequestLand, hr]
    exact next_when_of (by rw [hdie, href, hok]; rfl) rfl
  · subst hn
    change execRouteCountWrite job dest slot s = _
    rw [execRouteCountWrite, hjob]
    exact next_when_of (by rw [hkind, hpair, hcounted, hdone, htag, hdie]; rfl) rfl

/-- Settles O5: each row where its unit is in the state that its condition asks for. -/
theorem memoryUnitStepsRun : Obligations.MemoryUnitStepsRun := by
  unfold Obligations.MemoryUnitStepsRun
  intro s halive
  refine ⟨fun pc n hpc hst => ?_, fun u hu hunit hst => ⟨?_, ?_⟩, fun u hu hunit hwant => ?_, fun u hu hst hbusy => ?_,
    fun u hu hst hbusy => ?_, fun u hu hst hreset => ?_, fun u w f hu hf hframe hst hen hunit hidle => ?_,
    fun mask dimms failed himg => ?_⟩
  · exact withUnit_when_of (decide_eq_true hpc) (by simp [halive, hst]) rfl
  · exact withUnit_when_not (decide_eq_true hu) (by simp)
  · exact withUnit_when_of (decide_eq_true hu) (by rw [halive, hunit, hst]; rfl) rfl
  · exact withUnit_when_of (decide_eq_true hu) (by rw [halive, hunit, hwant]; rfl) rfl
  · exact withUnit_when_of (decide_eq_true hu) (by simp [halive, hst, hbusy]) rfl
  · exact withUnit_when_of (decide_eq_true hu) (by simp [halive, hst, hbusy]) rfl
  · exact withUnit_when_of (decide_eq_true hu) (by simp [halive, hst, hreset]) rfl
  · have hcond : (alive s && framePopulated s (unitWordAddr u w) && (srUnit s u).st == 0 && bit (s.reg (unitBlk u)) 0
        && decide (f < (if u < 8 then 3 else 4)) && addrUnit (unitWordAddr u w) == u
        && !(s.mov.waiting.any fun r => (reqPlace s r).2.2 == targetOf s (unitWordAddr u w))) = true := by
      simp [halive, hframe, hst, hen, hf, hunit, hidle]
    refine ⟨?_, ?_, ?_, ?_⟩
    · rintro rfl
      exact withUnit_when_of (decide_eq_true hu) hcond (if_pos rfl)
    · rintro rfl
      exact withUnit_when_of (decide_eq_true hu) hcond (by simp)
    · rintro rfl hue
      exact withUnit_when_of (decide_eq_true hu) hcond (by simp [hue])
    · rintro rfl hue hsym
      exact withUnit_when_of (decide_eq_true hu) hcond (by simp only [hue, hsym]; rfl)
  · exact next_when_of (by simp [halive, himg]) rfl

/-- The next operation of a vector unit, once it can run, takes its inputs, writes its rows and leaves the queue. -/
theorem vuRun_ready {op c : Nat} {alt : Option Bool} {v : VuOp} {s t : State} (hz : Nat) (h : VuReady op alt c v s t) :
    vuRun op alt c hz s = .next (vuFinish v hz t) := by
  obtain ⟨hc, hdie, hfront, hop, hcore, halt, husable, hlatch, hgate, hready, harmed, hcheck⟩ := h
  have hperform : vuPerform v hz s = vuFinish v hz t := by simp [vuPerform, hcore, harmed, hcheck]
  refine unitStep_eq (decide_eq_true hc) hdie ?_
  simp [hfront, hop, halt, husable, hlatch, withCluster, hgate, hready, hperform]

/-- Settles O6: the rows are one operation, told apart by opcode and variant. -/
theorem vectorOperationsRun : Obligations.VectorOperationsRun := by
  unfold Obligations.VectorOperationsRun
  intro s t c hz v
  exact ⟨vuRun_ready hz, vuRun_ready hz, vuRun_ready hz, vuRun_ready hz, vuRun_ready hz, vuRun_ready hz, vuRun_ready hz, vuRun_ready hz, vuRun_ready hz, vuRun_ready hz, vuRun_ready hz, vuRun_ready hz, vuRun_ready hz, vuRun_ready hz, vuRun_ready hz, vuRun_ready hz, vuRun_ready hz, vuRun_ready hz, vuRun_ready hz, vuRun_ready hz⟩

end Sys2Proof.Machine
end

section
/-! PROOFS. Compute and block commands issue. -/
namespace Sys2Proof.Machine

open Sys2Proof

/-- Settles O7: each row passes its own checks of the packet, the dies and the version it reads. -/
theorem computeCommandsIssue : Obligations.ComputeCommandsIssue := by
  unfold Obligations.ComputeCommandsIssue
  intro s q p
  refine ⟨fun h hform hcheck hissue r hr hver => ?_, fun h hform hcheck hissue => ?_, fun h hcheck hissue => ?_,
    fun h hcheck hissue => ?_, fun h hall hzero => ?_, fun h hone hzero t ht => ?_⟩
  · subst hr
    change execMatmul q s = _
    refine onHead_eq h ?_
    simp [hform, mmMemIssue, hcheck, hissue, hver]
  · change execMatmul q s = _
    refine onHead_eq h ?_
    simp [hform, mmHandleIssue, hcheck, hissue]
  · change execAttn q s = _
    refine onHead_eq h ?_
    simp [attnIssue, hcheck, hissue]
  · change execVec q s = _
    refine onHead_eq h ?_
    simp [vecIssue, hcheck, hissue]
  · change execVersionRelease q s = _
    refine onHead_eq h ?_
    simp [hall, hzero, bit]
  · change execVersionRelease q s = _
    refine onHead_eq h ?_
    simp [hone, hzero, ht, bit]

/-- A forward block or a training block whose checks pass begins over the versions it reached and holds. -/
theorem blockIssue_forward {s : State} {kind q : Nat} {p : Packet} {d : State × Nat × Descs} {v : State × Nat × List Nat}
    {a : State × Nat} {refs : List (Nat × Nat)} {bufs : List Nat} (hkind : kind < 2)
    (hshape : blockShape s (q % 64) kind p = 0) (hissue : diesIssue s (diesOf (bpClusters p)) = true)
    (hd : readDescs s (q % 64) (bpLayers p) (bpTable p) (kind != 0) = d) (hread : d.2.1 = 0)
    (hlayers : layersStatus kind p d.2.2 = 0) (hregions : blockRegions d.1 (q % 64) p = 0)
    (hstash : stashStatus d.1 (q % 64) kind p d.2.2.layers = 0)
    (hfence : coresFenced d.1 (partsOf (bpClusters p) (bpG p) (bpTokens p / 128)) = 0)
    (hv : reachAll d.1 (q % 64) d.2.2.layers = v) (hreach : v.2.1 = 0)
    (hrefs : refs = List.zipWith (fun pa l => (pa, l.version)) v.2.2 d.2.2.layers)
    (ha : acquireAll v.1 refs = a) (hacquire : a.2 = 0)
    (hbufs : bufs = refs.map (fun r => bufOf v.1 r.1 r.2))
    (hmeet : kind = 1 → anyMeet (blockOuts 1 p d.2.2.layers) (blockIns p d.2.2 bufs) = false) :
    blockIssue kind q p s
      = blockStart kind q p refs (List.zipWith (fun b l => { l with buf := b }) bufs d.2.2.layers) a.1 := by
  have hk2 : kind ≠ 2 := by omega
  have hov : (decide (kind ≠ 0) && anyMeet (blockOuts kind p d.2.2.layers) (blockIns p d.2.2 bufs)) = false := by
    obtain rfl | rfl : kind = 0 ∨ kind = 1 := by omega
    · rfl
    · simpa using hmeet rfl
  obtain ⟨a1, a2⟩ := a
  obtain ⟨d1, d2, d3⟩ := d
  obtain ⟨v1, v2, v3⟩ := v
  subst hrefs hbufs
  simp only at *
  subst hacquire hread hreach
  simp only [blockIssue, hshape, hissue, hd, hlayers, hregions, hstash, hfence, hv, ha, if_neg hk2, hov]
  rfl

/-- A backward block whose checks pass begins over the versions of its stash, and acquires none. -/
theorem blockIssue_backward {s : State} {q : Nat} {p : Packet} {d : State × Nat × Descs} {v : State × Nat × List Nat}
    {refs : List (Nat × Nat)} {bufs : List Nat}
    (hshape : blockShape s (q % 64) 2 p = 0) (hissue : diesIssue s (diesOf (bpClusters p)) = true)
    (hd : readDescs s (q % 64) (bpLayers p) (bpTable p) true = d) (hread : d.2.1 = 0)
    (hlayers : layersStatus 2 p d.2.2 = 0) (hstash : stashStatus d.1 (q % 64) 2 p d.2.2.layers = 0)
    (hfence : coresFenced d.1 (partsOf (bpClusters p) (bpG p) (bpTokens p / 128)) = 0)
    (hv : reachAll d.1 (q % 64) d.2.2.layers = v) (hreach : v.2.1 = 0)
    (hrefs : refs = List.zipWith (fun pa l => (pa, l.version))
      (((findStash v.1 (q % 64) (bpTag p)).elim [] (·.refs)).map (·.1)) d.2.2.layers)
    (hbufs : bufs = refs.map (fun r => bufOf v.1 r.1 r.2))
    (hmeet : anyMeet (blockOuts 2 p d.2.2.layers) (blockIns p d.2.2 bufs) = false) :
    blockIssue 2 q p s
      = blockStart 2 q p refs (List.zipWith (fun b l => { l with buf := b }) bufs d.2.2.layers) v.1 := by
  obtain ⟨d1, d2, d3⟩ := d
  obtain ⟨v1, v2, v3⟩ := v
  subst hrefs hbufs
  simp only at *
  subst hread hreach
  have hback : ((2 : Nat) != 0) = true := rfl
  simp only [blockIssue, hshape, hissue, hback, hd, hlayers, hstash, hfence, hv, if_true, hmeet]
  rfl

/-- Settles O8: the two rows are one issue, of a block without and with its backward pass. -/
theorem blockCommandsIssue : Obligations.BlockCommandsIssue := by
  unfold Obligations.BlockCommandsIssue
  intro s q p d v a hcase hissue hd hread hlayers hregions hstash hfence hv hreach ha hacquire refs bufs hrefs hbufs hmeet
  subst hrefs
  obtain ⟨hshape, h⟩ | ⟨hshape, h⟩ := hcase
  · have hop : p.op = 0x21 := h.2.2.1
    rw [hop] at hd hlayers hstash ⊢
    change execBlockFwd q s = _
    exact onHead_eq h (blockIssue_forward (by decide) hshape hissue hd.symm hread hlayers hregions hstash hfence hv.symm hreach
      rfl ha.symm hacquire hbufs nofun)
  · have hop : p.op = 0x22 := h.2.2.1
    have hmeet := hmeet hop
    rw [hop] at hd hlayers hstash ⊢
    change execBlockTrain q s = _
    exact onHead_eq h (blockIssue_forward (by decide) hshape hissue hd.symm hread hlayers hregions hstash hfence hv.symm hreach
      rfl ha.symm hacquire hbufs fun _ => hmeet)

/-- Settles O9: the versions are those of the stash that the packet names. -/
theorem blockBackwardIssues : Obligations.BlockBackwardIssues := by
  unfold Obligations.BlockBackwardIssues
  intro s q p d v h hshape hissue hd hread hlayers hstash hfence hv hreach refs bufs hrefs hbufs hmeet
  change execBlockBwd q s = _
  exact onHead_eq h
    (blockIssue_backward hshape hissue hd.symm hread hlayers hstash hfence hv.symm hreach hrefs hbufs hmeet)

end Sys2Proof.Machine
end

section
/-! PROOFS. The engines of the cores and their pads. -/
namespace Sys2Proof.Machine

open Sys2Proof

/-- Settles O10: each row where its engine has the work it names and the die is clocked. -/
theorem coreEnginesStep : Obligations.CoreEnginesStep := by
  unfold Obligations.CoreEnginesStep
  intro s
  refine ⟨fun n b hb hdie hslot hdue => ?_, fun n b r hb hdie hloaded hrun hctx hdue => ?_,
    fun c site p hc hsite hdie hgate hnext hwant => ?_, fun c site hc hsite hdie hidle hroom hready hgate => ?_,
    fun c site hc hsite hdie hold hinj => ?_, fun c n hz p hc hdie hp hmay hscrub => ?_,
    fun c site kind info hc hsite hk hk' hdie => ?_⟩
  · change execBatchWindowExpiry n s = _
    simp [execBatchWindowExpiry, hb, hdie, hslot, hdue]
  · change execBatchBudgetDeadline n s = _
    simp [execBatchBudgetDeadline, hb, hdie, hloaded, hrun, hctx, hdue]
  · change execProductTake c site s = _
    refine unitStep_eq (by simp [hc, hsite]) hdie ?_
    simp [withCluster, hgate, hnext, hwant]
  · change execPassIssue c site s = _
    refine unitStep_eq (by simp [hc, hsite]) hdie ?_
    have hbusy : ¬3 ≤ passesOn s c site := by omega
    simp only [List.isEmpty_eq_false_iff.2 hidle, hbusy, hready, withCluster, hgate]
    rfl
  · change execPassRetire c site s = _
    refine unitStep_eq (by simp [hc, hsite]) hdie ?_
    simp [hold, hinj]
  · change execDrainDone c n hz s = _
    refine unitStep_eq (decide_eq_true hc) hdie ?_
    simp [hp, hmay, hscrub]
  · change execCoreFault c site kind info s = _
    refine unitStep_eq (by simp [hc, hsite]) hdie ?_
    have hkind : ¬(kind = 0 || 6 < kind) = true := by simp; omega
    exact if_neg hkind

/-- Settles O11: each row on the group or core it names, in the state its step asks for. -/
theorem padStepsRun : Obligations.PadStepsRun := by
  unfold Obligations.PadStepsRun
  intro s c g hc hg hdie
  have hunit : (decide (c < 256) && decide (g < 8)) = true := by simp [hc, hg]
  refine ⟨fun w b f hw hen hplace hwait hst s' line hline hs' => ?_, fun e he => ?_, fun hen hst huncov hidle => ?_,
    fun hst huncov hstale => ?_, fun hst => ?_, fun hst hstale => ?_⟩
  · subst hline hs'
    change execPadPatrolRead c w b f s = _
    refine unitStep_eq (by simp [hc, hw]) hdie ?_
    have hawake : ¬2 ≤ (groupOf s c (w / 256)).st := by omega
    simp [hen, hplace, hwait, hawake]
  · change execPadScrubDone c s = _
    refine unitStep_eq (decide_eq_true hc) hdie ?_
    simp [he]
  · change execBankGroupGateRequest c g s = _
    refine unitStep_eq hunit hdie ?_
    simp [hen, hst, huncov, hidle]
  · change execBankGroupGated c g s = _
    refine unitStep_eq hunit hdie ?_
    simp [hst, huncov, hstale]
  · change execBankGroupWakeDone c g s = _
    exact unitStep_eq hunit hdie (if_pos hst)
  · have hcore : (8 * c + g) / 8 = c := by omega
    have hgroup : (8 * c + g) % 8 = g := by omega
    change execGateAbandon 0 (8 * c + g) s = _
    rw [execGateAbandon, if_pos rfl, hcore, hgroup]
    refine unitStep_eq (decide_eq_true (by omega)) hdie ?_
    simp [hst, hstale]

end Sys2Proof.Machine
end

section
/-! PROOFS. The steps of the saddlebags. -/
namespace Sys2Proof.Machine

open Sys2Proof

/-- A row of a block's run answers what its meaning gives for the run. -/
theorem onRun_eq {id : Nat} {r : BRun} {s t : State} {f : BRun → State → State} (hrun : runOf s id = some r)
    (hdie : dieRuns s 0 = true) (hended : ended s id = false) (hf : f r s = t) : onRun id s f = .next t := by
  simp [onRun, hrun, hdie, hended, hf]

/-- Settles O12: the rows of a run, for the run that is there, and the rows of a core or die that is clocked. -/
theorem saddlebagStepsRun : Obligations.SaddlebagStepsRun := by
  unfold Obligations.SaddlebagStepsRun
  intro s r l
  refine ⟨fun hrun hdie hended => ⟨fun hpol hl hdecided hagain hfwd hways => ?_, fun t ht hall => ?_, fun o ho => ⟨?_, ?_⟩,
    fun o hkind hbegun ho htried hnone hstored hhold hways => ?_, fun t o ht ho => ⟨?_, ?_, ?_⟩, fun hdue hways => ?_⟩,
    fun c t hc hdie hscrub hpark => ?_, fun d w n hd hw hn hdie hen hgate hbusy => ?_, fun d e keep hd hdie he hkeep => ?_⟩
  · have hdue : (r.polOf l != 1 && decide (l < r.layers.length) && !r.decided.contains l && !r.again
        && (List.range r.parts.length).any fun j => r.steps[r.pos.getD j 0]? = some (.fwd l 0)) = true := by
      simp only [hdecided, hagain, hfwd, hl]
      simpa using hpol
    refine ⟨fun hoff => ?_, fun bs hoff hpick => ?_, fun hoff hpick => ?_⟩ <;> change execStashReserve r.cmd l s = _ <;>
      refine onRun_eq hrun hdie hended ?_
    · simp only [hdue, hways, if_pos hoff]
      rfl
    · simp only [hdue, hways, if_neg hoff, hpick]
      rfl
    · simp only [hdue, hways, if_neg hoff, hpick]
      rfl
  · change execStashCopyLanded r.cmd l s = _
    refine onRun_eq hrun hdie hended ?_
    simp only [ht, hall]
    rfl
  · intro hdirect hall
    change execOffloadDrainDone r.cmd l s = _
    refine onRun_eq hrun hdie hended ?_
    simp only [ho, hdirect, hall]
    rfl
  · intro t hdirect ht
    change execOffloadDrainDone r.cmd l s = _
    refine onRun_eq hrun hdie hended ?_
    simp only [ho, hdirect, ht]
    rfl
  · change execOffloadFetchStart r.cmd l s = _
    refine onRun_eq hrun hdie hended ?_
    simp only [ho, hbegun, hnone, hstored, hhold, hways, bne_iff_ne.2 hkind, bne_iff_ne.2 htried]
    rfl
  · intro s' b hlead hb
    change execOffloadFetchDone r.cmd l s = _
    refine onRun_eq hrun hdie hended ?_
    simp only [ht, ho, hlead, hb]
    rfl
  · intro s' hlead hb
    change execOffloadFetchDone r.cmd l s = _
    refine onRun_eq hrun hdie hended ?_
    simp only [ht, ho, hlead, hb]
    rfl
  · intro hlead hremote
    change execOffloadFetchDone r.cmd l s = _
    refine onRun_eq hrun hdie hended ?_
    simp only [ht, ho, hlead, if_true]
    exact if_neg (Bool.eq_false_iff.1 hremote)
  · change execRebuildRun r.cmd l s = _
    refine onRun_eq hrun hdie hended ?_
    simp only [hdue, hways]
    rfl
  · change execParkTransfer c s = _
    refine unitStep_eq (decide_eq_true hc) hdie ?_
    simp [hscrub, hpark]
  · subst hn
    have hunit : (decide (d < 4) && decide (w < 768 * 2048)) = true := by simp [hd, hw]
    have hreads : (!bit (s.reg (saddleBlk d)) 0 || (gateOf s (fuWay d (w / 2048 / 48))).st != 0 || sthBusy s d) = false := by
      simp [hen, hgate, hbusy]
    refine ⟨?_, fun hue => ?_, ?_⟩
    · change execSthPatrolRead d w 0 s = _
      refine unitStep_eq hunit hdie ?_
      simp only [hreads]
      rfl
    · change execSthPatrolRead d w 1 s = _
      refine unitStep_eq hunit hdie ?_
      simp only [hreads, State.onBlk, hue]
      rfl
    · change execSthPatrolRead d w 2 s = _
      refine unitStep_eq hunit hdie ?_
      simp only [hreads]
      rfl
  · subst hkeep
    change execSaddlebagScrubDone d s = _
    refine unitStep_eq (decide_eq_true hd) hdie ?_
    simp only [he]

end Sys2Proof.Machine
end

section
/-! PROOFS. The commands of reduction and of the update die, and the packets of collectives. -/
namespace Sys2Proof.Machine

open Sys2Proof

/-- A collective command whose checks pass, whose step is open and for which a place is free begins its part. -/
theorem collIssue_ready {q : Nat} {p : Packet} {st mask treeAddr : Nat} {outs ins : Tree → List (Nat × Nat)}
    {step : Option (Nat × Bool)} {go : Nat → Tree → State → State} {s s' : State} {r : State × Nat × Tree}
    (hplace : (askPlace s q).2 = true) (hdies : diesIssue s (diesOf mask) = true) (hr : r = readTree s (q % 64) treeAddr)
    (hread : r.2.1 = 0) (hst : collStatus s (q % 64) st mask r.2.2 (outs r.2.2) (ins r.2.2 ++ [(treeAddr, 64)]) = 0)
    (hseal : ∀ e ∈ step, e.2 = true → maySeal s (q % 64) e.1 = true)
    (hopen : step.elim (some r.1) (fun e => stepIssue r.1 (q % 64) e.1) = some s') :
    collIssue q p st mask treeAddr outs ins step go s = collStart q p mask (fun id => go id r.2.2) (askPlace s' q).1 := by
  obtain ⟨r1, r2, t⟩ := r
  simp only at hread hst hopen ⊢
  subst hread
  cases step with
  | none =>
    cases hopen
    simp only [collIssue, hdies, ← hr, hst, hplace]
    rfl
  | some e =>
    have htails : (e.2 && !tailsSent s (q % 64) e.1) = false := by
      have := hseal e rfl
      grind
    have hsealed : (e.2 && steFor (stepEntry s (q % 64) e.1) e.1 && steSealed (stepEntry s (q % 64) e.1)) = false := by
      have := hseal e rfl
      grind
    simp only [Option.elim_some] at hopen
    simp only [collIssue, hdies, ← hr, hst, hplace, Option.any_some, htails, hsealed, hopen]
    rfl

/-- Settles O13: the four rows are one issue, with their regions and step. -/
theorem collectiveCommandsIssue : Obligations.CollectiveCommandsIssue := by
  unfold Obligations.CollectiveCommandsIssue
  intro s q p r hplace
  refine ⟨fun h hdies hr hread hst hseal s' hopen => ?_, fun h hdies hr hread hst hseal s' hopen => ?_,
    fun h hdies hr hread hst => ?_, fun h hdies hr hread hst => ?_⟩
  · change execReduce q s = _
    exact onHead_eq h (collIssue_ready hplace hdies hr hread hst (by rintro _ ⟨⟩; exact hseal) hopen)
  · change execReduceLr q s = _
    exact onHead_eq h (collIssue_ready hplace hdies hr hread hst (by rintro _ ⟨⟩; exact hseal) hopen)
  · change execBroadcast q s = _
    exact onHead_eq h (collIssue_ready hplace hdies hr hread hst nofun rfl)
  · change execAllgather q s = _
    exact onHead_eq h (collIssue_ready hplace hdies hr hread hst nofun rfl)

/-- Settles O14: each row over the list or image that it reads. -/
theorem updateCommandsIssue : Obligations.UpdateCommandsIssue := by
  unfold Obligations.UpdateCommandsIssue
  intro s q p r
  refine ⟨fun h hst hfence hr hread e he hfault hbad hmeet => ?_, fun h hlo hhi hzero hzero' hmode hfence hr hread => ?_,
    fun h hlo hhi hzero hidle hr hread himg => ?_⟩
  · obtain ⟨r1, r2, r3⟩ := r
    obtain ⟨e1, e2, e3⟩ := e
    simp only at hread he hfault hbad hmeet ⊢
    subst hread hfault hbad
    change execUpdate q s = _
    refine onHead_eq h ?_
    simp only [updateIssue, hst, hfence, ← hr, ← he, hmeet]
    rfl
  · obtain ⟨r1, r2, r3⟩ := r
    simp only at hread ⊢
    subst hread
    have hn : fieldLE p.params 8 2 ≠ 0 := by omega
    have hn' : ¬1024 < fieldLE p.params 8 2 := by omega
    change execPrecond q s = _
    refine onHead_eq h ?_
    simp only [precondIssue, hn, hn', hzero, hzero', hmode, hfence, ← hr]
    rfl
  · obtain ⟨r1, r2, r3⟩ := r
    simp only at hread himg ⊢
    subst hread
    change execRuleLoad q s = _
    refine onHead_eq h ?_
    have hn : p.par 8 4 ≠ 0 := by omega
    have hn' : ¬4096 < p.par 8 4 := by omega
    simp only [ruleLoadIssue, hn, hn', hzero, hidle, ← hr, himg]
    rfl

/-! Packets received. -/

/-- A received packet's row answers what its meaning gives once the packet is taken. -/
theorem onRx_eq {type vc p : Nat} {k : FPkt} {s t : State} {ready : FPkt → Bool} {f : FPkt → State → State}
    (h : RxReady type vc p k s) (hready : ready k = true) (hf : f k (takenRx vc p k s) = t) : onRx type vc p s ready f = .next t :=
  (onRx_ready f h hready).trans (congrArg _ hf)

/-- An answer of the current generation acts. -/
theorem onAnswer_eq {type p : Nat} {k : FPkt} {s t : State} {f : FPkt → State → State} (h : RxReady type 1 p k s)
    (hgen : k.gen = (takenRx 1 p k s).gen k.ctx) (hf : f k (takenRx 1 p k s) = t) : onAnswer type p s f = .next t :=
  onRx_eq h rfl ((if_pos hgen).trans hf)

theorem toEntry_found {port : Nat} {k : FPkt} {s : State} {e : UpdEntry} (hctx : (ctxOfJob s k.job).isNone = false)
    (he : replicaFor s k = some e) : toEntry port k s = kickUpd (takeEarly s k) := by
  simp only [toEntry, hctx, he]
  rfl

/-- Settles O15: each packet reaches the collective or entry that it names, from the child or the parent it came from. -/
theorem collectivePacketsTaken : Obligations.CollectivePacketsTaken := by
  unfold Obligations.CollectivePacketsTaken
  intro s port k hawake
  refine ⟨fun h s' c hs' hctx hc => ⟨fun j hkind hj => ?_, fun hkind hroot hparent => ?_⟩, fun h s' c j hs' hctx hc hj => ?_,
    fun h s' c hs' hctx hc hroot hparent => ?_, fun h s' e hs' hctx he => ?_, fun h s' e hs' hctx he => ?_⟩ <;> subst hs'
  · change execChunk port s = _
    refine onRx_eq h hawake ?_
    simp only [hctx, hc, hkind, hj]
    rfl
  · change execChunk port s = _
    refine onRx_eq h hawake ?_
    simp [hctx, hc, hkind, hroot, hparent]
  · change execTail port s = _
    refine onRx_eq h hawake ?_
    simp only [hctx, hc, hj]
    rfl
  · change execResult port s = _
    refine onRx_eq h hawake ?_
    simp [hctx, hc, hroot, hparent]
  · change execReserve port s = _
    exact onRx_eq h hawake (toEntry_found hctx he)
  · change execNotice port s = _
    exact onRx_eq h hawake (toEntry_found hctx he)

/-- Settles O16: every row is an answer of the current generation. -/
theorem collectiveAnswersTaken : Obligations.CollectiveAnswersTaken := by
  unfold Obligations.CollectiveAnswersTaken
  intro s port k s' hs' hgen
  subst hs'
  refine ⟨fun h => ?_, fun h r hr => ?_, fun h => ?_, fun h mine hmine => ?_, fun h e he hphase => ?_, fun h e u he hu => ?_⟩
  · change execChunkAck port s = _
    exact onAnswer_eq h hgen rfl
  · change execChunkAgain port s = _
    refine onAnswer_eq h hgen ?_
    simp only [hr]
  · change execRefused port s = _
    exact onAnswer_eq h hgen rfl
  · obtain rfl := funext hmine
    change execIssued port s = _
    exact onAnswer_eq h hgen rfl
  · change execGrant port s = _
    refine onAnswer_eq h hgen ?_
    have hopen : (!(decide (e.phase = 1) || decide (e.phase = 11))) = false := by
      obtain hp | hp := hphase <;> simp [hp]
    simp only [he, hopen]
    rfl
  · subst hu
    change execCopyStatus port s = _
    refine onAnswer_eq h hgen ?_
    simp only [he]

end Sys2Proof.Machine
end

section
/-! PROOFS. The events of the update die and the instructions of its rules. -/
namespace Sys2Proof.Machine

open Sys2Proof

/-- Settles O17: each row on the reservation, entry or task that it names. -/
theorem updateEventsRun : Obligations.UpdateEventsRun := by
  unfold Obligations.UpdateEventsRun
  intro s
  refine ⟨fun v r e hr he halive => ?_, fun id e c he hphase halive hc hkind hin => ?_, fun id u hu halive hopen hseal => ?_,
    fun t e r hdie hrun hfence ht he hr hres => ?_, fun addr t ht hdie => ?_, fun kind addr t hlo hhi ht hdie => ?_,
    fun addr t ht hdie => ?_⟩
  · change execReservationGrant v s = _
    simp [execReservationGrant, hr, he, halive]
  · change execMulticastLanded id s = _
    simp [execMulticastLanded, he, hphase, halive, hc, hkind, hin]
  · change execUpdateSealReady id s = _
    simp [execUpdateSealReady, hu, halive, hopen, hseal]
  · subst hr
    change execUpdTaskSwitch s = _
    simp [execUpdTaskSwitch, hdie, hrun, hfence, ht, he, hres]
  · change execUpdStreamUe 0 addr s = _
    simp [execUpdStreamUe, ht, hdie]
  · have h0 : kind ≠ 0 := by omega
    have h3 : kind ≠ 3 := by omega
    have h4 : kind < 4 := by omega
    change execUpdStreamUe kind addr s = _
    simp [execUpdStreamUe, ht, hdie, h0, h3, h4]
  · change execUpdStreamUe 3 addr s = _
    simp [execUpdStreamUe, ht, hdie]

/-! A task list may hold two tasks of one number: the model's state does not exclude it. The task that runs is the first
of them, and its instruction changes both, each by its own registers. -/

/-- A task of number 0 over one lane, with register 0, the loop counters and the open loops as given. -/
def twinTask (v0 lc : List Nat) (loops : List (Nat × Nat × Nat)) : Task :=
  ⟨0, 0, 0, 0, false, 0, 1, 0, 0, 0, 1, 0, 0, [(0, v0)], 0, List.replicate 16 0, lc, loops, 0, false, []⟩

/-- The entry of the tasks, whose parameter has one element. -/
def twinEntry : UpdEntry :=
  { blankEntry State.reset 0 0 0 0 with
    phase := 2
    desc := toLE 16 0 ++ toLE 4 1 ++ toLE 4 1 ++ toLE 104 0 }

/-- A running update die with the task `t`, a second task of the same number, and rule word `w` next. -/
def twinState (t : Task) (w : Nat) : State :=
  ((State.reset.onBoot fun b => { b with perst := false }).updCtx 0 fun c => { c with
    rule := List.replicate 64 0#8 ++ toLE 8 w }).onUpd fun u => { u with
      running := some 0
      tasks := [t, twinTask [0, 1] [2, 0, 0] []]
      entries := [twinEntry] }

/-- The last task after a step. -/
def lastTask : Out → Option Task
  | .next s => s.upd.tasks.getLast?
  | _ => none

/-- Refutes O18: VADD with two tasks of number 0, whose register 0 holds one lane in the task that runs and two in the other.
The model keeps the other's second lane, the statement gives it the lanes of the task that runs. -/
theorem not_ruleLaneOperationsRun : ¬Obligations.RuleLaneOperationsRun := by
  unfold Obligations.RuleLaneOperationsRun
  intro h
  have hnext : NextWord 0x01 (twinTask [0] [0, 0, 0] []) twinEntry (twinState (twinTask [0] [0, 0, 0] []) 0x01) := by
    decide +kernel
  have hvadd := (h _ _ _).1 hnext
  exact absurd (congrArg (fun o => (lastTask o).map fun t => (t.vreg 0).length) hvadd) (by decide +kernel)

/-- Refutes O19: ENDL with two tasks of number 0, whose loop counter 1 stands at 0 in the task that runs and at 2 in the other.
The model counts each on from its own, the statement sets both from the task that runs. -/
theorem not_ruleMoveAndControlWordsRun : ¬Obligations.RuleMoveAndControlWordsRun := by
  unfold Obligations.RuleMoveAndControlWordsRun
  intro h
  have hnext : NextWord 0x39 (twinTask [0] [0, 0, 0] [(0, 1, 3)]) twinEntry
      (twinState (twinTask [0] [0, 0, 0] [(0, 1, 3)]) 0x39) := by decide +kernel
  obtain ⟨-, -, -, -, -, -, -, -, -, -, -, hendl, -⟩ := h _ _ _ _ rfl
  have hcount := (hendl hnext 0 1 3 [] rfl).1 (by decide +kernel)
  exact absurd (congrArg (fun o => (lastTask o).map (·.lc)) hcount) (by decide +kernel)

end Sys2Proof.Machine
end

section
/-! PROOFS. The scheduler: its commands, its own steps, and time. -/
namespace Sys2Proof.Machine

open Sys2Proof

/-- Settles O20: each row passes its own checks, and CTX_CREATE over the state in which its regions have been checked. -/
theorem schedulingCommandsComplete : Obligations.SchedulingCommandsComplete := by
  unfold Obligations.SchedulingCommandsComplete
  intro s q p
  refine ⟨fun h hchange hidle hok hrein i hi => ?_, fun h hdown hchange hok c t hc ht hok' hregions => ?_,
    fun h hlive hgen hmode hzero hdown hfn => ?_, fun h hd hn hzero1 hzero4 hzero hrein => ⟨fun h0 => ?_, fun h0 hwin es hes hall => ?_⟩⟩
  · subst hi
    change execPaddockSet q s = _
    refine onHead_eq h ?_
    simp [hchange, hidle, hok, hrein]
  · subst hc ht
    change execCtxCreate q s = _
    refine onHead_eq h ?_
    simp only [hdown, hchange, hok, if_true, hok', hregions]
    rfl
  · have hmode' : ¬2 ≤ p.par 0 1 := by omega
    have hsame : (p.fn != 0 && p.fn != (s.ctx (p.ctx % 64)).fn) = false := by
      obtain hf | hf := hfn <;> simp [hf]
    change execCtxTeardown q s = _
    refine onHead_eq h ?_
    simp [hlive, hgen, hmode', hzero, hdown, hsame, -List.drop_one]
  · have hd' : ¬16 ≤ p.par 0 1 := by omega
    change execGaitLoad q s = _
    refine onHead_eq h ?_
    simp [hd', h0, hzero1, hzero4, hzero, hrein]
  · subst hes
    have hd' : ¬16 ≤ p.par 0 1 := by omega
    have hn' : ¬256 < p.par 2 2 := by omega
    change execGaitLoad q s = _
    refine onHead_eq h ?_
    simp only [hd', hn', h0, hzero1, hzero4, hzero, hrein, hwin, hall]
    rfl

/-- A row of due work does it where it is the first. -/
theorem popDue_eq {d : Due} {rest : List Due} {s t : State} {f : State → State} (h : DueHead d rest s)
    (hf : f (takenDue rest s) = t) : popDue s d f = t :=
  (popDue_head f h).trans hf

theorem withUnit_popDue {ok : Bool} {d : Due} {rest : List Due} {s t : State} {f : State → State} (hok : ok = true)
    (h : DueHead d rest s) (hf : f (takenDue rest s) = t) : withUnit ok (popDue s d f) = .next t := by
  rw [hok, withUnit_true, popDue_eq h hf]

theorem next_popDue {d : Due} {rest : List Due} {s t : State} {f : State → State} (h : DueHead d rest s)
    (hf : f (takenDue rest s) = t) : (.next (popDue s d f) : Out) = .next t :=
  congrArg _ (popDue_eq h hf)

/-- Settles O21: the rows of due work where it is the first, the others on the paddock, context or command they name. -/
theorem schedulerStepsRun : Obligations.SchedulerStepsRun := by
  unfold Obligations.SchedulerStepsRun
  intro s p rest hp
  have hunit : decide (p < 16) = true := decide_eq_true hp
  refine ⟨fun h id new hchange => ?_, fun id new halive hscrub hchange => ?_, fun h l a hpend hl => ?_, fun h => ?_,
    fun h s' x hs' hx => ?_, fun r hdie hrun hswitched hloaded hdebit hsame t ht => ?_,
    fun outs b t0 hdie hswitch hwait u hu hscrub => ?_, fun x t hx halive hdown hphase => ?_,
    fun x t hx halive hdown hphase hscrub => ?_, fun id c halive hwork hc => ?_⟩
  · change execPaddockSetApply p s = _
    refine withUnit_popDue hunit h ?_
    simp only [hchange]
  · change execPaddockZeroingDone p s = _
    refine withUnit_when_of hunit (by simp only [halive, hscrub]; rfl) ?_
    simp only [hchange]
  · obtain ⟨e, l, rfl⟩ := List.exists_cons_of_ne_nil hl
    change execGaitTableEffect p s = _
    refine withUnit_popDue hunit h ?_
    simp only [hpend]
  · change execRunEnd p s = _
    exact withUnit_popDue hunit h rfl
  · subst hs'
    change execSlotBegin p s = _
    refine withUnit_popDue hunit h ?_
    simp only [hx]
  · subst ht
    have hdebit' : ¬runLenUs s r ≤ r.debitUs := by omega
    change execSwitchStart p s = _
    refine withUnit_when_of hunit hdie ?_
    simp only [hrun, hswitched, hloaded, hdebit', hsame]
    rfl
  · subst hu
    change execSwitchDone p s = _
    refine withUnit_when_of hunit hdie ?_
    simp only [hswitch, hwait, hscrub]
    rfl
  · change execTeardownDrainTimeout x s = _
    exact withUnit_when_of (decide_eq_true hx) (by simp [halive, hdown, hphase]) rfl
  · change execTeardownDone x s = _
    refine withUnit_when_of (decide_eq_true hx) halive ?_
    simp [hdown, hphase, hscrub]
  · change execCommandComplete id s = _
    refine next_when_of (by simp [halive, hwork]) ?_
    simp only [hc]

/-- Settles O22: the rows of due work where it is the first, and three registers that the host writes with the rein. -/
theorem timeStepsRun : Obligations.TimeStepsRun := by
  unfold Obligations.TimeStepsRun
  intro s rest fn v
  refine ⟨fun haon hdue => ?_, fun h => ?_, fun h => ?_, fun h => ?_, fun u h => ?_, fun k n h hn => ?_, fun hrein => ?_,
    fun hrein hload => ?_, fun a hrein ha => ?_⟩
  · change execStrideBoundary s = _
    exact next_when_of (by simp [haon, hdue]) rfl
  · change execStrideValuesCommit s = _
    exact next_popDue h rfl
  · change execAccountingSnapshot s = _
    exact next_popDue h rfl
  · change execGaitCapStepDown s = _
    exact next_popDue h rfl
  · change execFenceWindowExpiry u s = _
    exact next_popDue h rfl
  · change execNonceExpiry k s = _
    have hn' : (takenDue rest s).grm.nonces.find? (fun n => n.stride + 1000 ≤ (takenDue rest s).nowStride) = some n := hn
    refine next_popDue h ?_
    simp only [hn']
  · change execTimCommitStride fn v s = _
    exact next_when_of hrein rfl
  · change execLoadNow fn v s = _
    exact next_when_of (by simp [hrein, hload]) rfl
  · change execAccClear fn a v s = _
    exact next_when_of (by simpa [hrein] using ha) rfl

end Sys2Proof.Machine
end

section
/-! PROOFS. Power steps, and what the host reaches: rings, translations, windows, registers. -/
namespace Sys2Proof.Machine

open Sys2Proof

/-- Settles O23: the rows of due work where it is the first, the others on the rail, sensor, pin or gate they name. -/
theorem powerStepsRun : Obligations.PowerStepsRun := by
  unfold Obligations.PowerStepsRun
  intro s rest halive
  refine ⟨fun h => ?_, fun h hphase htarget hcmds hswitch t ht => ?_, fun hphase htarget hrails hunits => ?_,
    fun h hgait hphase t ht => ?_, fun hgait hphase hrails hagain => ?_, fun r mv hr hwait => ?_,
    fun r t hr hwait _ ht hphase => ?_, fun rails w hfuses => ?_, fun hfuses => ?_, fun k t hk => ?_, ?_, ?_, ?_,
    fun n high hn hwas hpol hen => ?_, fun g hg hdie hen hquiet hst => ?_,
    fun k w lo keep hk hw hdie hen hempty hst hlo hkeep => ?_, fun k hk hdie hst => ?_⟩
  · change execGaitCommit s = _
    exact next_popDue h rfl
  · subst ht
    change execWalkGate s = _
    refine next_popDue h (State.when_of _ ?_)
    change (s.pwr.phase == 2 && s.pwr.target == 3 && (s.cp.cmds.all fun c => !isContextQueue c.pkt.q)
      && (s.sch.pdks.all fun p => p.2.switch.isNone)) = true
    rw [hphase, htarget, hcmds, hswitch]
    rfl
  · change execHaltEntryDone s = _
    exact next_when_of (by rw [halive, hphase, htarget, hrails, hunits]; rfl) rfl
  · subst ht
    change execHaltExitBegin s = _
    refine next_popDue h (State.when_of _ ?_)
    change (s.pwr.gait == 4 && s.pwr.phase == 0) = true
    rw [hgait, hphase]
    rfl
  · change execHaltExitDone s = _
    exact next_when_of (by rw [halive, hgait, hphase, hrails, hagain]; rfl) rfl
  · change execAvsAck r mv s = _
    simp only [execAvsAck, hr, halive, hwait]
    rfl
  · subst ht
    change execAvsTimeout r s = _
    simp only [execAvsTimeout, hr, halive, hwait, hphase]
    rfl
  · change execPowerEstimate rails w s = _
    exact next_when_of (by rw [halive, hfuses]; rfl) rfl
  · change execSlowLoopTick s = _
    exact next_when_of (by rw [halive, hfuses]; rfl) rfl
  · change execThermalSensorRead k t s = _
    exact withUnit_when_of hk halive rfl
  · change execThermalLimitTick s = _
    exact next_when_of halive rfl
  · change execThermThrottleAssert s = _
    exact next_when_of halive rfl
  · rfl
  · change execWakePinEvent n high s = _
    refine withUnit_when_of (decide_eq_true hn) halive ?_
    simp [hwas, hpol, hen]
  · change execClusterGate g s = _
    refine unitStep_eq (decide_eq_true hg) hdie ?_
    simp only [hen, hquiet, hst]
    rfl
  · subst hlo hkeep
    change execWayGate k w s = _
    refine unitStep_eq (by simp [hk, hw]) hdie ?_
    simp only [hen, hempty, hst]
    rfl
  · change execDomainWakeDone k s = _
    refine unitStep_eq (by simpa using hk) hdie ?_
    exact if_pos hst

/-- Settles O24: each row on the ring that the function's page names, or the queue it is for. -/
theorem ringStepsRun : Obligations.RingStepsRun := by
  unfold Obligations.RingStepsRun
  intro s fn n q hup hq
  refine ⟨fun v w hw hfetch hfit => ?_, fun v w hw hen hfit => ?_, fun v w hw => ⟨fun hoff hbit hcause => ?_, fun hon hbit => ?_⟩,
    fun plen hq' hmay hold hslot hplen havail hslots => ?_,
    fun c rest hq' hdie hold hdone => ⟨fun lead epoch hlead => ?_, fun hlead hfull hen hok => ?_⟩,
    fun p hq' hp hseat hdie hfull hwaits hlevel hused hpurge horig => ?_⟩
  · subst hw
    change execSqTail fn n v s = _
    refine next_when_of hup ?_
    simp only [touchReg_ringOf, hq, hfetch, if_neg (Nat.not_lt.2 hfit)]
    rfl
  · subst hw
    change execCqHead fn n v s = _
    refine next_when_of hup ?_
    simp only [touchReg_ringOf, hq, hen, if_neg (Nat.not_lt.2 hfit)]
    rfl
  · rw [exec_ringEnable hup hq hbit, ringCtlWrite_enable (s := touchReg s fn (ringCtlReg fn n)) hoff hbit hw hcause]
    rfl
  · subst hw
    change execRingDisable fn n v s = _
    refine next_when_of (by simp [hup, hbit]) ?_
    simp only [touchReg_ringOf, hq, ringCtlWrite, touchReg_ring, hon, hbit]
    rfl
  · subst hplen
    change execPacketFetch q s = _
    refine withUnit_when_of (decide_eq_true hq') (by rw [hmay, hold]; rfl) ?_
    simp only [hslot, hslots, if_neg (Nat.not_lt.2 havail)]
    rfl
  · change execCompletionWrite q s = _
    refine withUnit_when_of (decide_eq_true hq') (by rw [(Bool.and_eq_true_iff.1 hup).1, hdie, hold]; rfl) ?_
    simp only [hdone, hlead]
  · change execCompletionWrite q s = _
    refine withUnit_when_of (decide_eq_true hq') (by rw [(Bool.and_eq_true_iff.1 hup).1, hdie, hold]; rfl) ?_
    simp only [hdone, hlead, hfull, hup, hen, hok]
    rfl
  · have hused' : ¬8 ≤ relayUsed s (p.hdr 4 2) q := by omega
    change execRelaySend q s = _
    simp only [execRelaySend, hq', hp, hseat, hdie, hfull, hwaits, hlevel, hused', hpurge, horig]
    rfl

/-- Settles O25: each row by the function, window, translation or segment that it names. -/
theorem hostAccessesRun : Obligations.HostAccessesRun := by
  unfold Obligations.HostAccessesRun
  intro s fn f hup
  have halive : alive s = true := (Bool.and_eq_true_iff.1 hup).1
  refine ⟨fun v hvf hfn => ?_, fun i hi hreqs => ?_, fun n v hf hn => ?_, fun l hl hreqs => ?_, fun page pages hvf hfn => ?_,
    fun idx => ?_, fun off len a hfit ha r hr => ⟨fun hgood => ?_, fun hbad => ?_⟩, fun off d hfit hen hrein => ?_, fun on hlo hhi => ?_⟩
  · change execTlbInvalidate fn v s = _
    exact next_when_of (by rw [hup, hvf, decide_eq_true hfn]; rfl) rfl
  · change execTlbInvDone fn s = _
    refine next_when_of halive ?_
    simp only [hi, hreqs]
    rfl
  · change execWindowWrite 0 f n v s = _
    exact next_when_of (by simp [hup, hf, hn]) rfl
  · change execWinBusyClear f s = _
    refine next_when_of halive ?_
    simp only [hl, hreqs]
    rfl
  · change execAtsInvalidation fn page pages s = _
    exact next_when_of (by rw [hup, hvf, decide_eq_true hfn]; rfl) rfl
  · change execDoeDiscovery idx s = _
    exact next_when_of hup rfl
  · subst hr ha
    change execBar4Read off len s = _
    refine next_when_of (by rw [hup, decide_eq_true hfit]; rfl) ?_
    simp only [hgood]
    rfl
  · subst hr ha
    change execBar4Read off len s = _
    refine next_when_of (by rw [hup, decide_eq_true hfit]; rfl) ?_
    simp only [hbad]
    rfl
  · change execBar4Write off d s = _
    exact next_when_of (by rw [hup, decide_eq_true hfit, hen, hrein]; rfl) rfl
  · change execVfEnable f on s = _
    exact withUnit_when_of (by simp [hlo, hhi]) hup rfl

/-- Settles O26: each row is a conditional write of the registers it names, and its condition holds. -/
theorem registerAccessesRun : Obligations.RegisterAccessesRun := by
  unfold Obligations.RegisterAccessesRun
  intro s fn addr n v
  refine ⟨fun hok => ⟨?_, ?_, ?_⟩, fun hok hlatch => ?_, fun hok haddr => ?_, fun c hc hok harm => ?_, fun hn hok hlo hbits hmod => ?_,
    fun hok => ⟨fun hb => ?_, fun hb => ?_⟩, fun k halive hk => ?_, fun u hu hrein => ⟨fun hb => ?_, ?_⟩,
    fun hrein hlink => ⟨fun hb => ?_, ?_, ?_⟩, fun p hp hrein hlink => ⟨fun hb => ?_, ?_⟩⟩
  · exact next_when_of hok rfl
  · exact next_when_of hok rfl
  · exact next_when_of hok rfl
  · change execErrLatchWrite 0 addr v s = _
    refine next_when_of ?_ rfl
    rw [hok, ← Option.not_isNone, hlatch]
    rfl
  · have hmover : (addr == dmaUdBlk || (List.range 4).any fun k => addr == dmaBlk k) = true := by
      obtain rfl | rfl | rfl | rfl | rfl := haddr <;> decide
    change execCapWrite fn addr v s = _
    exact next_when_of (by rw [hok, hmover]; rfl) rfl
  · change execInjArm fn c v s = _
    exact withUnit_when_of (decide_eq_true hc) (by rw [hok, harm]; rfl) rfl
  · subst hn
    change execFenceBitWrite fn addr v s = _
    exact next_when_of (by rw [hok, decide_eq_true hlo, decide_eq_true hbits, hmod]; rfl) rfl
  · change execRecoveryChunkWrite fn v s = _
    exact next_when_of (by rw [hok, hb]; rfl) rfl
  · change execRecoveryFinish fn v s = _
    exact next_when_of (by rw [hok, hb]; rfl) rfl
  · change execRecoveryChunkDone s = _
    refine next_when_of halive ?_
    simp only [hk]
  · change execRedInjArm fn u v s = _
    exact withUnit_when_of (decide_eq_true hu) (by rw [hrein, hb]; rfl) rfl
  · change execInjHold fn u v s = _
    exact withUnit_when_of (decide_eq_true hu) hrein rfl
  · change execCheck fn v s = _
    exact next_when_of (by rw [hrein, hlink, hb]; rfl) rfl
  · change execTrcCommitStride fn v s = _
    exact next_when_of (by rw [hrein, hlink]; rfl) rfl
  · change execRelayReset fn v s = _
    exact next_when_of (by rw [hrein, hlink]; rfl) rfl
  · change execRetrain fn p v s = _
    exact withUnit_when_of (decide_eq_true hp) (by rw [hlink, hrein, hb]; rfl) rfl
  · change execLinkEnable fn p v s = _
    exact withUnit_when_of (decide_eq_true hp) (by rw [hlink, hrein]; rfl) rfl

end Sys2Proof.Machine
end

section
/-! PROOFS. The trace fabric: its ports, its packets and its timers. -/
namespace Sys2Proof.Machine

open Sys2Proof

theorem exec_flitReceive {s : State} {p fec : Nat} {f : List Byte} (hp : p < 24) (hlink : linkRuns s p = true)
    (hup : linkUpish (portOf s p) = true) (hlen : f.length = 256) {t : State}
    (hf : (if 65536 ≤ fec then nakFlit p ((s.count64 (linkBlk p + 0x28) 1).latch (linkBlk p + 0x18) 0)
      else if !flitCrcOk f then
        nakFlit p (((s.count64 (linkBlk p + 0x20) fec).count64 (linkBlk p + 0x30) 1).latch (linkBlk p + 0x18) 1)
      else if flitType f = 0 then pump (takeAck (s.count64 (linkBlk p + 0x20) fec) p f) p
      else if (flitType f = 1 || flitType f = 2) && flitSeq f == (portOf (s.count64 (linkBlk p + 0x20) fec) p).rxSeq then
        takeFlit p f (s.count64 (linkBlk p + 0x20) fec)
      else nakFlit p (s.count64 (linkBlk p + 0x20) fec)) = t) :
    exec (.flitReceive p f fec) s = .next t := by
  change execFlitReceive p f fec s = _
  exact withUnit_when_of (decide_eq_true hp) (by rw [hlink, hup, hlen]; rfl) hf

theorem exec_packetEgress {s t : State} {p : Nat} (hp : p < 24) (hlink : linkRuns s p = true) (hst : (portOf s p).st ≠ 1)
    (hrec : inRecovery s 4 p = false) (ht : t = fillTokens (dropUncarried s p) p) (hup : linkUpish (portOf t p) = true) :
    exec (.packetEgress p) s = .next (if 242 ≤ (portOf t p).txStream.length then pump t p
      else match pickEgress t p with
        | some i => pump (startPkt t p i) p
        | none =>
          if (portOf t p).txStream.isEmpty || 512 ≤ (portOf t p).replay.length then
            t.when (owedVc (portOf t p)).isSome fun s => sendFlit s p ftIdle [] 255
          else cutFlit t p) := by
  subst ht
  change execPacketEgress p s = _
  refine withUnit_when_of (decide_eq_true hp) (by rw [hlink, hrec, bne_iff_ne.2 hst]; rfl) ?_
  simp only [hup]
  rfl

/-- Settles O27: each row at a port whose link die runs, in the state of the link it asks for. -/
theorem linkStepsRun : Obligations.LinkStepsRun := by
  unfold Obligations.LinkStepsRun
  intro s p hp hlink
  have hunit : decide (p < 24) = true := decide_eq_true hp
  refine ⟨fun f fec hup hlen => ⟨fun hue => ?_, fun t hfec ht => ⟨fun hcrc => ?_, fun hcrc htype => ?_, fun hcrc htype hseq => ?_,
    fun hcrc htype hseq => ?_⟩⟩, fun hup => ⟨?_, ?_⟩, fun on => ?_, fun h hst hsig hen => ?_,
    fun n hst hsig hn => ⟨fun hlt => ?_, fun t hge ht => ?_⟩,
    fun t hst hrec ht hup => ⟨fun hfull => ?_, fun hpart => ⟨fun i hi => ?_, fun hnone hsome hroom => ?_⟩⟩⟩
  · exact exec_flitReceive hp hlink hup hlen (if_pos hue)
  · subst ht
    exact exec_flitReceive hp hlink hup hlen ((if_neg (by omega)).trans (by simp [hcrc]))
  · subst ht
    exact exec_flitReceive hp hlink hup hlen ((if_neg (by omega)).trans (by simp [hcrc, htype]))
  · subst ht
    refine exec_flitReceive hp hlink hup hlen ((if_neg (by omega)).trans ?_)
    obtain htype | htype := htype <;> simp [hcrc, htype, hseq]
  · subst ht
    refine exec_flitReceive hp hlink hup hlen ((if_neg (by omega)).trans ?_)
    obtain htype | htype := htype <;> simp [hcrc, htype, hseq]
  · change execReplayTimeout p s = _
    exact withUnit_when_of hunit (by rw [hlink, hup]; rfl) rfl
  · change execFecAlignLoss p s = _
    exact withUnit_when_of hunit (by rw [hlink, hup]; rfl) rfl
  · change execSignalDetect p on s = _
    exact withUnit_when_of hunit hlink rfl
  · change execTrainingComplete p h s = _
    exact withUnit_when_of hunit (by rw [hlink, hst, hsig, hen]; rfl) rfl
  · subst hn
    change execTrainingTimeout p s = _
    exact withUnit_when_of hunit (by rw [hlink, hst, hsig]; rfl) (if_pos hlt)
  · subst hn ht
    change execTrainingTimeout p s = _
    exact withUnit_when_of hunit (by rw [hlink, hst, hsig]; rfl) (if_neg (by omega))
  · rw [exec_packetEgress hp hlink hst hrec ht hup, if_pos hfull]
  · rw [exec_packetEgress hp hlink hst hrec ht hup, if_neg (by omega), hi]
  · have hwhole : ((portOf t p).txStream.isEmpty || decide (512 ≤ (portOf t p).replay.length)) = false := by
      simp [hsome, hroom]
    rw [exec_packetEgress hp hlink hst hrec ht hup, if_neg (by omega), hnone]
    simp only [hwhole]
    rfl

/-- A packet of a type that comes on three channels is taken from the first of them that has one. -/
theorem onRx3_eq {type v p : Nat} {k : FPkt} {s t : State} {f : FPkt → State → State} (hv : v < 3) (h : RxReady type v p k s)
    (hfirst : ∀ u, u < v → (rxOf s p u).head?.any (·.type == type) = false) (hf : f k (takenRx v p k s) = t) :
    onRx3 type p s f = .next t := by
  have hthis : (rxOf s p v).head?.any (·.type == type) = true := by
    obtain ⟨-, hk, htype, -⟩ := h
    simp [hk, htype]
  have hfind : (List.range 3).find? (fun v => (rxOf s p v).head?.any (·.type == type)) = some v := by
    rw [List.find?_range_eq_some]
    refine ⟨hthis, List.mem_range.2 hv, fun u hu => ?_⟩
    rw [hfirst u hu]
    rfl
  rw [onRx3, hfind]
  exact onRx_eq h rfl hf

/-- Settles O28: each row takes the first packet received and acts on it in the state that is left. -/
theorem fabricRequestsTaken : Obligations.FabricRequestsTaken := by
  unfold Obligations.FabricRequestsTaken
  intro s port k
  refine ⟨fun hawake => ⟨fun h t x pa hplace => ?_, fun h t x pa hplace => ?_, fun h t p ht hp hok => ?_, fun h hlink => ?_,
    fun h => ?_⟩, fun v t hv h ht hfirst => ?_, fun v t hv h ht hfirst => ?_⟩
  · change execRemoteWrite port s = _
    refine onRx_eq h hawake ?_
    simp only [hplace]
  · change execRemoteRead port s = _
    refine onRx_eq h hawake ?_
    simp only [hplace]
  · subst ht hp
    change execRelayCmd port s = _
    exact onRx_eq h hawake (if_neg (not_not.2 hok))
  · change execHostReq port s = _
    exact onRx_eq h (by rw [hawake, hlink]; rfl) rfl
  · change execRelayPurge port s = _
    exact onRx_eq h hawake rfl
  · subst ht
    change execOrderMark port s = _
    exact onRx3_eq hv h hfirst rfl
  · subst ht
    change execDrain port s = _
    exact onRx3_eq hv h hfirst rfl

/-- An answer ends the request that its tag names. -/
theorem takeAnswer_found {s : State} {k : FPkt} {r : Remote} {f : Remote → State → State}
    (hr : s.mov.remote.find? (·.tag == k.tag) = some r) : takeAnswer s k f = kickEngines (f r (dropRemote s k.tag)) := by
  simp only [takeAnswer, hr]

/-- Settles O29: the answers of the current generation end the request of their tag; the others name their own. -/
theorem fabricAnswersTaken : Obligations.FabricAnswersTaken := by
  unfold Obligations.FabricAnswersTaken
  intro s port k t ht
  subst ht
  have hport (type hz : Nat) (h : RxReady type 1 port k s) : (port + 32 * hz) % 32 = port ∧ (port + 32 * hz) / 32 = hz := by
    have := h.1
    omega
  refine ⟨fun r u hgen hr hu => ⟨fun h => ?_, fun h hz => ?_, fun h => ?_, fun h hz => ?_⟩, fun h hepoch r hr => ?_, fun h => ?_,
    fun h hgen d w u hdown hphase hwait hw hu => ?_⟩
  · subst hu
    change execWriteAck port s = _
    exact onAnswer_eq h hgen (takeAnswer_found hr)
  · subst hu
    obtain ⟨hmod, hdiv⟩ := hport _ hz h
    change execReadData (port + 32 * hz) s = _
    rw [execReadData, hmod, hdiv]
    exact onAnswer_eq h hgen (takeAnswer_found hr)
  · subst hu
    change execNack port s = _
    exact onAnswer_eq h hgen (takeAnswer_found hr)
  · subst hu
    obtain ⟨hmod, hdiv⟩ := hport _ hz h
    have hresp : exec (.hostResp (port + 32 * hz)) s
        = .next (kickEngines (hostAnswered r k hz (dropRemote (takenRx 1 port k s) k.tag))) := by
      change execHostResp (port + 32 * hz) s = _
      rw [execHostResp, hmod, hdiv]
      exact onAnswer_eq h hgen (takeAnswer_found hr)
    refine ⟨fun hst => ?_, fun hst hkind => ?_, fun hst hkind c hc hended => ?_, fun hst hkind hkind' => ?_⟩ <;>
      rw [hresp, hostAnswered]
    · rw [if_pos hst]
    · rw [if_neg (not_not.2 hst), if_pos hkind]
    · simp [hst, hkind, hc, hended]
    · rw [if_neg (not_not.2 hst), if_neg hkind, if_neg hkind']
  · change execRelayCpl port s = _
    refine onRx_eq h rfl ((if_neg (not_not.2 hepoch)).trans ?_)
    simp only [hr]
  · change execPurgeAck port s = _
    exact onRx_eq h rfl rfl
  · subst hw hu
    have hopen : (d.phase != 1 || !d.waitFor.contains (4 * k.src + k.tag)) = false := by rw [hphase, hwait]; rfl
    change execDrainReturn port s = _
    refine onAnswer_eq h hgen ?_
    simp only [hdown, hopen, List.isEmpty_iff]
    rfl

/-- Settles O30: each row by what its packet says: reply or command, its place in the list, its job, generation or table. -/
theorem fabricManagementTaken : Obligations.FabricManagementTaken := by
  unfold Obligations.FabricManagementTaken
  intro s port k t ht
  subst ht
  refine ⟨fun h => ⟨fun hreply => ?_, fun hreply => ?_⟩, fun h i c m hi hc hlen hle hm => ?_,
    fun h hport ps => ⟨fun hasks => ?_, fun t1 hanswers ht1 hparent hstate => ?_⟩, fun h hport hother => ?_,
    fun h => ⟨fun hctx => ?_, fun x hctx => ?_⟩, fun h hport => ?_, fun h => ?_, fun h u hu => ?_, fun h m hm => ?_⟩
  · change execMgmt port s = _
    exact onRx_eq h rfl (if_pos hreply)
  · change execMgmt port s = _
    exact onRx_eq h rfl (if_neg (Bool.eq_false_iff.1 hreply))
  · subst hi hc hm
    have hform : ¬(16 < fieldLE k.pay 17 1 || fieldLE k.pay 17 1 < fieldLE k.pay 16 1) = true := by simp; omega
    refine ⟨fun hreply h0 => ?_, fun hreply h0 => ?_, fun hreply hlast => ?_, fun hreply hlast => ?_⟩ <;>
      change execDirected port s = _ <;> refine onRx_eq h rfl ((if_neg hform).trans ?_)
    · rw [if_pos hreply, if_pos h0]
    · rw [if_pos hreply, if_neg h0]
    · rw [if_neg (Bool.eq_false_iff.1 hreply), if_pos hlast]
    · rw [if_neg (Bool.eq_false_iff.1 hreply), if_neg hlast]
  · change execSync port ps s = _
    exact onRx_eq h (decide_eq_true hport) (if_pos hasks)
  · have hmine : (decide (port = (takenRx 3 port k s).fab.parentPort) && (takenRx 3 port k s).fab.tState != 0) = true := by
      rw [decide_eq_true hparent, bne_iff_ne.2 hstate]; rfl
    change execSync port ps s = _
    refine onRx_eq h (decide_eq_true hport) ((if_neg (by omega)).trans ?_)
    simp only [ht1, hmine]
    rfl
  · have hforeign : ((takenRx 3 port k s).boot.devIdValid && k.addr % 4096 == (takenRx 3 port k s).devId) = false := by
      obtain hno | hno := hother <;> simp [hno]
    change execAnnounce port s = _
    exact onRx_eq h (decide_eq_true hport) (if_neg (Bool.eq_false_iff.1 hforeign))
  · change execAbort port s = _
    refine onRx_eq h rfl ?_
    simp only [hctx]
  · change execAbort port s = _
    refine onRx_eq h rfl ?_
    simp only [hctx]
  · change execTableXchg port s = _
    exact onRx_eq h (decide_eq_true hport) rfl
  · change execGenNotice port s = _
    exact onRx_eq h rfl rfl
  · subst hu
    change execRestart port s = _
    exact onRx_eq h rfl rfl
  · change execOrderAck port s = _
    refine onRx_eq h rfl ?_
    simp only [hm]

/-- Settles O31: each timer where what it waits for has not arrived. -/
theorem fabricTimersRun : Obligations.FabricTimersRun := by
  unfold Obligations.FabricTimersRun
  intro s
  refine ⟨fun tag r halive hr hnot => ?_, fun p hp hlink hawaits hnot => ?_, fun hlink => ⟨fun d v m hm hnot => ?_,
    fun ps hstate => ?_, fun c hc => ?_, fun d => ?_, fun hstate => ?_, fun hstate => ?_⟩, fun rest t h ht => ?_⟩
  · change execRespTimeout tag s = _
    refine next_when_of (by rw [halive, hnot]; rfl) ?_
    simp only [hr]
  · have hwaits : (awaits s p || awaits s (32 + p)) = true := by simpa using hawaits
    change execRouteCheckTimeout p s = _
    exact withUnit_when_of (decide_eq_true hp) (by rw [hlink, hwaits, hnot]; rfl) rfl
  · change execOrderAckTimeout d v s = _
    refine next_when_of (by rw [hlink, hnot]; rfl) ?_
    simp only [hm]
  · change execSyncTimer ps s = _
    exact next_when_of (by rw [hlink, bne_iff_ne.2 hstate]; rfl) rfl
  · change execAnnounceTimer s = _
    refine next_when_of hlink ?_
    simp only [hc]
  · change execCandidateTimeout d s = _
    exact next_when_of hlink rfl
  · change execHoldoverTimeout s = _
    exact next_when_of (by simpa [hlink] using hstate) rfl
  · change execSyncLostTimeout s = _
    exact next_when_of (by rw [hlink, hstate]; rfl) rfl
  · subst ht
    change execRouteTableCommit s = _
    exact next_popDue h rfl

end Sys2Proof.Machine
end

section
/-! PROOFS. The health engine and the Groom: their steps and the management commands. -/
namespace Sys2Proof.Machine

open Sys2Proof

/-- Settles O32: the rows of due work where it is the first, the others in the phase of the recovery or dump they name. -/
theorem healthStepsRun : Obligations.HealthStepsRun := by
  unfold Obligations.HealthStepsRun
  intro s rest
  refine ⟨fun h => ?_, fun x h hlate => ?_, fun h t ht => ?_, fun h hcls hexp => ?_,
    fun halive => ⟨fun n r hr => ?_, fun n r hr hmems => ?_, fun n r hr => ?_, fun n r hr hdom => ?_,
      fun d ds t hnone hq ht => ⟨fun hdest => ?_, fun dest base cap hdest => ?_⟩, fun c type hc => ?_, fun d hd => ?_⟩⟩
  · change execHoofbeatCheck s = _
    exact next_popDue h rfl
  · change execOverrunLimit x s = _
    refine next_popDue h ?_
    simp only [List.isEmpty_eq_false_iff.2 hlate]
    rfl
  · subst ht
    change execTelemetrySample s = _
    exact next_popDue h rfl
  · have hover : ((takenDue rest s).grm.holder.cls != 0 && decide ((takenDue rest s).grm.expiry ≤ (takenDue rest s).nowStride)) = true := by
      rw [Bool.and_eq_true, bne_iff_ne, decide_eq_true_eq]
      exact ⟨hcls, hexp⟩
    change execReinLeaseExpiry s = _
    exact next_popDue h (if_pos hover)
  · change execQuiesceEnd n s = _
    refine next_when_of halive ?_
    simp only [hr]
  · change execDomainReset n s = _
    refine next_when_of halive ?_
    simp only [hr, hmems]
    rfl
  · change execDomainReturn n s = _
    refine next_when_of halive ?_
    simp only [hr]
  · change execDomainReturnTimeout n s = _
    refine next_when_of halive ?_
    simp only [hr, if_neg hdom]
  · subst ht
    change execDumpStart s = _
    refine next_when_of (by rw [halive, hnone]; rfl) ?_
    simp only [hq, hdest]
  · subst ht
    change execDumpStart s = _
    refine next_when_of (by rw [halive, hnone]; rfl) ?_
    simp only [hq, hdest]
  · have hmod : (c + 2 ^ 16 * type) % 2 ^ 16 = c := by omega
    have hdiv : (c + 2 ^ 16 * type) / 2 ^ 16 = type := by omega
    change execDumpReadTimeout (c + 2 ^ 16 * type) s = _
    rw [execDumpReadTimeout, hmod, hdiv]
    exact next_when_of halive rfl
  · change execDumpDone s = _
    refine next_when_of halive ?_
    simp only [hd]

/-- Settles O33: each row on the message, claim or image that the Groom holds. -/
theorem groomStepsRun : Obligations.GroomStepsRun := by
  unfold Obligations.GroomStepsRun
  intro s haon
  refine ⟨fun b => ⟨fun hroom => ?_, fun hfull => ?_⟩, fun m l hst hcur => ⟨fun hq => ?_, fun halive hq => ?_⟩,
    fun path q p i halive hpath hp hop hseat hissue hst hcur hzero hmsg hreply hi => ?_,
    fun m hst hcur hlo hhi hok htarget hserved => ?_, fun n c halive hc hverdict => ⟨fun hok => ?_, fun hok t ht => ?_⟩,
    fun m flags img l t u hst hact ht hu => ?_, fun ok hst => ⟨fun hgood => ?_, fun c hc hbad => ?_⟩⟩
  · change execMctpMessage b s = _
    exact next_when_of haon (if_neg (by omega))
  · change execMctpMessage b s = _
    exact next_when_of haon (if_pos hfull)
  · change execMgmtDequeue 1 s = _
    refine next_when_of (by simp [haon]) ?_
    simp [dequeueFrom, hq, hst, hcur]
  · change execMgmtDequeue 2 s = _
    refine next_when_of (by simp [halive]) ?_
    simp [dequeueFrom, hq, hst, hcur]
  · have hserve : dequeuePcie s q = takeMsg i.1
        { master := Master.pf, bytes := p.params.drop 16, cmd := some i.2, replyAddr := p.par 0 8, list := [] } := by
      have hop' : ¬p.op < 0x80 := by omega
      subst hi
      simp only [dequeuePcie, hp, hop', hseat, hissue, hst, hcur, hzero, hmsg, hreply, bne_self_eq_false]
      rfl
    change execMgmtDequeue path s = _
    refine next_when_of (by simp [halive]) ?_
    obtain ⟨rfl, rfl⟩ | ⟨rfl, rfl⟩ := hpath
    · exact hserve
    · exact hserve
  · change execMgmtReadTimeout s = _
    refine next_when_of (by rw [haon, hst]; rfl) ?_
    simp [hcur, hlo, hhi, hok, htarget, hserved]
  · change execClaimVerified n s = _
    refine next_when_of halive ?_
    simp [hc, hverdict, hok]
  · subst ht
    change execClaimVerified n s = _
    refine next_when_of halive ?_
    simp [hc, hverdict, hok]
  · subst hu ht
    change execFwFlashWriteDone s = _
    refine next_when_of (by rw [haon, hst]; rfl) ?_
    simp only [hact]
  · change execGroomRestartDone ok s = _
    exact next_when_of (by rw [haon, hst]; rfl) (if_pos hgood)
  · subst hc
    change execGroomRestartDone ok s = _
    exact next_when_of (by rw [haon, hst]; rfl) (if_neg hbad)

/-- A management command that is served answers what its meaning gives. -/
theorem onMsg_eq {op : Nat} {m : Msg} {s t : State} {f : Msg → State → State} (h : Serving op m s) (hf : f m s = t) :
    onMsg op s f = .next t :=
  (onMsg_serving f h).trans (congrArg _ hf)

/-- Settles O34: each row passes the checks of its arguments. -/
theorem managementReadsServed : Obligations.ManagementReadsServed := by
  unfold Obligations.ManagementReadsServed
  intro s m
  refine ⟨fun h => ?_, fun h c blk o n hargs hoff => ?_, fun h c blk o n d hargs hoff hd hlen hrein t ht => ?_,
    fun h hdazal c t b htarget hoff hdiag => ?_, fun h hargs hrec => ?_, fun h hargs => ⟨fun hctx => ?_, fun hlo hhi => ?_⟩,
    fun h => ?_, fun h n hn hlen h0 hmost hlog => ?_, fun h => ?_, fun h => ?_, fun h => ?_⟩
  · change execIdentify s = _
    exact onMsg_eq h rfl
  · change execRead s = _
    refine onMsg_eq h ?_
    simp only [hargs, hoff]
    rfl
  · subst ht hd
    have hallowed : (!holdsRein s s.grm.tag && (coveredRegs blk o n).any fun r => ownedReg r.1) = false := by
      obtain hr | hr := hrein <;> simp [hr]
    change execWrite s = _
    refine onMsg_eq h ?_
    simp only [hargs, if_neg (Nat.not_lt.2 hlen), hallowed, hoff]
    rfl
  · change execReadDiag s = _
    refine onMsg_eq h ?_
    simp only [hdazal, if_true, htarget, hdiag, hoff]
    rfl
  · have hrec' : ¬63 < m.arg 0 1 := by omega
    change execTelemetryRead s = _
    refine onMsg_eq h ?_
    simp [hargs, hrec']
  · have h6 : bit (m.arg 0 1) 6 = false := by simp [bit]; omega
    have h7 : bit (m.arg 0 1) 7 = false := by simp [bit]; omega
    change execAccountRead s = _
    refine onMsg_eq h ?_
    simp [hargs, h6, h7, Nat.mod_eq_of_lt hctx]
  · have h6 : bit (m.arg 0 1) 6 = true := by simp [bit]; omega
    have h7 : bit (m.arg 0 1) 7 = false := by simp [bit]; omega
    have hmod : m.arg 0 1 % 64 = m.arg 0 1 - 64 := by omega
    have hpdk : ¬16 ≤ m.arg 0 1 - 64 := by omega
    change execAccountRead s = _
    refine onMsg_eq h ?_
    simp only [List.isEmpty_eq_false_iff.2 hargs, h6, h7, hmod, hpdk]
    rfl
  · change execReinStatus s = _
    exact onMsg_eq h rfl
  · subst hn
    have hform : ¬(m.args.length < 7 || m.arg 4 2 = 0 || m.limit / 32 < m.arg 4 2 || 1 < m.arg 6 1) = true := by
      simp only [Bool.or_eq_true, decide_eq_true_eq]
      omega
    change execHealthLogRead s = _
    exact onMsg_eq h (if_neg hform)
  · change execHealthStatus s = _
    exact onMsg_eq h rfl
  · change execPowerStatus s = _
    exact onMsg_eq h rfl
  · change execRailRead s = _
    exact onMsg_eq h rfl

/-- Settles O35: each row passes the checks of its arguments, PASS_REIN and SET_ID by their own rules. -/
theorem ownershipCommandsServed : Obligations.OwnershipCommandsServed := by
  unfold Obligations.OwnershipCommandsServed
  intro s m
  refine ⟨fun h nonce n hn => ?_, fun h cycle ok hok => ?_, fun h => ?_, fun h t hlen ht hne => ?_,
    fun h v hv hlen hlt hfresh hseat => ?_, fun h e he hlen hidx hmask hmask' hvalid hzero => ?_, fun h d hd hlen hfit => ?_,
    fun h img himg hlen hflags hgood => ?_, fun h => ?_, fun h dest cnt b t hdest hcnt hb ht hcls hlen hrange hlist hreply => ?_⟩
  · subst hn
    change execReinNonce nonce s = _
    exact onMsg_eq h rfl
  · subst hok
    change execReinClaim cycle s = _
    exact onMsg_eq h rfl
  · change execReinRenew s = _
    exact onMsg_eq h rfl
  · rw [exec_passRein_serving h hlen ht, if_neg hne]
  · subst hv
    have hok : ¬(m.args.length < 4 ∨ 4096 ≤ m.arg 0 4 ∨ s.boot.devIdValid = true ∨ ¬(m.arg 0 4 % 64 = 0 ↔ s.host.linkUp = true)) := by
      rw [Bool.eq_iff_iff, beq_iff_eq] at hseat
      simp only [hfresh, hseat, Bool.false_eq_true, not_true_eq_false, or_false]
      omega
    rw [exec_setId_serving h, if_neg hok]
  · subst he
    have hform : ¬(m.args.length < 132 || 8 ≤ m.arg 0 4 || fieldLE (slice m.args 4 128) 96 1 % 2 != 0
        || 16 ≤ fieldLE (slice m.args 4 128) 96 1 || 2 ≤ fieldLE (slice m.args 4 128) 97 1
        || !allZero (slice (slice m.args 4 128) 98 30)) = true := by
      simp only [Bool.or_eq_true, decide_eq_true_eq, bne_iff_ne, hzero, Bool.not_true, Bool.false_eq_true, or_false]
      omega
    change execOwnerKeysSet s = _
    exact onMsg_eq h (if_neg hform)
  · subst hd
    have hform : ¬(m.args.length < 4 || 12582912 < m.arg 0 4 + (m.args.drop 4).length) = true := by
      simp only [Bool.or_eq_true, decide_eq_true_eq]
      omega
    change execFwStage s = _
    exact onMsg_eq h (if_neg hform)
  · subst himg
    have hform : ¬(m.args.length < 4 || 4 ≤ m.arg 0 4
        || imageCheck (s.grm.staging.filter (·.1 < flashConfig)) s.grm.vendorHash s.grm.svnFloor true ≠ 0) = true := by
      simp only [Bool.or_eq_true, decide_eq_true_eq, hgood]
      omega
    change execFwActivate s = _
    exact onMsg_eq h (if_neg hform)
  · change execGroomRestart s = _
    exact onMsg_eq h rfl
  · subst hdest hcnt hb ht
    have hform : ¬(m.master.cls != 1 || m.args.length < 3 + m.arg 2 1 + 16 || 4096 ≤ m.arg 0 2 || 16 < m.arg 2 1
        || isReply (m.args.drop (3 + m.arg 2 1))) = true := by
      simp only [Bool.or_eq_true, decide_eq_true_eq, bne_iff_ne, hreply, Bool.false_eq_true, or_false]
      omega
    refine ⟨fun h0 => ?_, fun h0 hself => ?_, fun h0 hself horig => ?_⟩ <;> change execFmForward s = _ <;>
      refine onMsg_eq h ((if_neg hform).trans ?_)
    · rw [if_pos h0]
    · rw [if_neg (not_not.2 h0), if_pos hself]
    · rw [if_neg (not_not.2 h0), if_neg hself, ← Prod.mk.eta (p := originate _ _), horig]

/-- Settles O36: each row passes the checks of its arguments, RESET_DOMAIN with and without a recovery to join. -/
theorem healthCommandsServed : Obligations.HealthCommandsServed := by
  unfold Obligations.HealthCommandsServed
  intro s m
  refine ⟨fun dom c hdom => ⟨fun h => ?_, fun h hnone => ?_, fun h r hr => ?_⟩, fun h u hlen hu => ?_, fun h hlen => ?_,
    fun h => ?_, fun h t hlen hzero hgait hhalt hquiet ht => ?_⟩
  · change execDumpNow s = _
    refine onMsg_eq h ?_
    simp only [hdom]
  · change execResetDomain s = _
    refine onMsg_eq h ?_
    simp only [hdom, hnone]
  · change execResetDomain s = _
    refine onMsg_eq h ?_
    simp only [hdom, hr]
  · change execFenceSet s = _
    refine onMsg_eq h ?_
    simp only [if_neg (Nat.not_lt.2 hlen), hu]
  · change execJobAbort s = _
    exact onMsg_eq h (if_neg (Nat.not_lt.2 hlen))
  · change execLogClear s = _
    exact onMsg_eq h rfl
  · subst ht
    have hlive : (m.arg 0 1 == 4 && s.sch.ctxs.any (·.2.live)) = false := by
      by_cases h4 : m.arg 0 1 = 4
      · simp only [hhalt h4, Bool.and_false]
      · simp [h4]
    have hform : ¬(m.args.length < 16 || !allZero (slice m.args 1 7) || 4 < m.arg 0 1
        || (m.arg 0 1 == 4 && s.sch.ctxs.any (·.2.live)) || haltChanging s) = true := by
      rw [hlive, hzero, hquiet]
      simp only [Bool.or_eq_true, decide_eq_true_eq]
      simp
      omega
    change execGaitSet s = _
    exact onMsg_eq h (if_neg hform)

end Sys2Proof.Machine
end

section
/-! PROOFS. Attestation and platform management answers, start-up and boundary scan. -/
namespace Sys2Proof.Machine
open Sys2Proof

/-- An SPDM request in its turn and well formed is answered as its row says, by what the row gives. -/
theorem onSpdm_eq {code need len path : Nat} {req : List Byte} {s t : State} {x : Spdm} {f : Spdm → State → State}
    (haon : aon s = true) (hpath : path % 2 = 1 ∨ hostUp s = true) (hst : s.grm.st = 1) (hx : x = spdmOf s path)
    (hlen : len ≤ req.length) (hcode : fieldLE req 1 1 = code) (hturn : need ≤ x.st) (hf : f x s = t) :
    onSpdm code need len path req s f = .next t := by
  subst hx
  exact (onSpdm_ready f haon hpath hst hlen hcode hturn).trans (congrArg _ hf)

/-- A PLDM request of the right type and length is answered as its row says, by what the row gives. -/
theorem onPldm_eq {type cmd len : Nat} {req : List Byte} {s t : State} {f : List Byte → State → State}
    (haon : aon s = true) (hst : s.grm.st = 1) (hlen : 3 + len ≤ req.length) (htype : fieldLE req 1 1 % 64 = type)
    (hcmd : fieldLE req 2 1 = cmd) (hf : f (req.drop 3) s = t) :
    onPldm type cmd len req s f = .next t :=
  (onPldm_ready f haon hst hlen htype hcmd).trans (congrArg _ hf)

/-- Settles O37: each row answers where its turn and its own checks allow. -/
theorem attestationAnswers : Obligations.AttestationAnswers := by
  unfold Obligations.AttestationAnswers
  intro s path req x haon hpath hst hx
  refine ⟨fun hlen hcode => ?_, fun hlen hcode hturn f hf => ?_, fun hlen hcode hturn => ?_, fun hlen hcode hturn => ?_,
    fun hlen hcode hturn hslot o d ho hin hd => ?_, fun hlen hcode hturn hslot f b hf hb => ?_,
    fun hlen hcode hturn hidx sign is f r b hsign hsigned his hr hf hb => ?_⟩
  · change execGetVersion path req s = _
    exact onSpdm_eq haon hpath hst hx hlen hcode (Nat.zero_le _) rfl
  · change execGetCapabilities path req s = _
    subst hf
    exact onSpdm_eq haon hpath hst hx hlen hcode hturn rfl
  · change execNegotiateAlgorithms path req s = _
    exact onSpdm_eq haon hpath hst hx hlen hcode hturn rfl
  · change execGetDigests path req s = _
    exact onSpdm_eq haon hpath hst hx hlen hcode hturn rfl
  · change execGetCertificate path req s = _
    subst ho hd
    have hform : ¬(fieldLE req 2 1 % 16 != 0 || (slotChain s).length < fieldLE req 4 2) = true := by
      simp only [hslot, bne_self_eq_false, Bool.false_or, decide_eq_true_eq]; omega
    exact onSpdm_eq haon hpath hst hx hlen hcode hturn (if_neg hform)
  · change execChallenge path req s = _
    subst hf hb
    have hform : ¬(fieldLE req 2 1 != 0) = true := by simp [hslot]
    exact onSpdm_eq haon hpath hst hx hlen hcode hturn (if_neg hform)
  · change execGetMeasurements path req s = _
    subst hsign his hr hf hb
    have hnotAll : fieldLE req 3 1 ≠ 255 := by omega
    have hform : ¬(5 < fieldLE req 3 1 && fieldLE req 3 1 != 255 || (bit (fieldLE req 2 1) 0 && req.length < 37)
        || (bit (fieldLE req 2 1) 0 && fieldLE req 36 1 % 16 != 0)) = true := by
      simp only [Bool.or_eq_true, Bool.and_eq_true, decide_eq_true_eq, bne_iff_ne]
      rintro ((⟨hbig, -⟩ | ⟨-, hshort⟩) | ⟨hs, hslot⟩)
      · omega
      · omega
      · exact hslot (hsigned hs)
    refine onSpdm_eq haon hpath hst hx (by omega) hcode hturn ((if_neg hform).trans ?_)
    simp only [if_neg hnotAll]

/-- Settles O38: each row answers what it is asked; the image that passes its check is stored. -/
theorem pldmAnswers : Obligations.PldmAnswers := by
  unfold Obligations.PldmAnswers
  intro s path req haon hst
  refine ⟨fun htype => ⟨fun hcmd hlen => ?_, fun hcmd hlen f hf ht => ?_, fun hcmd hlen => ?_, fun hcmd hlen ht => ?_⟩,
    fun htype => ⟨fun hcmd hlen => ?_, fun hcmd hlen n f hn hf => ?_, fun hcmd hlen o n hfield => ?_, fun hcmd hlen hi => ?_⟩,
    fun htype hlen => ⟨fun hcmd hrein => ?_, fun hcmd hdone => ?_⟩, fun image img hopen himg hcheck => ?_⟩
  · change execGetTid path req s = _
    exact onPldm_eq haon hst hlen htype hcmd rfl
  · change execGetPldmVersion path req s = _
    subst hf
    exact onPldm_eq haon hst hlen htype hcmd (if_pos (by simpa [or_assoc] using ht))
  · change execGetPldmTypes path req s = _
    exact onPldm_eq haon hst hlen htype hcmd rfl
  · change execGetPldmCommands path req s = _
    exact onPldm_eq haon hst hlen htype hcmd (if_pos (by simpa [or_assoc] using ht))
  · change execGetPdrRepositoryInfo path req s = _
    exact onPldm_eq haon hst hlen htype hcmd rfl
  · change execGetPdr path req s = _
    subst hf hn
    exact onPldm_eq haon hst hlen htype hcmd rfl
  · change execGetSensorReading path req s = _
    refine onPldm_eq haon hst hlen htype hcmd ?_
    simp only [hfield]; rfl
  · change execGetSensorThresholds path req s = _
    have hsome : ¬(sensorField (fieldLE (req.drop 3) 0 2)).isNone = true := by
      unfold sensorField; grind
    exact onPldm_eq haon hst hlen htype hcmd (if_neg hsome)
  · change execRequestUpdate path req s = _
    exact onPldm_eq haon hst hlen htype hcmd (if_neg (by simp [hrein]))
  · change execActivateFirmware path req s = _
    refine onPldm_eq haon hst hlen htype hcmd ((if_neg (by simp [hdone])).trans (if_neg ?_))
    change ¬s.grm.st = 3
    omega
  · change execType5FlowImage image s = _
    subst himg
    exact next_when_of (by rw [haon, hopen, hst]; rfl) (if_pos hcheck)

/-- Settles O39: each row acts under its condition, and the two ends of each outcome are its branches. -/
theorem startupStepsRun : Obligations.StartupStepsRun := by
  unfold Obligations.StartupStepsRun
  intro s
  refine ⟨fun straps => ⟨fun hoff => ?_, fun hperst => ?_⟩, rfl, rfl, fun halive =>
    ⟨fun gen6 hfuses hhost => ?_, fun hfuses himage hgroom mv => ?_, fun hfuses hrail himage hgroom readOk c hc =>
      ⟨fun hok => ?_, fun hbad => ?_⟩, fun himage hgroom => ?_, fun htrained htest failed dcpOk hunits => ?_,
      fun htest hready hfail => ⟨fun hbad => ?_, fun hcp hstacks => ?_⟩⟩⟩
  · change execPowerOnRelease straps s = _
    exact next_when_of (by rw [hoff]; rfl) rfl
  · change execPerstDeassert straps s = _
    exact next_when_of hperst rfl
  · change execPcieLinkUp gen6 s = _
    exact next_when_of (by rw [halive, hfuses, hhost]; rfl) rfl
  · change execRailCheckTimeout mv s = _
    exact next_when_of (by rw [halive, hfuses, himage, hgroom]; rfl) rfl
  · change execImageVerified readOk s = _
    subst hc
    exact next_when_of (by rw [halive, hfuses, hrail, himage, hgroom]; rfl) (if_pos hok)
  · change execImageVerified readOk s = _
    subst hc
    exact next_when_of (by rw [halive, hfuses, hrail, himage, hgroom]; rfl) (if_neg hbad)
  · change execFirmwareStart s = _
    exact next_when_of (by rw [halive, himage, hgroom]; rfl) rfl
  · change execSelfTestDone failed dcpOk s = _
    exact withUnit_when_of hunits (by rw [halive, htrained, htest]; rfl) rfl
  · change execDeviceReady s = _
    exact next_when_of (by rw [halive, htest, hready, hfail]; rfl) (if_pos (Bool.or_eq_true_iff.mpr hbad))
  · change execDeviceReady s = _
    exact next_when_of (by rw [halive, htest, hready, hfail]; rfl) (if_neg (by rw [hcp, hstacks]; exact Bool.false_ne_true))

/-- An instruction that takes effect as one that selects the boundary register captures the pins and takes the new cells. -/
theorem scanSelect_boundary {s : State} {code e : Nat} (pins data : BitVec 1774) (he : scanEffective s code = e)
    (hsel : e = 0 ∨ e = 2 ∨ e = 5 ∨ e = 6) : scanSelect code pins data s =
      s.onBoot fun b => { b with ir := code, scanCells := pins, scanOut := data, dr := pins.toNat } := by
  subst he
  have hsel' : (scanEffective s code = 0 || scanEffective s code = 2 || scanEffective s code = 5
      || scanEffective s code = 6) = true := by simpa [or_assoc] using hsel
  simp only [scanSelect, if_pos hsel']

/-- An instruction that takes effect as one of the others but IDCODE selects the bypass bit. -/
theorem scanSelect_bypassed {s : State} {code e : Nat} (pins data : BitVec 1774) (he : scanEffective s code = e)
    (hlow : e ≠ 0 ∧ e ≠ 1 ∧ e ≠ 2) (hhigh : e ≠ 5 ∧ e ≠ 6) :
    scanSelect code pins data s = s.onBoot fun b => { b with ir := code, dr := 0 } := by
  subst he
  obtain ⟨h0, h1, h2⟩ := hlow
  obtain ⟨h5, h6⟩ := hhigh
  simp [scanSelect, h0, h1, h2, h5, h6]

/-- While PERST is asserted, every instruction up to 6 takes effect as itself (R599). -/
theorem scanEffective_perst {s : State} {code : Nat} (hperst : s.boot.perst = true) (hcode : code ≤ 6) :
    scanEffective s code = code := by
  simp [scanEffective, hperst, hcode]

/-- While PERST is deasserted, an instruction other than IDCODE and SAMPLE/PRELOAD acts as BYPASS (R599). -/
theorem scanEffective_no_perst {s : State} {code : Nat} (hperst : s.boot.perst = false) (hcode : code ≠ 1 ∧ code ≠ 2) :
    scanEffective s code = 0xFF := by
  simp [scanEffective, hperst, hcode]

/-- An instruction above 6 acts as BYPASS. -/
theorem scanEffective_above {s : State} {code : Nat} (hcode : 6 < code) : scanEffective s code = 0xFF := by
  have h1 : code ≠ 1 := by omega
  have h2 : code ≠ 2 := by omega
  simp [scanEffective, h1, h2, Nat.not_le.2 hcode]

/-- CLAMP and HIGHZ select the bypass bit whether they take effect or not. -/
theorem scanSelect_quiet {s : State} {code : Nat} (pins data : BitVec 1774) (hcode : code = 3 ∨ code = 4) :
    scanSelect code pins data s = s.onBoot fun b => { b with ir := code, dr := 0 } := by
  cases hperst : s.boot.perst with
  | true => exact scanSelect_bypassed pins data (scanEffective_perst hperst (by omega)) (by omega) (by omega)
  | false => exact scanSelect_bypassed pins data (scanEffective_no_perst hperst (by omega)) (by decide) (by decide)

/-- EXTEST and its forms select the boundary register only while PERST is asserted, and act as BYPASS otherwise (R599). -/
theorem scanSelect_extest {s : State} {code : Nat} (pins data : BitVec 1774) (hcode : code = 0 ∨ code = 5 ∨ code = 6) :
    scanSelect code pins data s = if s.boot.perst then
        s.onBoot fun b => { b with ir := code, scanCells := pins, scanOut := data, dr := pins.toNat }
      else s.onBoot fun b => { b with ir := code, dr := 0 } := by
  cases hperst : s.boot.perst with
  | true => exact scanSelect_boundary pins data (scanEffective_perst hperst (by omega)) (by omega)
  | false => exact scanSelect_bypassed pins data (scanEffective_no_perst hperst (by omega)) (by decide) (by decide)

/-- Settles O40: each instruction by what it takes effect as, with PERST asserted or not. -/
theorem boundaryScanRuns : Obligations.BoundaryScanRuns := by
  unfold Obligations.BoundaryScanRuns
  intro s pins data shift one hshift hone
  simp only [hshift, hone]
  refine ⟨?_, rfl, ?_, ?_, fun code => ?_, ?_, ?_, ?_⟩
  · exact congrArg Host.Outcome.next (scanSelect_boundary pins data (code := 2) rfl (.inr (.inl rfl)))
  · exact congrArg Host.Outcome.next (scanSelect_quiet (code := 3) 0 0 (by omega))
  · exact congrArg Host.Outcome.next (scanSelect_quiet (code := 4) 0 0 (by omega))
  · have hcode : 6 < (if code % 256 ≤ 6 then 0xFF else code % 256) := by split <;> omega
    exact congrArg Host.Outcome.next (scanSelect_bypassed 0 0 (scanEffective_above hcode) (by decide) (by decide))
  · exact congrArg Host.Outcome.next (scanSelect_extest (code := 0) pins data (by omega))
  · exact congrArg Host.Outcome.next (scanSelect_extest (code := 5) pins data (by omega))
  · exact congrArg Host.Outcome.next (scanSelect_extest (code := 6) pins data (by omega))

end Sys2Proof.Machine
end
